-- ==== Sys2Proof/Word.lean ====
section
/-! DEFINITION. The words of the machine (02 R37, R38) and the two kinds of finite map that its state is made of. -/

namespace Sys2Proof

/-- A scalar register's value, a virtual address, a control register (02 R37). -/
abbrev Word := BitVec 64
/-- One byte of memory. -/
abbrev Byte := BitVec 8
/-- An instruction word (03 R53). -/
abbrev InstrWord := BitVec 32
/-- An origin label: bit i names principal i (02 R41, 18 R388). -/
abbrev Label := BitVec 16
/-- A format tag code (05 R121). -/
abbrev Tag := BitVec 6
/-- The 512 bits of a vector register (02 R38). -/
abbrev VBits := BitVec 512
/-- The 2,048 bytes of a tile register or an accumulator bank (02 R38, 11 R241). -/
abbrev TileBits := BitVec 16384

/-- A map from numbers, kept as a list whose keys rise strictly. -/
abbrev NMap (α : Type) := List (Nat × α)
/-- A map from keys of any kind with decidable equality, in order of first entry. -/
abbrev KMap (κ α : Type) := List (κ × α)

end Sys2Proof
end

