-- ==== Sys2Proof/Syntax.lean ====
section
/-! DEFINITION. The instructions of the GW9: one constructor for each row of the opcode table. The first 237 are the
instruction words, with the fields of 03 R56 to R81; the rest are the table's events, which have no encoding: each
names what moves, and the step function or the outside world takes them. -/

namespace Sys2Proof

/-- The stall count, bits [25:24] of every word (03 R53). -/
abbrev Stall := BitVec 2
/-- Scalar register field (03 Table 3.1). -/
abbrev SReg := BitVec 6
/-- Predicate register number (03 Table 3.1). -/
abbrev PReg := BitVec 3
/-- Vector register field (03 Table 3.1). -/
abbrev VReg := BitVec 5
/-- Lane mask number (03 Table 3.1). -/
abbrev KReg := BitVec 3
/-- Tile register number (03 Table 3.1). -/
abbrev TReg := BitVec 3
/-- Accumulator bank number (03 Table 3.1). -/
abbrev Bank := BitVec 6

/-- Integer conditions (03 Table 3.18). -/
inductive ICond where | eq | ne | lt | le | gt | ge | tst | ntst
  deriving DecidableEq, Repr
/-- Float conditions (03 Table 3.18). -/
inductive FCond where | eq | ne | lt | le | gt | ge | un | ord
  deriving DecidableEq, Repr
/-- Integer types (03 Table 3.18). -/
inductive ITy where | i8 | i16 | i32 | i64 | n8 | n16 | n32 | n64
  deriving DecidableEq, Repr
/-- Types of LD and LDA: code 7 is unassigned (03 R71). -/
inductive LdTy where | i8 | i16 | i32 | i64 | n8 | n16 | n32
  deriving DecidableEq, Repr
/-- Element and store widths (03 R71, Table 3.24). -/
inductive Wid where | w8 | w16 | w32 | w64
  deriving DecidableEq, Repr
/-- Widths of the integer atomics (03 Table 3.23). -/
inductive AWid where | w32 | w64
  deriving DecidableEq, Repr
/-- Formats of the vector float majors (03 Table 3.24). -/
inductive FFmt where | f64 | f32 | f16 | bf16
  deriving DecidableEq, Repr
/-- The two formats of vscale and vgexp (03 Table 3.26). -/
inductive FWid where | f64 | f32
  deriving DecidableEq, Repr
/-- MX element formats (05 R132). -/
inductive MxFmt where | e4m3 | e5m2
  deriving DecidableEq, Repr
/-- Types of the reductions (03 Table 3.24). -/
inductive RedTy where
  /-- Codes 0 to 7. -/
  | int (t : ITy)
  /-- Codes 8 to 11. -/
  | flt (f : FFmt)
  deriving DecidableEq, Repr
/-- Scopes, codes 0 to 6 (03 Table 3.2). -/
inductive Scope where | lane | core | quad | die | pkg | pod | sys
  deriving DecidableEq, Repr
/-- Rounding modes, coded as FPC.RM (02 Table 2.5). -/
inductive RMode where | rne | rtz | rup | rdn | rna
  deriving DecidableEq, Repr
/-- Patterns of a spar prefix (03 Table 3.31). -/
inductive SpPat where | of4 | of2
  deriving DecidableEq, Repr
/-- The B operand of a matrix word: a tile register or a bead slot (03 Table 3.11). -/
inductive BSrc where
  /-- BS[14] = 0. -/
  | tile (t : TReg)
  /-- BS[14] = 1. -/
  | slot (n : BitVec 4)
  deriving DecidableEq, Repr

/-- Reason codes of ILLEGAL.OP (03 R87). -/
inductive IllReason where | major | func | rsv | value | chain | crn
  deriving DecidableEq, Repr

/-- Nodes of the reference machine (12 R274): the ends of every channel. -/
inductive Node where
  /-- Core number die * 1024 + logical core. -/
  | core (c : Nat)
  /-- HBM channel controller (11 R243). -/
  | hbm (n : Nat)
  /-- Second-tier controller (11 R243). -/
  | tier (n : Nat)
  /-- Host-link node of a die, which fronts the die's registers (11 R243). -/
  | host (d : Nat)
  /-- Dispatcher of a die. -/
  | disp (d : Nat)
  /-- Pool unit of a die. -/
  | pool (d : Nat)
  /-- The Delfort ports, towards a target package (22 R444). -/
  | port (p : Nat)
  deriving DecidableEq, Repr

/-- Plane classes (12 Table 12.2). -/
inductive Plane where | q | p | b | k
  deriving DecidableEq, Repr

/-- A barrier instance (08 R203): the scope, the partition, the launch whose strands are its members (or none, for
control threads and for spawned threads at .core), whether control threads meet there, and the number of the scope
instance. -/
structure BarKey where
  scope : Scope
  part : Nat
  launch : Option Nat
  ctrl : Bool
  place : Nat
  deriving DecidableEq, Repr

/-- What an uncorrectable error strikes (20 Table 20.5), and an upset of the residue datapath (17 R385). -/
inductive ErrSite where
  /-- A register, tag, label or pending-set entry of a thread, when it is consumed. -/
  | register (tid : Nat)
  /-- A response in flight to a thread. -/
  | response (tid : Nat)
  /-- An entry of a core's posted-store journal. -/
  | journal (core : Nat) (entry : Nat)
  /-- The wait-table entry of a parked thread. -/
  | waitEntry (tid : Nat)
  /-- An accumulator bank. -/
  | bank (core : Nat) (bank : Nat)
  /-- A local-store word, an HBM or second-tier line, by physical address. -/
  | memory (pa : Nat)
  /-- A dispatcher queue entry. -/
  | queueEntry (lid : Nat)
  /-- A dependence counter. -/
  | counter (die part ctr : Nat)
  /-- A bead in flight. -/
  | bead (eid : Nat)
  /-- The residue datapath of a core: `delta` is added to rod `rod` of element `elem` (of every element when `elem` is
  1,024) on the next `times` attempts; `times` 0 is a lasting fault that flips the bits of `delta` on every attempt. -/
  | rodPath (core rod elem delta times : Nat)
  deriving DecidableEq, Repr

/-- Who writes a register of the window (23 R456). -/
inductive Writer where
  | firmware
  | pf0
  /-- A thread's store, with its TSTAT.WORLD. -/
  | thread (secure : Bool)
  deriving DecidableEq, Repr

/-- What a start meets (23 R453): the outcomes of its stages that only the hardware decides. -/
structure BootEnv where
  /-- Stage 2: the fuses' parity holds. -/
  fusesOk : Bool
  /-- Stage 2: GATE.BOOT can be incremented. -/
  bootInc : Bool
  /-- Stage 3: every row link trains. -/
  linksOk : Bool
  /-- Stage 4: HBM trains. -/
  hbmOk : Bool
  /-- Stage 4: the second tier trains. -/
  tierOk : Bool
  /-- Stage 6: cores that fail self-test. -/
  badCores : List Nat
  /-- Stage 3: routers that take no part in discovery, by die * 1024 + y * 32 + x (23 R455). -/
  deadRouters : List Nat
  /-- A stage that makes no progress, as when firmware hangs (23 R453). -/
  hang : Option Nat
  /-- Stage 6: the worlds that firmware sets, by the keys of `worlds` (18 R398). -/
  worlds : List (Nat × Bool)
  deriving DecidableEq, Repr

/-- The instructions, one constructor for each row of the opcode table. -/
inductive Instr where
  /-- ADD: Writes the 64-bit sum of two scalar registers. (R93) -/
  | add (st : Stall) (d : SReg) (a : SReg) (b : SReg)
  /-- SUB: Writes the 64-bit difference of two scalar registers. (R93) -/
  | sub (st : Stall) (d : SReg) (a : SReg) (b : SReg)
  /-- MUL: Writes the low 64 bits of a product. (R93) -/
  | mul (st : Stall) (d : SReg) (a : SReg) (b : SReg)
  /-- MULH_I64: Writes the high 64 bits of a signed product. (R93) -/
  | mulhI64 (st : Stall) (d : SReg) (a : SReg) (b : SReg)
  /-- MULH_N64: Writes the high 64 bits of an unsigned product. (R93) -/
  | mulhN64 (st : Stall) (d : SReg) (a : SReg) (b : SReg)
  /-- DIV_I64: Signed divide that parks the thread and has fixed results for a zero divisor and for overflow. (R94) -/
  | divI64 (st : Stall) (d : SReg) (a : SReg) (b : SReg)
  /-- DIV_N64: Unsigned divide that parks the thread. (R94) -/
  | divN64 (st : Stall) (d : SReg) (a : SReg) (b : SReg)
  /-- REM_I64: Signed remainder that parks the thread. (R94) -/
  | remI64 (st : Stall) (d : SReg) (a : SReg) (b : SReg)
  /-- REM_N64: Unsigned remainder that parks the thread. (R94) -/
  | remN64 (st : Stall) (d : SReg) (a : SReg) (b : SReg)
  /-- AND: Bitwise and of two registers. (R93) -/
  | and (st : Stall) (d : SReg) (a : SReg) (b : SReg)
  /-- OR: Bitwise or of two registers. (R93) -/
  | or (st : Stall) (d : SReg) (a : SReg) (b : SReg)
  /-- XOR: Bitwise xor of two registers. (R93) -/
  | xor (st : Stall) (d : SReg) (a : SReg) (b : SReg)
  /-- ANDN: a and not b. (R93) -/
  | andn (st : Stall) (d : SReg) (a : SReg) (b : SReg)
  /-- ORN: a or not b. (R93) -/
  | orn (st : Stall) (d : SReg) (a : SReg) (b : SReg)
  /-- XNOR: not (a xor b). (R93) -/
  | xnor (st : Stall) (d : SReg) (a : SReg) (b : SReg)
  /-- SLL: Logical left shift by b[5:0]. (R93) -/
  | sll (st : Stall) (d : SReg) (a : SReg) (b : SReg)
  /-- SRL: Logical right shift by b[5:0]. (R93) -/
  | srl (st : Stall) (d : SReg) (a : SReg) (b : SReg)
  /-- SRA: Arithmetic right shift by b[5:0]. (R93) -/
  | sra (st : Stall) (d : SReg) (a : SReg) (b : SReg)
  /-- ROL: Rotate left by b[5:0]. (R93) -/
  | rol (st : Stall) (d : SReg) (a : SReg) (b : SReg)
  /-- ROR: Rotate right by b[5:0]. (R93) -/
  | ror (st : Stall) (d : SReg) (a : SReg) (b : SReg)
  /-- MIN_I64: Signed minimum. (R93) -/
  | minI64 (st : Stall) (d : SReg) (a : SReg) (b : SReg)
  /-- MAX_I64: Signed maximum. (R93) -/
  | maxI64 (st : Stall) (d : SReg) (a : SReg) (b : SReg)
  /-- MIN_N64: Unsigned minimum. (R93) -/
  | minN64 (st : Stall) (d : SReg) (a : SReg) (b : SReg)
  /-- MAX_N64: Unsigned maximum. (R93) -/
  | maxN64 (st : Stall) (d : SReg) (a : SReg) (b : SReg)
  /-- POPC: Counts the 1 bits of a. (R93) -/
  | popc (st : Stall) (d : SReg) (a : SReg)
  /-- CLZ: Counts the leading zeros of a. (R93) -/
  | clz (st : Stall) (d : SReg) (a : SReg)
  /-- CTZ: Counts the trailing zeros of a. (R93) -/
  | ctz (st : Stall) (d : SReg) (a : SReg)
  /-- BEXT_N: Zero-extended bit-field extract. (R97) -/
  | bextN (st : Stall) (d : SReg) (a : SReg) (b : SReg)
  /-- BEXT_I: Sign-extended bit-field extract. (R97) -/
  | bextI (st : Stall) (d : SReg) (a : SReg) (b : SReg)
  /-- BINS: Bit-field insert into s[d]. (R97) -/
  | bins (st : Stall) (d : SReg) (a : SReg) (b : SReg)
  /-- REV8: Reverses the eight bytes of a. (R93) -/
  | rev8 (st : Stall) (d : SReg) (a : SReg)
  /-- CLMUL: Low 64 bits of the carry-less product. (R98) -/
  | clmul (st : Stall) (d : SReg) (a : SReg) (b : SReg)
  /-- CLMULH: High bits of the carry-less product. (R98) -/
  | clmulh (st : Stall) (d : SReg) (a : SReg) (b : SReg)
  /-- SH1ADD: (a << 1) + b. (R93) -/
  | sh1add (st : Stall) (d : SReg) (a : SReg) (b : SReg)
  /-- SH2ADD: (a << 2) + b. (R93) -/
  | sh2add (st : Stall) (d : SReg) (a : SReg) (b : SReg)
  /-- SH3ADD: (a << 3) + b. (R93) -/
  | sh3add (st : Stall) (d : SReg) (a : SReg) (b : SReg)
  /-- SH4ADD: (a << 4) + b. (R93) -/
  | sh4add (st : Stall) (d : SReg) (a : SReg) (b : SReg)
  /-- CMP: Compares two registers by condition and type into a predicate. (R101) -/
  | cmp (st : Stall) (p : PReg) (a : SReg) (b : SReg) (c : ICond) (t : ITy)
  /-- CMPI: Signed compare of a register with an immediate into a predicate. (R102) -/
  | cmpi (st : Stall) (c : ICond) (p : PReg) (a : SReg) (i : BitVec 12)
  /-- CMPIN: Unsigned compare of a register with an immediate into a predicate. (R102) -/
  | cmpin (st : Stall) (c : ICond) (p : PReg) (a : SReg) (i : BitVec 12)
  /-- PAND: And of two sense-adjusted predicates. (R104) -/
  | pand (st : Stall) (d : PReg) (m : Bool) (a : PReg) (n : Bool) (b : PReg)
  /-- POR: Or of two sense-adjusted predicates. (R104) -/
  | por (st : Stall) (d : PReg) (m : Bool) (a : PReg) (n : Bool) (b : PReg)
  /-- PXOR: Xor of two sense-adjusted predicates. (R104) -/
  | pxor (st : Stall) (d : PReg) (m : Bool) (a : PReg) (n : Bool) (b : PReg)
  /-- PMOV: Copies a sense-adjusted predicate. (R104) -/
  | pmov (st : Stall) (d : PReg) (m : Bool) (a : PReg)
  /-- MFPW: Reads the predicate word into a scalar. (R104) -/
  | mfpw (st : Stall) (d : SReg)
  /-- MTPW: Writes p1 to p7 from a scalar in one write. (R104) -/
  | mtpw (st : Stall) (a : SReg)
  /-- SEL: Selects one of two scalars by a predicate. (R105) -/
  | sel (st : Stall) (d : SReg) (a : SReg) (b : SReg) (n : Bool) (c : PReg)
  /-- ADDI: Adds a signed immediate. (R99) -/
  | addi (st : Stall) (d : SReg) (a : SReg) (i : BitVec 12)
  /-- ANDI: And with a zero-extended immediate. (R99) -/
  | andi (st : Stall) (d : SReg) (a : SReg) (i : BitVec 12)
  /-- ORI: Or with a zero-extended immediate. (R99) -/
  | ori (st : Stall) (d : SReg) (a : SReg) (i : BitVec 12)
  /-- XORI: Xor with a zero-extended immediate. (R99) -/
  | xori (st : Stall) (d : SReg) (a : SReg) (i : BitVec 12)
  /-- SLLI: Logical left shift by an immediate. (R100) -/
  | slli (st : Stall) (d : SReg) (a : SReg) (n : BitVec 6)
  /-- SRLI: Logical right shift by an immediate. (R100) -/
  | srli (st : Stall) (d : SReg) (a : SReg) (n : BitVec 6)
  /-- SRAI: Arithmetic right shift by an immediate. (R100) -/
  | srai (st : Stall) (d : SReg) (a : SReg) (n : BitVec 6)
  /-- ROLI: Rotate left by an immediate. (R100) -/
  | roli (st : Stall) (d : SReg) (a : SReg) (n : BitVec 6)
  /-- RORI: Rotate right by an immediate. (R100) -/
  | rori (st : Stall) (d : SReg) (a : SReg) (n : BitVec 6)
  /-- LEA: Writes PC plus a signed byte offset. (R99) -/
  | lea (st : Stall) (d : SReg) (i : BitVec 18)
  /-- MOVI: Writes a sign-extended immediate. (R99) -/
  | movi (st : Stall) (d : SReg) (i : BitVec 18)
  /-- BR: Branches on a sense-adjusted predicate and widens CTXL by its label. (R107) -/
  | br (st : Stall) (p : PReg) (n : Bool) (o : BitVec 20)
  /-- CALL: Conditional call that writes the return address to s63. (R108) -/
  | call (st : Stall) (p : PReg) (n : Bool) (o : BitVec 20)
  /-- BRNZ: Branches when a scalar is nonzero. (R109) -/
  | brnz (st : Stall) (r : SReg) (o : BitVec 17)
  /-- BRZ: Branches when a scalar is zero. (R109) -/
  | brz (st : Stall) (r : SReg) (o : BitVec 17)
  /-- JR: Indirect jump to a checked target. (R110) -/
  | jr (st : Stall) (a : SReg)
  /-- JALR: Indirect jump that writes the return address. (R110) -/
  | jalr (st : Stall) (d : SReg) (a : SReg)
  /-- MFCR: Reads a control register into a scalar. (R114) -/
  | mfcr (st : Stall) (x : SReg) (c : BitVec 12)
  /-- MTCR: Writes a control register field by field after widening CTXL. (R115) -/
  | mtcr (st : Stall) (x : SReg) (c : BitVec 12)
  /-- MTCRS: Sets bits of a control register. (R115) -/
  | mtcrs (st : Stall) (x : SReg) (c : BitVec 12)
  /-- MTCRC: Clears bits of a control register. (R115) -/
  | mtcrc (st : Stall) (x : SReg) (c : BitVec 12)
  /-- LD: Loads 1 to 8 bytes with sign or zero extension. (R303) -/
  | ld (st : Stall) (d : SReg) (a : SReg) (t : LdTy) (o : BitVec 9)
  /-- ST: Stores the low bytes of a register as a non-posted access under the store rule. (R303) -/
  | st (st : Stall) (d : SReg) (a : SReg) (w : Wid) (o : BitVec 9)
  /-- PST: Posted store that takes a journal entry and does not wait for the home. (R304) -/
  | pst (st : Stall) (d : SReg) (a : SReg) (w : Wid) (o : BitVec 9)
  /-- LDA: Acquire load at a scope. (R305) -/
  | lda (st : Stall) (d : SReg) (a : SReg) (t : LdTy) (c : Scope)
  /-- STL: Release store that waits for open entries in its scope's cover. (R305) -/
  | stl (st : Stall) (d : SReg) (a : SReg) (w : Wid) (c : Scope)
  /-- LDFE_TAKE: Waits for a full word, reads it and marks it empty. (R306) -/
  | ldfeTake (st : Stall) (d : SReg) (a : SReg) (e : BitVec 6)
  /-- LDFE_PEEK: Waits for a full word and reads it, leaving it full. (R306) -/
  | ldfePeek (st : Stall) (d : SReg) (a : SReg) (e : BitVec 6)
  /-- STFE_FILL: Waits for an empty word, writes it and marks it full. (R306) -/
  | stfeFill (st : Stall) (d : SReg) (a : SReg) (e : BitVec 6)
  /-- STFE_FORCE: Writes a word and marks it full without waiting. (R306) -/
  | stfeForce (st : Stall) (d : SReg) (a : SReg)
  /-- FECLR: Marks a word empty. (R306) -/
  | feclr (st : Stall) (a : SReg)
  /-- FETST: Reads a word's full/empty bit. (R306) -/
  | fetst (st : Stall) (d : SReg) (a : SReg)
  /-- AADD: Atomic add at the home, returning the old value. (R309) -/
  | aadd (st : Stall) (d : SReg) (a : SReg) (b : SReg) (w : AWid)
  /-- AAND: Atomic and. (R309) -/
  | aand (st : Stall) (d : SReg) (a : SReg) (b : SReg) (w : AWid)
  /-- AOR: Atomic or. (R309) -/
  | aor (st : Stall) (d : SReg) (a : SReg) (b : SReg) (w : AWid)
  /-- AXOR: Atomic xor. (R309) -/
  | axor (st : Stall) (d : SReg) (a : SReg) (b : SReg) (w : AWid)
  /-- AMIN_I: Atomic signed minimum. (R309) -/
  | aminI (st : Stall) (d : SReg) (a : SReg) (b : SReg) (w : AWid)
  /-- AMAX_I: Atomic signed maximum. (R309) -/
  | amaxI (st : Stall) (d : SReg) (a : SReg) (b : SReg) (w : AWid)
  /-- AMIN_N: Atomic unsigned minimum. (R309) -/
  | aminN (st : Stall) (d : SReg) (a : SReg) (b : SReg) (w : AWid)
  /-- AMAX_N: Atomic unsigned maximum. (R309) -/
  | amaxN (st : Stall) (d : SReg) (a : SReg) (b : SReg) (w : AWid)
  /-- ASWAP: Atomic swap. (R309) -/
  | aswap (st : Stall) (d : SReg) (a : SReg) (b : SReg) (w : AWid)
  /-- ACAS: Atomic compare-and-swap against s[d]. (R309) -/
  | acas (st : Stall) (d : SReg) (a : SReg) (b : SReg) (w : AWid)
  /-- SADD_F64: Adds an FP64 value to a sum cell at its home. (R312) -/
  | saddF64 (st : Stall) (d : SReg) (a : SReg) (b : SReg)
  /-- SADD_F32: Adds an FP32 value to a sum cell at its home. (R312) -/
  | saddF32 (st : Stall) (d : SReg) (a : SReg) (b : SReg)
  /-- SREAD_F64: Reads a sum cell rounded to FP64. (R312) -/
  | sreadF64 (st : Stall) (d : SReg) (a : SReg)
  /-- SREAD_F32: Reads a sum cell rounded to FP32. (R312) -/
  | sreadF32 (st : Stall) (d : SReg) (a : SReg)
  /-- SSTORE: Writes all 32 bytes of a sum cell from four registers. (R312) -/
  | sstore (st : Stall) (a : SReg) (b : SReg)
  /-- VADD_I: Element-wise integer add. (R153) -/
  | vaddI (st : Stall) (d : VReg) (a : VReg) (b : VReg) (k : KReg) (t : ITy)
  /-- VSUB_I: Element-wise integer subtract. (R153) -/
  | vsubI (st : Stall) (d : VReg) (a : VReg) (b : VReg) (k : KReg) (t : ITy)
  /-- VMUL_I: Element-wise integer multiply, low half. (R153) -/
  | vmulI (st : Stall) (d : VReg) (a : VReg) (b : VReg) (k : KReg) (t : ITy)
  /-- VMULH: Element-wise integer multiply, high half. (R153) -/
  | vmulh (st : Stall) (d : VReg) (a : VReg) (b : VReg) (k : KReg) (t : ITy)
  /-- VMIN_I: Element-wise integer minimum. (R153) -/
  | vminI (st : Stall) (d : VReg) (a : VReg) (b : VReg) (k : KReg) (t : ITy)
  /-- VMAX_I: Element-wise integer maximum. (R153) -/
  | vmaxI (st : Stall) (d : VReg) (a : VReg) (b : VReg) (k : KReg) (t : ITy)
  /-- VADDS: Element-wise saturating add. (R153) -/
  | vadds (st : Stall) (d : VReg) (a : VReg) (b : VReg) (k : KReg) (t : ITy)
  /-- VSUBS: Element-wise saturating subtract. (R153) -/
  | vsubs (st : Stall) (d : VReg) (a : VReg) (b : VReg) (k : KReg) (t : ITy)
  /-- VAND: Element-wise and. (R154) -/
  | vand (st : Stall) (d : VReg) (a : VReg) (b : VReg) (k : KReg) (w : Wid)
  /-- VOR: Element-wise or. (R154) -/
  | vor (st : Stall) (d : VReg) (a : VReg) (b : VReg) (k : KReg) (w : Wid)
  /-- VXOR: Element-wise xor. (R154) -/
  | vxor (st : Stall) (d : VReg) (a : VReg) (b : VReg) (k : KReg) (w : Wid)
  /-- VANDN: Element-wise a and not b. (R154) -/
  | vandn (st : Stall) (d : VReg) (a : VReg) (b : VReg) (k : KReg) (w : Wid)
  /-- VSLL: Element-wise logical left shift. (R154) -/
  | vsll (st : Stall) (d : VReg) (a : VReg) (b : VReg) (k : KReg) (w : Wid)
  /-- VSRL: Element-wise logical right shift. (R154) -/
  | vsrl (st : Stall) (d : VReg) (a : VReg) (b : VReg) (k : KReg) (w : Wid)
  /-- VSRA: Element-wise arithmetic right shift. (R154) -/
  | vsra (st : Stall) (d : VReg) (a : VReg) (b : VReg) (k : KReg) (w : Wid)
  /-- VROL: Element-wise rotate left. (R154) -/
  | vrol (st : Stall) (d : VReg) (a : VReg) (b : VReg) (k : KReg) (w : Wid)
  /-- VROR: Element-wise rotate right. (R154) -/
  | vror (st : Stall) (d : VReg) (a : VReg) (b : VReg) (k : KReg) (w : Wid)
  /-- VPOPC: Element-wise population count. (R154) -/
  | vpopc (st : Stall) (d : VReg) (a : VReg) (k : KReg) (w : Wid)
  /-- VCLZ: Element-wise leading-zero count. (R154) -/
  | vclz (st : Stall) (d : VReg) (a : VReg) (k : KReg) (w : Wid)
  /-- VNEG_L: Element-wise integer negate. (R154) -/
  | vnegL (st : Stall) (d : VReg) (a : VReg) (k : KReg) (w : Wid)
  /-- VABS_L: Element-wise integer absolute value. (R154) -/
  | vabsL (st : Stall) (d : VReg) (a : VReg) (k : KReg) (w : Wid)
  /-- VADD_F: Element-wise floating-point add, rounded once. (R155) -/
  | vaddF (st : Stall) (d : VReg) (a : VReg) (b : VReg) (k : KReg) (f : FFmt)
  /-- VSUB_F: Element-wise floating-point subtract. (R155) -/
  | vsubF (st : Stall) (d : VReg) (a : VReg) (b : VReg) (k : KReg) (f : FFmt)
  /-- VMUL_F: Element-wise floating-point multiply. (R155) -/
  | vmulF (st : Stall) (d : VReg) (a : VReg) (b : VReg) (k : KReg) (f : FFmt)
  /-- VFMA: Fused a times b plus d. (R155) -/
  | vfma (st : Stall) (d : VReg) (a : VReg) (b : VReg) (k : KReg) (f : FFmt)
  /-- VFMS: Fused a times b minus d. (R155) -/
  | vfms (st : Stall) (d : VReg) (a : VReg) (b : VReg) (k : KReg) (f : FFmt)
  /-- VFNMA: Fused d minus a times b. (R155) -/
  | vfnma (st : Stall) (d : VReg) (a : VReg) (b : VReg) (k : KReg) (f : FFmt)
  /-- VMIN_F: Element-wise floating-point minimum. (R155) -/
  | vminF (st : Stall) (d : VReg) (a : VReg) (b : VReg) (k : KReg) (f : FFmt)
  /-- VMAX_F: Element-wise floating-point maximum. (R155) -/
  | vmaxF (st : Stall) (d : VReg) (a : VReg) (b : VReg) (k : KReg) (f : FFmt)
  /-- VABS_F: Element-wise floating-point absolute value. (R155) -/
  | vabsF (st : Stall) (d : VReg) (a : VReg) (k : KReg) (f : FFmt)
  /-- VNEG_F: Element-wise floating-point negate, canonicalising NaNs. (R155) -/
  | vnegF (st : Stall) (d : VReg) (a : VReg) (k : KReg) (f : FFmt)
  /-- VDIV: Element-wise divide that parks the thread. (R156) -/
  | vdiv (st : Stall) (d : VReg) (a : VReg) (b : VReg) (k : KReg) (f : FFmt)
  /-- VSQRT: Element-wise square root that parks the thread. (R156) -/
  | vsqrt (st : Stall) (d : VReg) (a : VReg) (k : KReg) (f : FFmt)
  /-- VCMP_INT: Integer compare of vectors into a lane mask. (R157) -/
  | vcmpInt (st : Stall) (d : KReg) (a : VReg) (b : VReg) (k : KReg) (t : ITy) (c : ICond)
  /-- VCMP_FLOAT: Floating-point compare of vectors into a lane mask. (R157) -/
  | vcmpFloat (st : Stall) (d : KReg) (a : VReg) (b : VReg) (k : KReg) (f : FFmt) (c : FCond)
  /-- VMOV: Copies a vector register with its tag. (R160) -/
  | vmov (st : Stall) (d : VReg) (a : VReg)
  /-- VPERM_32: Permutes 32-bit lanes by indices. (R160) -/
  | vperm32 (st : Stall) (d : VReg) (a : VReg) (b : VReg)
  /-- VPERM_64: Permutes 64-bit lanes by indices. (R160) -/
  | vperm64 (st : Stall) (d : VReg) (a : VReg) (b : VReg)
  /-- VSEL: Selects elements of two same-tagged vectors by a mask. (R161) -/
  | vsel (st : Stall) (d : VReg) (a : VReg) (b : VReg) (k : KReg)
  /-- KAND: And of two lane masks. (R162) -/
  | kand (st : Stall) (d : KReg) (a : KReg) (b : KReg)
  /-- KOR: Or of two lane masks. (R162) -/
  | kor (st : Stall) (d : KReg) (a : KReg) (b : KReg)
  /-- KXOR: Xor of two lane masks. (R162) -/
  | kxor (st : Stall) (d : KReg) (a : KReg) (b : KReg)
  /-- KNOT: Inverts a lane mask. (R162) -/
  | knot (st : Stall) (d : KReg) (a : KReg)
  /-- KMOV: Copies a lane mask. (R162) -/
  | kmov (st : Stall) (d : KReg) (a : KReg)
  /-- VCLMUL_LO_32: Element-wise carry-less multiply, low 32 bits. (R163) -/
  | vclmulLo32 (st : Stall) (d : VReg) (a : VReg) (b : VReg) (k : KReg)
  /-- VCLMUL_HI_32: Element-wise carry-less multiply, high 32 bits. (R163) -/
  | vclmulHi32 (st : Stall) (d : VReg) (a : VReg) (b : VReg) (k : KReg)
  /-- VCLMUL_LO_64: Element-wise carry-less multiply, low 64 bits. (R163) -/
  | vclmulLo64 (st : Stall) (d : VReg) (a : VReg) (b : VReg) (k : KReg)
  /-- VCLMUL_HI_64: Element-wise carry-less multiply, high 64 bits. (R163) -/
  | vclmulHi64 (st : Stall) (d : VReg) (a : VReg) (b : VReg) (k : KReg)
  /-- VRADD: Sums the enabled elements into element 0. (R159) -/
  | vradd (st : Stall) (d : VReg) (a : VReg) (k : KReg) (t : RedTy)
  /-- VRMIN: Minimum of the enabled elements into element 0. (R159) -/
  | vrmin (st : Stall) (d : VReg) (a : VReg) (k : KReg) (t : RedTy)
  /-- VRMAX: Maximum of the enabled elements into element 0. (R159) -/
  | vrmax (st : Stall) (d : VReg) (a : VReg) (k : KReg) (t : RedTy)
  /-- VBCAST_32: Broadcasts a scalar into 32-bit elements. (R164) -/
  | vbcast32 (st : Stall) (d : VReg) (a : SReg) (k : KReg)
  /-- VBCAST_64: Broadcasts a scalar into 64-bit elements. (R164) -/
  | vbcast64 (st : Stall) (d : VReg) (a : SReg) (k : KReg)
  /-- VINS_32: Inserts a scalar into one 32-bit element. (R164) -/
  | vins32 (st : Stall) (d : VReg) (a : SReg) (l : BitVec 4)
  /-- VINS_64: Inserts a scalar into one 64-bit element. (R164) -/
  | vins64 (st : Stall) (d : VReg) (a : SReg) (l : BitVec 3)
  /-- VEXT_32: Extracts one 32-bit element into a scalar. (R164) -/
  | vext32 (st : Stall) (d : VReg) (a : SReg) (l : BitVec 4)
  /-- VEXT_64: Extracts one 64-bit element into a scalar. (R164) -/
  | vext64 (st : Stall) (d : VReg) (a : SReg) (l : BitVec 3)
  /-- VCVT: Converts elements from the source tag to the destination format. (R165) -/
  | vcvt (st : Stall) (d : VReg) (a : VReg) (t : Bool) (k : KReg) (f : Tag)
  /-- VSCALE: Multiplies elements by 2 to an integer power. (R167) -/
  | vscale (st : Stall) (d : VReg) (a : VReg) (b : VReg) (k : KReg) (f : FWid)
  /-- VGEXP: Writes the binary exponent of each element. (R167) -/
  | vgexp (st : Stall) (d : VReg) (a : VReg) (k : KReg) (f : FWid)
  /-- VMXSC: Computes MX block scale codes. (R168) -/
  | vmxsc (st : Stall) (d : VReg) (a : VReg) (b : VReg) (k : KReg) (f : MxFmt)
  /-- VMXQ: Quantises elements into an MX element format under a scale. (R168) -/
  | vmxq (st : Stall) (d : VReg) (a : VReg) (b : VReg) (k : KReg) (f : MxFmt)
  /-- VMXDQ: Dequantises MX elements into BF16. (R168) -/
  | vmxdq (st : Stall) (d : VReg) (a : VReg) (b : VReg) (k : KReg) (f : MxFmt)
  /-- VLD: Loads a 64-byte line into a vector and sets its tag. (R313) -/
  | vld (st : Stall) (d : VReg) (a : SReg) (t : Tag) (k : KReg) (o : BitVec 4)
  /-- VST: Stores the enabled elements of a vector to a 64-byte line. (R314) -/
  | vst (st : Stall) (d : VReg) (a : SReg) (k : KReg) (o : BitVec 4)
  /-- TLD: Loads a tile row by row from memory. (R323) -/
  | tld (st : Stall) (d : TReg) (a : SReg) (b : SReg)
  /-- TST: Stores a tile row by row to memory. (R323) -/
  | tst (st : Stall) (d : TReg) (a : SReg) (b : SReg)
  /-- TZERO: Zeroes a tile register. (R322) -/
  | tzero (st : Stall) (d : TReg)
  /-- TMOV: Copies a tile register and its shape. (R322) -/
  | tmov (st : Stall) (d : TReg) (a : TReg)
  /-- TSHAPE: Writes a tile shape register from a scalar. (R322) -/
  | tshape (st : Stall) (d : TReg) (a : SReg)
  /-- TGSHAPE: Reads a tile shape register into a scalar. (R322) -/
  | tgshape (st : Stall) (d : TReg) (a : SReg)
  /-- MMA_F64: Queues an FP64 matrix multiply-accumulate command. (R336) -/
  | mmaF64 (st : Stall) (n : Bank) (a : TReg) (b : BSrc) (z : Bool)
  /-- MMA_F32: Queues an FP32 matrix multiply-accumulate command. (R336) -/
  | mmaF32 (st : Stall) (n : Bank) (a : TReg) (b : BSrc) (z : Bool)
  /-- MMA_BF16: Queues a BF16 matrix multiply-accumulate command. (R336) -/
  | mmaBf16 (st : Stall) (n : Bank) (a : TReg) (b : BSrc) (z : Bool)
  /-- MMA_F16: Queues an FP16 matrix multiply-accumulate command. (R336) -/
  | mmaF16 (st : Stall) (n : Bank) (a : TReg) (b : BSrc) (z : Bool)
  /-- MMA_B8: Queues a binary8 matrix multiply-accumulate command. (R337) -/
  | mmaB8 (st : Stall) (n : Bank) (a : TReg) (b : BSrc) (z : Bool)
  /-- MMA_MXE4M3: Queues an MX E4M3 matrix multiply-accumulate command. (R337) -/
  | mmaMxe4m3 (st : Stall) (n : Bank) (a : TReg) (b : BSrc) (z : Bool)
  /-- MMA_MXE5M2: Queues an MX E5M2 matrix multiply-accumulate command. (R337) -/
  | mmaMxe5m2 (st : Stall) (n : Bank) (a : TReg) (b : BSrc) (z : Bool)
  /-- RMMA_I8: Queues a residue int8 matrix product command. (R341) -/
  | rmmaI8 (st : Stall) (n : Bank) (a : TReg) (b : BSrc) (z : Bool)
  /-- RMMA_I16: Queues a residue int16 matrix product command. (R341) -/
  | rmmaI16 (st : Stall) (n : Bank) (a : TReg) (b : BSrc) (z : Bool)
  /-- ACQA: Requests a run of accumulator banks. (R326) -/
  | acqa (st : Stall) (x : SReg)
  /-- RELA: Releases held accumulator banks after their commands complete. (R327) -/
  | rela (st : Stall) (x : SReg)
  /-- ARDT: Reads an accumulator window into a tile, rounding. (R329) -/
  | ardt (st : Stall) (n : Bank) (d : TReg)
  /-- AZERO: Zeroes an accumulator bank. (R328) -/
  | azero (st : Stall) (n : Bank)
  /-- RFWD: Converts a tile into residues on all six rods. (R349) -/
  | rfwd (st : Stall) (n : Bank) (d : TReg)
  /-- RREV_I64: Reconstructs and checks a residue window into .i64. (R350) -/
  | rrevI64 (st : Stall) (n : Bank) (d : TReg)
  /-- RREV_I32: Reconstructs and checks a residue window into .i32 with saturation. (R350) -/
  | rrevI32 (st : Stall) (n : Bank) (d : TReg)
  /-- RCHK: Checks all elements of a residue accumulator. (R351) -/
  | rchk (st : Stall) (n : Bank) (x : SReg)
  /-- RODRD: Reads the live rod set. (R352) -/
  | rodrd (st : Stall) (x : SReg)
  /-- RODDEG: Marks rods failed from a secure control thread. (R353) -/
  | roddeg (st : Stall) (x : SReg)
  /-- SPAWN: Starts a compute thread in a slot of the issuing core. (R218) -/
  | spawn (st : Stall) (x : SReg) (y : SReg)
  /-- EXIT: Ends the thread after its results and posted stores are done. (R220) -/
  | exit (st : Stall)
  /-- LAUNCH: Reads a launch descriptor and hands it to the dispatcher. (R221) -/
  | launch (st : Stall) (x : SReg) (y : SReg)
  /-- MIGR: Creates a migrant thread. (R222) -/
  | migr (st : Stall) (x : SReg) (y : SReg)
  /-- WAITQ: Waits for a clock to reach a target. (R235) -/
  | waitq (st : Stall) (x : SReg) (e : BitVec 6)
  /-- TGSTART: Arrives at the start of timed mode for the group. (R237) -/
  | tgstart (st : Stall) (y : SReg)
  /-- TGCLK: Snapshots VCC and lag. (R236) -/
  | tgclk (st : Stall) (x : SReg)
  /-- BAR: Arrives if needed and waits out a barrier phase. (R227) -/
  | bar (st : Stall) (e : BitVec 6) (c : Scope)
  /-- FENCE: Waits for open journal entries in the scope's cover. (R315) -/
  | fence (st : Stall) (c : Scope)
  /-- BARA: Arrives at a barrier phase. (R227) -/
  | bara (st : Stall) (c : Scope)
  /-- BARW: Waits out the phase arrived at. (R227) -/
  | barw (st : Stall) (e : BitVec 6) (c : Scope)
  /-- QPUT: Puts a value into a ring queue at its home, waiting when full. (R231) -/
  | qput (st : Stall) (x : SReg) (y : SReg) (e : BitVec 6) (c : Scope)
  /-- QGET: Takes a value from a ring queue at its home, waiting when empty. (R231) -/
  | qget (st : Stall) (x : SReg) (y : SReg) (e : BitVec 6) (c : Scope)
  /-- RTEN: Sets TSTAT.TE. (R414) -/
  | rten (st : Stall)
  /-- TRET: Returns from a trap to TEPC. (R415) -/
  | tret (st : Stall)
  /-- HSAVE: Saves the trap registers to a trap record. (R418) -/
  | hsave (st : Stall) (y : SReg)
  /-- HREST: Restores the trap registers and clears TE. (R419) -/
  | hrest (st : Stall) (y : SReg)
  /-- CSAVE: Saves the thread's context and banks, vacating the slot under PREEMPT. (R420) -/
  | csave (st : Stall) (y : SReg)
  /-- CREST: Restores a context record and its banks. (R420) -/
  | crest (st : Stall) (y : SReg)
  /-- PCOMMIT: Commits a sparse page from the pool. (R316) -/
  | pcommit (st : Stall) (y : SReg)
  /-- PFREE: Frees a committed page back to the pool. (R317) -/
  | pfree (st : Stall) (y : SReg)
  /-- PALLOC: Takes a pool page above a reserve count. (R318) -/
  | palloc (st : Stall) (x : SReg) (y : SReg)
  /-- SWTRAP: Takes SW.TRAP precisely. (R421) -/
  | swtrap (st : Stall) (y : SReg)
  /-- LRD: Reads a scalar's label. (R399) -/
  | lrd (st : Stall) (d : SReg) (a : SReg)
  /-- LRDP: Reads a predicate's label. (R399) -/
  | lrdp (st : Stall) (d : SReg) (a : PReg)
  /-- LRDV: Reads a vector register's label and tag. (R399) -/
  | lrdv (st : Stall) (d : SReg) (a : VReg)
  /-- LRDK: Reads a lane mask's label. (R399) -/
  | lrdk (st : Stall) (d : SReg) (a : KReg)
  /-- LRDT: Reads a tile register's label and tag. (R399) -/
  | lrdt (st : Stall) (d : SReg) (a : TReg)
  /-- LRDB: Reads a location's label at its home. (R399) -/
  | lrdb (st : Stall) (d : SReg) (a : SReg)
  /-- LRDG: Reads a mapping's label and attributes. (R399) -/
  | lrdg (st : Stall) (d : SReg) (a : SReg)
  /-- LJOIN: Widens CTXL by a value's contents and label. (R400) -/
  | ljoin (st : Stall) (a : SReg)
  /-- GSET: Verifies and installs a signed release policy. (R403) -/
  | gset (st : Stall) (d : SReg) (a : SReg)
  /-- REL: Releases labelled bytes to an egress destination through the gate. (R404) -/
  | rel (st : Stall) (d : SReg) (a : SReg) (b : SReg)
  /-- BTOUR: Issues a bead tour command. (R361) -/
  | btour (st : Stall) (x : SReg) (y : SReg) (z : SReg)
  /-- BWAIT: Waits for a bead slot to be held and checks its tag. (R371) -/
  | bwait (st : Stall) (x : SReg) (e : BitVec 6)
  /-- BPASS: Ends a visit and passes the bead on. (R372) -/
  | bpass (st : Stall) (x : SReg)
  /-- BTAG: Binds a bead slot to the thread with an expected tag. (R370) -/
  | btag (st : Stall) (x : SReg) (y : SReg)
  /-- COPY: Issues a copy engine command. (R373) -/
  | copy (st : Stall) (x : SReg) (y : SReg) (z : SReg)
  /-- MCAST: Issues a multicast to cores of the quad. (R376) -/
  | mcast (st : Stall) (x : SReg) (y : SReg) (z : SReg)
  /-- JOIN: Waits while a completion object runs and returns its state. (R379) -/
  | join (st : Stall) (x : SReg) (e : BitVec 6)
  /-- POLL: Reads a completion object's state without waiting. (R379) -/
  | poll (st : Stall) (x : SReg) (y : SReg)
  /-- BBSET: Resets a byte barrier and sets its target. (R377) -/
  | bbset (st : Stall) (x : SReg) (y : SReg)
  /-- BBWAIT: Waits until a byte barrier reaches its target. (R378) -/
  | bbwait (st : Stall) (x : SReg) (e : BitVec 6)
  /-- NOP: No-operation hint. (R80) -/
  | nop (st : Stall)
  /-- SIG: Signature word that compares the flint state with its payload. (R424) -/
  | sig (st : Stall) (g : BitVec 16)
  /-- SCHED_TRIP: Scheduling hint with an expected loop count. (R80) -/
  | schedTrip (st : Stall) (n : BitVec 16)
  /-- SCHED_BIAS: Scheduling hint with a branch bias. (R80) -/
  | schedBias (st : Stall) (b : Bool)
  /-- LIMM: Prefix that widens the prefixed word's immediate by 20 bits. (R82) -/
  | limm (l : BitVec 20)
  /-- RND: Prefix that overrides the rounding mode for the prefixed word. (R83) -/
  | rnd (m : RMode)
  /-- SROUND: Prefix that makes the prefixed word round stochastically. (R141) -/
  | sround
  /-- SPAR: Prefix that declares the MMA A operand sparse. (R339) -/
  | spar (t : TReg) (p : SpPat)
  /-- ITIN_OPTS: Prefix that sets NOREV for the prefixed btour. (R83) -/
  | itinOpts (n : Bool)
  /-- RESERVED_HINT: Hint kinds 0x30 to 0x3F execute as no-operations. (R79) -/
  | reservedHint (st : Stall) (k : BitVec 4) (p : BitVec 18)
  /-- Event RESULT_WRITE: A fixed-latency or scheduled result is written at the end of its due rotation. (R46) -/
  | resultWrite (tid : Nat)
  /-- Event DIVIDE_RESULT: A parked divide or remainder writes its result and wakes the thread. (R95) -/
  | divideResult (tid : Nat)
  /-- Event VECTOR_DIVIDE_RESULT: vdiv or vsqrt writes its result or takes FP.EXC when due. (R156) -/
  | vectorDivideResult (tid : Nat)
  /-- Event PARK_WAKE: A parked thread whose condition became true issues its next word at its turn. (R45) -/
  | parkWake (tid : Nat)
  /-- Event WAIT_EXPIRED: A wait limit expires and the word takes WAIT.EXPIRED or sends a withdrawal. (R51) -/
  | waitExpired (tid : Nat)
  /-- Event TAKE_PENDING_EVENT: At an own turn with TE = 1 the thread takes the oldest pending asynchronous trap or interrupt. (R411) -/
  | takePendingEvent (tid : Nat)
  /-- Event DELIVER: The head message of a channel joins its destination's arrival queue. (R277) -/
  | deliver (src : Node) (dst : Node) (pl : Plane)
  /-- Event COMBINE: A router combines two reduce-adds or sum-cell adds to one line. (R443) -/
  | combine (srcA : Node) (srcB : Node) (dst : Node)
  /-- Event PERFORM: A home performs the head of its arrival queue and releases waiters. (R277) -/
  | perform (home : Node)
  /-- Event WITHDRAWAL: A home takes a waiter's withdrawal and removes it if not yet performed. (R234) -/
  | withdrawal (home : Node)
  /-- Event COMPLETE: A delivered response writes its register, retires a journal entry or counts for an engine. (R277) -/
  | complete (node : Node)
  /-- Event FORK: An engine word's command starts as an engine thread with its completion object written. (R291) -/
  | fork (tid : Nat)
  /-- Event ENGINE_STEP: An engine thread sends a piece once its predecessors have retired. (R277) -/
  | engineStep (eid : Nat)
  /-- Event ENGINE_START_OFFSET: A timed engine command begins when VCC reaches its offset. (R358) -/
  | engineStartOffset (eid : Nat)
  /-- Event FINISH: An engine thread writes its completion object whole after all pieces complete. (R293) -/
  | finish (eid : Nat)
  /-- Event SHIP: A migrant's state leaves its host slot for the home core. (R206) -/
  | ship (tid : Nat)
  /-- Event MIGRANT_RESIDENT: The head of the migrant arrival queue becomes resident in the host slot. (R207) -/
  | migrantResident (core : Nat) (part : Nat)
  /-- Event MATRIX_COMMAND_START: The matrix unit starts the oldest command of the next slot in barrel order. (R330) -/
  | matrixCommandStart (core : Nat)
  /-- Event MATRIX_COMMAND_COMPLETE: A command writes its banks and posts flags, RNSF and asynchronous traps. (R333) -/
  | matrixCommandComplete (core : Nat)
  /-- Event FREEZE: A late fixed-latency result freezes the partition on the core until it is written. (R210) -/
  | freeze (core : Nat) (part : Nat) (rots : Nat)
  /-- Event PAUSE_NOTICE: A scheduled access not answered 4 cc before due pauses the timed group. (R212) -/
  | pauseNotice (gid : Nat)
  /-- Event PAUSE_RESUME: The late response arrives and the group resumes at a named rotation. (R212) -/
  | pauseResume (gid : Nat)
  /-- Event TIMING_LAG: A core's lag exceeds TBUDGET and the group leaves timed mode. (R215) -/
  | timingLag (gid : Nat) (core : Nat)
  /-- Event TIMED_GROUP_START: All strands of a timed group start at quartz T0. (R238) -/
  | timedGroupStart (gid : Nat)
  /-- Event TGSTART_BOUND_EXPIRY: Not every strand arrives within 2^20 cc and the arrived strands expire. (R238) -/
  | tgstartBoundExpiry (gid : Nat)
  /-- Event GROUP_DEAL: The dispatcher checks a ready launch and deals its next group to a unit. (R197) -/
  | groupDeal (die : Nat) (part : Nat)
  /-- Event LAUNCH_AGING: A launch waiting longer than AGE.LIM moves up one level. (R198) -/
  | launchAging (lid : Nat)
  /-- Event LAUNCH_COMPLETION: When every strand has ended the dispatcher makes writes visible, decrements DONEDEP and writes status. (R200) -/
  | launchCompletion (lid : Nat)
  /-- Event BARRIER_COMPLETE: A barrier phase completes and its members are released. (R224) -/
  | barrierComplete (bid : BarKey)
  /-- Event BEAD_ARRIVAL: A bead reaches a core for a slot and lands, waits or is skipped. (R365) -/
  | beadArrival (eid : Nat)
  /-- Event BEAD_LANDED: The last byte of a bead is written and the slot becomes HELD. (R365) -/
  | beadLanded (eid : Nat)
  /-- Event HOLD_EXPIRY: A visit's hold clock reaches HOLD and the visit is missed. (R365) -/
  | holdExpiry (eid : Nat)
  /-- Event BEAD_DEPARTURE: A bead departs once every command naming its slot has read it. (R338) -/
  | beadDeparture (core : Nat) (part : Nat) (slot : Nat)
  /-- Event FOLLOW_ON_ENTRY: A held bead's follow-on MMA enters the holder's matrix queue. (R367) -/
  | followOnEntry (eid : Nat)
  /-- Event COPY_FOLLOW_ON: A copy's follow-on enters the issuer's matrix queue after all writes are acknowledged. (R375) -/
  | copyFollowOn (eid : Nat)
  /-- Event COPY_SLOT_FILL: A copy into a bead slot proceeds once the slot is EMPTY or LAPSED final. (R374) -/
  | copySlotFill (eid : Nat)
  /-- Event PFREE_APPEND: After translations drain, a freed page is appended to the pool. (R272) -/
  | pfreeAppend (tid : Nat)
  /-- Event CSW_CTL_REQ: A write of REQ begins switching the partition out and delivers PREEMPT. (R428) -/
  | cswCtlReq (core : Nat) (part : Nat)
  /-- Event PREEMPT_TIMEOUT: A thread that has not vacated within 2^20 cc is killed. (R428) -/
  | preemptTimeout (core : Nat) (part : Nat)
  /-- Event DRAIN_LIMIT: At the drain limit copies stop and tours are cancelled. (R428) -/
  | drainLimit (core : Nat) (part : Nat)
  /-- Event SWITCHED_OUT: When no drained command runs, PHASE becomes 3 and spilling begins. (R428) -/
  | switchedOut (core : Nat) (part : Nat)
  /-- Event CSW_CTL_RES: A write of RES performs spilled records and restarts vacated slots with RESUME. (R429) -/
  | cswCtlRes (core : Nat) (part : Nat)
  /-- Event UNCORRECTABLE_ERROR: An uncorrectable error strikes storage and poisons or kills as tabulated. (R426) -/
  | uncorrectableError (site : ErrSite)
  /-- Event SCRUB_END: A killed slot's scrub ends and the slot becomes free. (R427) -/
  | scrubEnd (tid : Nat)
  /-- Event HANG: WD.CNT reaches WD.LIM and HANG is delivered. (R432) -/
  | hang (die : Nat) (part : Nat)
  /-- Event INT_REQ: A write to INT.REQ raises a vector of the partition's function. (R449) -/
  | intReq (part : Nat) (vec : BitVec 8) (lab : Label)
  /-- Event INT_REQ_ARRIVAL: An interrupt request reaches the host-link node and is sent, recorded or dropped. (R449) -/
  | intReqArrival (part : Nat)
  /-- Event VF_RUN: VF.CTL STATE set to 0 sends recorded vectors in ascending order. (R449) -/
  | vfRun (part : Nat)
  /-- Event VF_DESCHEDULE: VF.CTL STATE set to 1 records later vectors instead of sending them. (R449) -/
  | vfDeschedule (part : Nat)
  /-- Event VF_PAUSE: VF.CTL STATE set to 2 switches the partition out on every core for migration. (R451) -/
  | vfPause (part : Nat)
  /-- Event VF_RESET: VF.CTL STATE set to 3 holds the function in reset; leaving it advances GEN. (R448) -/
  | vfReset (part : Nat)
  /-- Event MBOX: A host write to MBOX is performed as stfe.force on the mailbox word. (R447) -/
  | mbox (part : Nat) (v : Word)
  /-- Event INBOUND_READ: A host or fabric read is returned only when its labels fit the partition's owner set. (R397) -/
  | inboundRead (fab : Bool) (part : Nat) (pa : Nat) (n : Nat)
  /-- Event INBOUND_WRITE: A host or fabric write is performed with the partition's owner set as label. (R397) -/
  | inboundWrite (fab : Bool) (part : Nat) (pa : Nat) (bytes : List Byte)
  /-- Event BUDGET_EPOCH: A new host-link budget epoch releases waiting requests. (R450) -/
  | budgetEpoch (part : Nat)
  /-- Event LINK_NARROW: A lightly used link narrows one step after 65,536 nc. (R439) -/
  | linkNarrow (row : Nat)
  /-- Event LINK_WIDEN: A link returns to full width when a flit waits too long. (R439) -/
  | linkWiden (row : Nat)
  /-- Event QUARTZ_SLEW: A pod member adds or withholds a quartz increment towards the master. (R446) -/
  | quartzSlew (up : Bool)
  /-- Event CHECKPOINT: Firmware writes all device memory sealed to host memory. (R452) -/
  | checkpoint
  /-- Event POWER_GOOD: Power-good begins the start sequence stages. (R453) -/
  | powerGood (env : BootEnv)
  /-- Event START_TIMER_EXPIRY: A start not at stage 7 within 2^35 cc fails with reason 8. (R453) -/
  | startTimerExpiry
  /-- Event DISCOVERY_FLIT: A router takes its coordinates from a discovery flit and forwards it. (R455) -/
  | discoveryFlit (die : Nat) (x : Nat) (y : Nat)
  /-- Event DISCOVERY_TIMEOUT: Missing discovery reports after 512 nc fail the start. (R455) -/
  | discoveryTimeout
  /-- Event BOOT_OK: A write of BOOT.OK confirms the start and clears FAILN. (R458) -/
  | bootOk
  /-- Event CFG_REQ: A write to CFG.REQn configures a partition and starts its control threads. (R459) -/
  | cfgReq (die : Nat) (part : Nat) (v : Word)
  /-- Event CORE_KILL: A write to CORE.KILL kills the named slots' threads with reason 8. (R457) -/
  | coreKill (core : Nat) (mask : BitVec 8)
  /-- Event CORE_SVC: A firmware write to CORE.SVC marks a core out of service. (R431) -/
  | coreSvc (core : Nat)
  /-- Event ROD_FAIL_SET: A firmware window write sets ROD.FAIL bits. (R348) -/
  | rodFailSet (core : Nat) (mask : BitVec 6)
  /-- Event PRINCIPAL_REGISTER: Setting a PRIN.MAP bit registers a principal. (R388) -/
  | principalRegister (prin : Nat)
  /-- Event PRINCIPAL_DEREGISTER: Clearing a PRIN.MAP bit deregisters a principal and clears its policy entries. (R388) -/
  | principalDeregister (prin : Nat)
  /-- Event SCOPE_SET: A write to SCOPE.SET copies CAP and DEM into SCOPE.CTL on every core. (R288) -/
  | scopeSet (part : Nat) (v : Word)
  /-- Event XLAT_INV_PAGE: XLAT.INV operation 0 drops stage-1 entries for a virtual page. (R270) -/
  | xlatInvPage (part : Nat) (page : Nat)
  /-- Event XLAT_INV_ALL: XLAT.INV operation 1 drops all translations, range entries and instruction-cache entries. (R270) -/
  | xlatInvAll (part : Nat)
  /-- Event XLAT_INV_STAGE2: XLAT.INV operation 2 drops stage-2 entries for an intermediate page. (R270) -/
  | xlatInvStage2 (part : Nat) (page : Nat)
  /-- Event DEP_VAL: A CRM access to DEP.VAL is performed at the dispatcher as one step. (R199) -/
  | depVal (die : Nat)
  /-- Event REGISTER_WRITE: A window write to a register that has no row of its own. (R456) -/
  | registerWrite (who : Writer) (die : Nat) (off : Nat) (v : Word)
  /-- Event SUPPLY_DROOP: A supply sag stretches both clocks for its duration plus 256 cc. (R460) -/
  | supplyDroop
  /-- Event POWER_THROTTLE: Package power above PWR.CAP turns whole rotations into bubbles. (R460) -/
  | powerThrottle
  /-- Event HBM_SCRUB: Every 2^24 cc each HBM controller adds its stack's error counts and poisons reported lines. (R461) -/
  | hbmScrub (stack : Nat) (ce : Nat) (ue : List Nat)
  /-- Event ILLEGAL_OP: A fetched word with an unassigned major, function or code, or a nonzero reserved bit, takes ILLEGAL.OP precisely. (R87) -/
  | illegalOp (w : InstrWord) (r : IllReason)
  /-- Event FETCH_FAULT: The fetch of the word at PC fails translation or checks and the fetch trap is taken with TEPC equal to that address. (R111) -/
  | fetchFault
  /-- Event POWER_LOSS: The package loses power, stopping all work while STARTED and GATE.BOOT persist in nonvolatile store. (R458) -/
  | powerLoss
  /-- Event SAG_END: The supply sag ends and, at least 256 cc later, clock stretching stops. (R460) -/
  | sagEnd
  /-- Event BACK_UNDER_CAP: Package power falls back under PWR.CAP and the throttle bubbles stop. (R460) -/
  | backUnderCap
  /-- Event CHECKPOINT_RESTORE: Firmware restores a sealed full-memory image, which succeeds only on the device that wrote it. (R452) -/
  | checkpointRestore
  deriving DecidableEq, Repr

end Sys2Proof
end

