-- ==== Sys2Proof/Machine/State.lean ====
section
/-! DEFINITION. The state of the machine: everything the spec gives it, as plain data, and the state right after
reset. INVENTORY.md lists each piece with the rule that names it. -/

namespace Sys2Proof.Machine

/-! ### Registers -/

/-- A scalar register: its value and its label (02 Table 2.1). -/
structure SVal where
  val : Word
  lab : Label
  deriving DecidableEq, Repr

/-- A predicate register (02 Table 2.1). -/
structure PVal where
  val : Bool
  lab : Label
  deriving DecidableEq, Repr

/-- A vector register: bits, format tag, label (02 Table 2.2). -/
structure VVal where
  bits : VBits
  tag : Tag
  lab : Label
  deriving DecidableEq, Repr

/-- A lane mask (02 Table 2.2). -/
structure KVal where
  val : BitVec 16
  lab : Label
  deriving DecidableEq, Repr

/-- A tile register; its tag is FMT of the matching TSn (02 R39). -/
structure TVal where
  bits : TileBits
  lab : Label
  deriving DecidableEq, Repr

/-- The three kinds of thread (08 R180). -/
inductive Kind where | control | compute | migrant
  deriving DecidableEq, Repr

/-- Trap causes (20 Table 20.1). -/
inductive Cause where
  | illegalOp | unitAbsent | stallShort | crValue | jumpTarget | privOp | migReg | swTrap | scopeCap
  | fmtTag | fmtShape | fmtAcc | fmtSparse | fpExc | accBank | accHeld
  | memCanon | pageMiss | pageFormat | pagePerm | memWorld | pageUncommit | memAlign | memPa | memPart
  | memResv | feSpace | memSumcell | memWidth | atomSpace | labelStore | memPoison | pstRefused | poolArg | partOut
  | thrCtx | barOrder | queueDesc | tgArg | waitExpired | timingLag
  | unitDown | rnsOvf | rodLocated | rodUnstable
  | engArg | engHandle | engBusy | schedTag | schedEmpty | schedMissed | schedPass | tourDrain | engOrphan
  | sigMismatch | preempt | resume | killNote | hang
  deriving DecidableEq, Repr

/-- An event delivered to a thread and not yet taken (20 R411): its cause code and class, its information, and the
label of the location the information names (18 R393). -/
structure PendEvent where
  code : BitVec 16
  cls : BitVec 8
  i0 : Word
  i1 : Word
  lab : Label
  deriving DecidableEq, Repr

/-- The register a pending result goes to. -/
inductive Dest where
  | none
  | s (r : SReg)
  | p (n : PReg)
  | v (r : VReg)
  | k (n : KReg)
  | t (n : TReg)
  /-- An accumulator bank, for the early-access check of a timed thread (14 R331). -/
  | bank (n : Bank)
  deriving DecidableEq, Repr

/-- A result on its way to a register. -/
inductive RegVal where
  | none
  | s (x : SVal)
  | v (x : VVal)
  | k (x : KVal)
  /-- A tile with its shape (14 R322, tmov). -/
  | t (x : TVal) (shape : BitVec 32)
  deriving DecidableEq, Repr

/-- A fixed-latency result not yet written (02 R46): readable from rotation `due`; the flags it posts and their label
(05 R139, 04 R118); its producer's PC and stall count (02 Table 2.9). `dest` is `none` when a later word's write
stands (02 R49). -/
structure PendWrite where
  dest : Dest
  val : RegVal
  due : Nat
  flags : BitVec 5
  flab : Label
  pc : Word
  stall : Stall
  deriving DecidableEq, Repr

/-- A prefix chain in progress (03 R81 to R86). -/
structure Chain where
  /-- PC of the first prefix. -/
  first : Word
  /-- The prefix words, in order. -/
  words : List InstrWord
  limm : Option (BitVec 20)
  rnd : Option RMode
  sround : Bool
  spar : Option (TReg × SpPat)
  itin : Option Bool
  deriving DecidableEq, Repr

/-! ### Accesses -/

/-- Integer atomics (13 Table 13.3). -/
inductive AtomOp where | add | and | or | xor | minI | maxI | minN | maxN | swap | cas
  deriving DecidableEq, Repr

/-- Full/empty operations (13 Table 13.2). -/
inductive FeOp where | take | peek | fill | force | clr | tst
  deriving DecidableEq, Repr

/-- What a CRM access to DEP.VAL does at the dispatcher (08 R199). -/
inductive DepOp where | read | write | set | clear
  deriving DecidableEq, Repr

/-- The operations of a pool unit (13 R316 to R318); a pfree past its first step holds the page it frees (R317). -/
inductive PoolOp where | commit | free (page : Nat) | alloc (reserve : Nat)
  deriving DecidableEq, Repr

/-- What a home does for one piece of an access. -/
inductive Req where
  | read (n : Nat)
  /-- A write; a `none` byte is left unchanged (13 R314). -/
  | write (bytes : List (Option Byte))
  | atomic (op : AtomOp) (w : AWid) (b : Word) (expect : Word)
  | fe (op : FeOp) (x : Word)
  /-- A sum-cell add, converted at the issuer (11 R260). -/
  | sumAdd (d : BitVec 248) (fl : BitVec 5)
  /-- A reduce-add of a 64-byte line (22 R441) with the format code of its window and the flags
  that combining on the way has raised. -/
  | redAdd (bytes : List Byte) (fmt : Nat) (fl : BitVec 5)
  | qput (x : Word) (vlab : Label)
  | qget
  /-- The location label of an 8-byte word (18 R399). -/
  | label
  /-- STATE of a completion object, waiting while it is 1 when `wait` (15 R379). -/
  | objState (wait : Bool)
  | bbset (target : BitVec 32)
  | bbwait
  | dep (op : DepOp) (ctr : Nat) (x : Word)
  /-- A pool operation on a leaf entry of the given size; `pa` is the entry's address. -/
  | pool (op : PoolOp) (va : Word) (big : Bool)
  /-- A multicast piece, and the byte barrier it counts in (15 R376). -/
  | mcast (bytes : List Byte) (bar : Option Nat) (recv : Nat)
  deriving DecidableEq, Repr

/-- Who waits for a response. -/
inductive Owner where
  /-- A thread: its place and its number among all threads started. -/
  | thread (tid : Nat) (gen : Nat)
  | sched (tid : Nat) (gen : Nat) (id : Nat)
  | journal (core : Nat) (entry : Nat)
  | engine (eid : Nat)
  /-- A dispatcher, for a status word of a partition (08 R191). -/
  | status (die : Nat) (part : Nat)
  /-- Nobody: the host, the fabric, a killed thread. -/
  | outside
  deriving DecidableEq, Repr

/-- A home's answer to one piece. -/
structure Resp where
  ok : Bool
  bytes : List Byte
  lab : Label
  flags : BitVec 5
  /-- For a refusal: its cause and TINFO1. -/
  cause : Cause
  i1 : Word
  /-- The waiter was withdrawn: nothing has been performed (09 R234, 13 R308). -/
  withdrawn : Bool
  deriving DecidableEq, Repr

/-- A message of the reference machine (12 R274), and what a write carries with it (18 R395). -/
structure Msg where
  src : Node
  dst : Node
  pl : Plane
  owner : Owner
  /-- Which piece of its access it is: the byte offset in the whole. -/
  idx : Nat
  pa : Nat
  va : Word
  part : Nat
  /-- The access comes from the partition's control thread, or an engine it forked (20 R428). -/
  ctrl : Bool
  world : Bool
  /-- LABEL and MX of the mapping used. -/
  mlab : Label
  mx : Bool
  /-- It enters through a host link or a fabric port (18 R397). -/
  inbound : Bool
  lv : Label
  req : Req
  /-- The other sources of a combined message, each with the flags of the roundings that its write has taken part in
  (12 Table 12.3, Combine; 22 R441, R443). -/
  others : List (Node × Owner × Nat × BitVec 5)
  deriving DecidableEq, Repr

/-- A collected piece. -/
structure Got where
  idx : Nat
  bytes : List Byte
  lab : Label
  flags : BitVec 5
  deriving DecidableEq, Repr

/-- What a completed access does to its thread. -/
inductive Cont where
  /-- LD, LDA: extend and write; the label besides the location's. -/
  | load (d : SReg) (t : LdTy) (lab : Label)
  /-- Stores, feclr, bbset, bbwait, queue puts: nothing but the flags of a reduce-add. -/
  | ack
  /-- A full/empty store, qput or bbwait: CTXL widens by the location's label (18 R392). -/
  | ackWait
  /-- VLD: the mask at issue, whether it keeps elements, and the label of the sources, k[KM] and CTXL at issue (13 R313). -/
  | vload (d : VReg) (tag : Tag) (km : BitVec 16) (keep : Bool) (lab : Label)
  | tload (d : TReg) (lab : Label)
  | atomic (d : SReg) (w : AWid) (signed : Bool) (lab : Label)
  /-- ldfe, qget, join: write the 64-bit value and widen CTXL by the location's label (18 R392). -/
  | waitRead (d : SReg) (lab : Label)
  /-- fetst, poll, lrdb, a device-register load: write the 64-bit value. -/
  | read (d : SReg) (lab : Label)
  /-- lrdb: write the location's label. -/
  | label (d : SReg) (lab : Label)
  | sumRead (d : SReg) (wide : Bool) (m : RMode) (lab : Label)
  /-- sadd: the flags of this add. -/
  | sumFlags (d : SReg) (fl : BitVec 5) (lab : Label)
  /-- mfcr DEP.VAL, with the label besides the counter's; a write of it has `d` = none. -/
  | dep (d : Option SReg) (lab : Label)
  | pool (d : Option SReg) (va : Word) (lab : Label)
  /-- rel: the status, written once every piece is acknowledged, whether a piece has been written, and the pieces still to
  send: each is sent when the one before it has been acknowledged (18 R404). -/
  | rel (d : SReg) (r : Word) (lab : Label) (wrote : Bool) (rest : List Msg)
  /-- The word goes on in a further phase with the bytes read. -/
  | resume (phase : Nat)
  deriving DecidableEq, Repr

/-- An access whose pieces are under way. -/
structure Access where
  outstanding : Nat
  got : List Got
  refused : Option (Cause × Word × Word × Label)
  homes : List Node
  /-- Host-window addresses that pieces write: the piece's offset and the address (12 R287). -/
  dirty : List (Nat × Nat)
  /-- Physical addresses of the pieces, for the covers of scopes (12 R296). -/
  pas : List (Node × Nat × Bool)
  cont : Cont
  deriving DecidableEq, Repr

/-- A scheduled access of a timed thread (08 R211). -/
structure Sched where
  id : Nat
  due : Nat
  acc : Access
  dests : List Dest
  /-- The word's address and, for the trap of a refusal, that of its prefix chain (03 R85, 20 R408). -/
  pc : Word
  tpc : Word
  stall : Stall
  deriving DecidableEq, Repr

/-- What a parked thread waits for on state of its own core or package. -/
inductive Cond where
  /-- Its access has completed: Complete wakes it. -/
  | access
  /-- A divide's or remainder's result is due at this cycle (04 R95). -/
  | divide (issued : Nat) (due : Nat) (d : SReg) (x : SVal)
  /-- vdiv's or vsqrt's result is due at this cycle (06 R156): the value or the FP.EXC information. -/
  | vdivide (issued : Nat) (due : Nat) (d : VReg) (x : VVal) (flags : BitVec 5) (exc : Option (Word × Word))
  /-- The barrier phase arrived at completes (09 R227). -/
  | barrier (key : BarKey)
  /-- A clock reaches a target; `vcc` for a timed thread (09 R235). -/
  | clock (vcc : Bool) (target : Nat)
  /-- The timed group starts (09 R238). -/
  | tgstart (gid : Nat)
  /-- A bead slot becomes HELD or LAPSED final (15 R371), or leaves LAPSED (15 R366, kind 10). -/
  | slot (n : Nat) (read : Bool) (addr : Word)
  /-- A journal entry of the pool is free (12 R282). -/
  | journalFree
  /-- No open entry of the thread has one of these homes (12 R283). -/
  | homesClosed (homes : List Node)
  /-- No scheduled access of the thread has one of these homes; the held access counts as issued in its own rotation
  (12 R296). -/
  | held (homes : List Node)
  /-- No open entry of the thread lies in the cover of the scope (12 R285). -/
  | scopeClosed (c : Scope)
  /-- Every fixed-latency operation (the last due in rotation `due`) and every matrix command of the thread numbered below
  `bound` has posted (04 R117). -/
  | posted (due : Nat) (bound : Nat)
  /-- No unfinished command of the thread touches these banks or tile registers (14 R327 to R331). -/
  | banks (mask : Word) (tiles : BitVec 8)
  /-- No command that the thread issued, or that runs, names these banks (14 R327). -/
  | issued (mask : Word)
  /-- The slot's matrix queue has a free entry (14 R330). -/
  | queueRoom
  /-- The slot has fewer than four engine commands (15 R356). -/
  | engineRoom
  /-- A time of the core clock is reached (gset verification, 18 R403). -/
  | time (due : Nat)
  /-- No command that started before this one is running on the matrix unit (14 R353). -/
  | unitIdle (serial : Nat)
  /-- The migrant's record leaves for another core once no posted store of it is open (12 R294): the address it ships for. -/
  | ship (core : Nat) (va : Word) (pa : Nat)
  /-- A trap whose entry waits for the thread's matrix queue (14 R332). -/
  | trapEntry (code : BitVec 16) (cls : BitVec 8) (i0 : Word) (i1 : Word) (lab : Label) (pc : Word)
  deriving DecidableEq, Repr

/-- A parked word (02 R45): the word itself, what it waits for, its limit from the first attempt (02 R51), whether it
holds a wait-table entry (08 R182), the pieces of its access, and whether a withdrawal of it has been sent and why. -/
structure Park where
  instr : Instr
  cond : Cond
  first : Nat
  lim : BitVec 6
  entry : Bool
  acc : Option Access
  /-- `some true`: withdrawn because its limit was reached; `some false`: because of an event. -/
  wd : Option Bool
  /-- Where a withdrawal goes: the home, the plane class of the request, the physical address. -/
  at_ : Option (Node × Plane × Nat)
  /-- WAIT.EXPIRED information of the word. -/
  i0 : Word
  i1 : Word
  lab : Label
  /-- Phase and bytes a further phase of the word starts from. -/
  phase : Nat
  data : List Byte
  deriving DecidableEq, Repr

/-- A word that goes on: its park has ended and its next phase issues at the thread's own turn. -/
structure Again where
  instr : Instr
  first : Nat
  phase : Nat
  data : List Byte
  lab : Label
  /-- The wait that has ended was the word's whole effect: no event is taken before it retires (09 R217, 20 R411). -/
  firm : Bool
  deriving DecidableEq, Repr

/-! ### Threads -/

/-- A live thread (02 R37, R38; 08 R180). -/
structure Thread where
  /-- Its number among all threads started (the model's own). -/
  gen : Nat
  kind : Kind
  part : Nat
  pc : Word
  s : Vector SVal 64
  p : Vector PVal 8
  v : Vector VVal 32
  k : Vector KVal 8
  t : Vector TVal 8
  ts : Vector (BitVec 32) 8
  ctxl : Label
  /-- TSTAT.WORLD, TE, SBC. -/
  world : Bool
  te : Bool
  sbc : Bool
  fpc : Word
  tepc : Word
  tcause : Word
  tinfo0 : Word
  tinfo1 : Word
  tsave : Word
  tsig : BitVec 16
  /-- The running flint state S (20 R424). -/
  flint : BitVec 16
  /-- PC of the previous failed signature check (20 R425). -/
  lastBad : Option Word
  /-- A transfer not yet checked: its PC and the re-evaluated address (20 R424). -/
  xfer : Option (Word × Word)
  abown : Word
  barPend : BitVec 5
  accWin : BitVec 5
  depSel : BitVec 8
  grpId : BitVec 32
  grpN : BitVec 32
  strId : BitVec 2
  strN : BitVec 3
  arg : Word
  /-- Slots per strand M (08 R193); 1 for a spawned thread. -/
  slotsM : Nat
  /-- The launch it belongs to. -/
  launch : Option Nat
  /-- Its timed group. -/
  timed : Option Nat
  pend : List PendWrite
  sched : List Sched
  nextRot : Nat
  park : Option Park
  again : Option Again
  /-- The park of a wait word that retries under a full wait table (08 R183). -/
  retry : Option Park
  chain : Option Chain
  pendSet : List PendEvent
  /-- PREEMPT has been delivered since the thread was started or restored (15 R367, 21 R436). -/
  preempt : Bool
  /-- A PREEMPT has been taken and its handling has not ended: how many traps have been entered in its handler and not been
  returned from (20 R420). -/
  handling : Option Nat
  /-- Host links written since the last .sys release, with the last address written (12 R287). -/
  hostDirty : List (Nat × Nat)
  deriving DecidableEq, Repr

/-- What stands in a channel. -/
inductive Item where
  | req (m : Msg)
  | resp (dst : Node) (o : Owner) (idx : Nat) (r : Resp)
  /-- A withdrawal of the waiter `o` at the address `pa` (09 R234, 13 R307). -/
  | withdraw (o : Owner) (pa : Nat)
  /-- The place of a request that was combined with the head of another channel (22 R443). -/
  | joined (src : Node)
  /-- A migrant's record (12 R294), the core it left and the address it ships for. -/
  | migrant (th : Thread) (back : Nat) (va : Word) (pa : Nat)
  /-- A bead on its way to its next stop, on the B plane (12 Table 12.2, 15 R365). -/
  | bead (eid : Nat)
  /-- An interrupt request of a partition: its vector and GEN stamp, on the K plane (22 R449). -/
  | int (part : Nat) (vec : BitVec 8) (gen : BitVec 12)
  /-- The arrival at a barrier or the completion of its phase, on the K plane (12 Table 12.2, 09 R224). -/
  | notice (key : BarKey)
  /-- The pause notice of a timed group, on the K plane (08 R212). -/
  | pause (gid : Nat)
  deriving DecidableEq, Repr

/-! ### Cores -/

/-- An accumulator bank (14 R324). -/
structure BankVal where
  bits : TileBits
  kind : BitVec 4
  lab : Label
  poisoned : Bool
  deriving DecidableEq, Repr

/-- A matrix command (14 R330): the word, the thread's slot, what was captured at issue, its time and its source. -/
structure MxCmd where
  serial : Nat
  slot : Nat
  instr : Instr
  pc : Word
  rm : RMode
  stoch : Bool
  srcnt : BitVec 22
  spar : Option (TReg × SpPat)
  ctxl : Label
  /-- The label and tag of a bead slot operand. -/
  blab : Label
  btag : Tag
  /-- The engine that placed it as a follow-on, and the index of the tour's stop, 0xFF without one. -/
  eng : Option Nat
  stop : BitVec 8
  /-- Rotation at which a timed thread's command is due (14 R331). -/
  due : Option Nat
  /-- Banks that a later word has written: the command's write of them is discarded (02 R49, 14 R331). -/
  lost : Word
  deriving DecidableEq, Repr

/-- What a matrix command has computed when it completes (14 R333): the banks to write, the flags and RNSF it posts and
their label, the events it raises, the rod it marks, and the counts it adds (transient, unstable, unlocated). -/
structure MxRes where
  banks : List (Nat × BankVal)
  flags : BitVec 5
  rnsf : Bool
  lab : Label
  events : List PendEvent
  mark : Option Nat
  trans : Nat
  unst : Nat
  unloc : Nat
  deriving DecidableEq, Repr

/-- A running command: the cycle it started, the cycle it completes, and its result. -/
structure MxRun where
  cmd : MxCmd
  start : Nat
  finish : Nat
  res : MxRes
  deriving DecidableEq, Repr

/-- An entry of the posted-store journal (12 R274). -/
structure JEntry where
  num : Nat
  serial : Nat
  tid : Nat
  gen : Nat
  home : Node
  pa : Nat
  va : Word
  op : Wid
  lab : Label
  /-- The store itself, with its bytes (12 Table 12.1). -/
  req : Req
  /-- Its mapping has RP = 1 (12 R284). -/
  rp : Bool
  /-- The store was dropped, or its thread killed: its refusal is only counted (20 R422). -/
  dead : Bool
  deriving DecidableEq, Repr

/-- A bead slot (15 R364): BSLOTn, CHK, and the tag, size and tour of the bead in it. -/
structure BSlot where
  lim : BitVec 6
  holder : BitVec 3
  bound : Bool
  dead : Bool
  /-- 0 EMPTY, 1 LANDING, 2 HELD, 3 LAPSED, 4 LAPSED final. -/
  state : BitVec 3
  tag : BitVec 16
  etag : BitVec 16
  chk : BitVec 8
  fmt : Tag
  lab : Label
  /-- The tour or copy whose bead is in the slot. -/
  eng : Option Nat
  /-- How the visit ended, once departure is under way: the slot's bytes are still read by queued commands. -/
  leaving : Bool
  deriving DecidableEq, Repr

/-- A leaf of the page tables as the walker found it (11 R264, R265). -/
structure Leaf where
  /-- Virtual page base and size covered. -/
  base : Nat
  size : Nat
  /-- Bytes that the stage-1 leaf maps; a stage-2 leaf may cover less of them. -/
  size1 : Nat
  pa : Nat
  w : Bool
  x : Bool
  world : Bool
  cm : Bool
  sc : Bool
  mx : Bool
  rp : Option Nat
  lab : Label
  /-- Stage-1 entry: address, level; 7 for a range entry. With stage 2 on, also the stage-2 leaf that maps its table: its
  address and its PA as it was walked. -/
  entry : Nat
  via : Option (Nat × Nat)
  level : Nat
  /-- Stage-2 entry, its level, and the intermediate page; none when stage 2 is off. -/
  entry2 : Option (Nat × Nat × Nat)
  /-- PA of the stage-1 entry and of the stage-2 leaf as they were walked (11 R266). -/
  pa1 : Nat
  pa2 : Nat
  /-- Permissions and world of each stage, for the trap information (11 R268). -/
  w1 : Bool
  x1 : Bool
  world1 : Bool
  d1 : Bool
  d2 : Bool
  deriving DecidableEq, Repr

/-- A range entry (11 R263). -/
structure RangeEnt where
  base : Nat
  limit : Nat
  offset : Nat
  attr : BitVec 32
  lab : Label
  rsv : Bool
  addr : Nat
  deriving DecidableEq, Repr

/-- What a partition has on one core. -/
structure PCore where
  waitRetry : BitVec 32
  rnsTrans : BitVec 32
  ambUnst : BitVec 16
  ambUnloc : BitVec 16
  killCount : BitVec 32
  killSlot : BitVec 3
  killReason : BitVec 8
  flintRep : BitVec 32
  flintMism : BitVec 32
  dmtd : Bool
  drain : BitVec 32
  phase : BitVec 2
  spillBase : Word
  spillOvf : Bool
  /-- Records of the spill buffer, oldest first, and the migrant records among them. -/
  spill : List Item
  /-- Cycle of the switch request and of PHASE 2. -/
  reqAt : Nat
  phase2At : Nat
  /-- Slots that csave vacated in the switch, with the threads as they left them (20 R429, 21 R436). -/
  vacated : List (Nat × Thread)
  bslots : Vector BSlot 16
  migQ : List Thread
  /-- A migrant in the spill buffer, in order, to join the queue at RES. -/
  spillMig : List Thread
  rcache : Option (List RangeEnt)
  tlb : List Leaf
  icache : NMap InstrWord
  /-- Rotation in which a freeze ends (08 R210). -/
  frozenTo : Nat
  deriving DecidableEq, Repr

/-- A core. -/
structure Core where
  rodFail : BitVec 6
  rodOff : Bool
  outOfSvc : Bool
  kills : BitVec 8
  banks : NMap BankVal
  /-- The running command (14 R330), and a timed thread's commands that have been computed and are not yet due (R331). -/
  mxRun : Option MxRun
  mxDone : List MxRun
  mxQueue : List MxCmd
  mxLast : Nat
  journal : List JEntry
  /-- Slots being scrubbed after a kill, and the cycle of the kill (20 R427). -/
  scrubs : List (Nat × Nat)
  /-- Slots whose thread has ended or whose scrub has ended, and the rotation it did so in: each is free from the next
  rotation on (08 R181, 20 R427). -/
  freed : List (Nat × Nat)
  /-- Upsets of the residue datapath still to strike: rod, element, delta, times (17 R385). -/
  rodFaults : List (Nat × Nat × Nat × Nat)
  parts : Vector PCore 4
  deriving DecidableEq, Repr

/-! ### Engines -/

/-- Kinds of engine command (15 R355). -/
inductive EngKind where | tour | copy | mcast
  deriving DecidableEq, Repr

/-- Where a bead is (15 R365). -/
inductive BeadPos where
  /-- Not read whole yet, or no bead. -/
  | none
  /-- On its way to the stop at the head of the itinerary. -/
  | flying
  /-- Delivered to the core of that stop. -/
  | come
  /-- At the stop's core, waiting for the slot; the hold clock runs. -/
  | waiting
  | landing
  | held
  deriving DecidableEq, Repr

/-- One stop of an itinerary (15 Table 15.4). -/
structure Stop where
  follow : InstrWord
  core : Nat
  slot : Nat
  hold : Nat
  deriving DecidableEq, Repr

/-- An engine thread (12 R274, R291; 15 R355 to R377). -/
structure Engine where
  kind : EngKind
  tid : Nat
  gen : Nat
  core : Nat
  /-- The barrel slot the command counts in (15 R356). -/
  slot : Nat
  part : Nat
  ctrl : Bool
  world : Bool
  launch : Option Nat
  /-- Union of the labels of s[x], s[y], s[z] and CTXL at issue; CTXL at issue is part of it. -/
  lab : Label
  /-- The completion object: physical and virtual address. -/
  obj : Nat
  objVa : Word
  /-- The predecessor set: serials of open journal entries, identifiers of scheduled accesses (12 R291). -/
  preds : List Nat
  predSched : List Nat
  /-- Timed group and start offset of a timed issuer, until the offset has passed (15 R358). -/
  offset : Option (Nat × Nat)
  /-- Source pieces still to read: byte offset in the bead or copy, address, length. -/
  todo : List (Nat × Word × Nat)
  outstanding : Nat
  /-- Bytes read and not yet written: offset and bytes with their label. -/
  ready : List (Nat × List Byte × Label)
  /-- The bead's bytes read so far and its label. -/
  bead : List Got
  blab : Label
  fmt : Tag
  tag : BitVec 16
  len : Nat
  src : Word
  dst : Word
  follow : InstrWord
  /-- A copy's destination: bead slot number when it fills one (15 R374). -/
  dslot : Option Nat
  slotReady : Bool
  /-- The offset below which every piece has been sent, in ascending order (15 R373). -/
  written : Nat
  stopped : Bool
  followDone : Bool
  /-- Multicast: receivers, destination offset, byte barrier. -/
  qmask : BitVec 4
  /-- Receivers that refused a piece. -/
  failed : BitVec 4
  doff : Nat
  boff : Option Nat
  /-- Tour: stops, the entries still to visit with their revisit mark, and where the bead is. -/
  stops : List Stop
  todoStops : List (Nat × Bool)
  norev : Bool
  pos : BeadPos
  /-- Hold clock of the visit, in the core's cycles. -/
  clock : Nat
  /-- The follow-on of this visit has been dealt with. -/
  offered : Bool
  /-- The visit has ended with this outcome (0 visited, 1 missed, 2 skipped); the bead departs under R338. -/
  ended : Option Nat
  /-- Completion object fields. -/
  cause : BitVec 16
  visited : BitVec 16
  missed : BitVec 16
  skipped : BitVec 16
  revisited : BitVec 16
  fstop : BitVec 8
  bytes : Nat
  faddr : Word
  resumeOff : Nat
  issueQ : Word
  cancelled : Bool
  deriving DecidableEq, Repr

/-! ### Launches, groups, barriers -/

/-- A launch descriptor (08 Table 8.6). -/
structure Desc where
  entry : Word
  arg : Word
  status : Word
  groups : Nat
  geom : BitVec 32
  region : BitVec 32
  tbudget : Nat
  rlat : Nat
  donedep : BitVec 16
  rsv2 : BitVec 16
  waits : List (BitVec 16)
  rsv : Word
  deriving DecidableEq, Repr

/-- A group that has started: its number, its threads still running, and whether all that ended did so by EXIT. -/
structure Group where
  num : Nat
  unit : Nat
  tids : List Nat
  /-- Cores whose strand has ended. -/
  ended : List Nat
  killed : Bool
  deriving DecidableEq, Repr

/-- A launch held by a dispatcher (08 R196). -/
structure Launch where
  die : Nat
  part : Nat
  ctxl : Label
  desc : Desc
  level : Nat
  /-- Cycle of entry in the level, and its order there. -/
  since : Nat
  order : Nat
  checked : Bool
  /-- Its units, formed when it was checked: the cores of each in order (08 R192). -/
  units : List (List Nat)
  /-- The groups dealt in all, and the number of them dealt to each unit (08 R194). -/
  dealt : Nat
  given : NMap Nat
  running : List Group
  okGroups : Nat
  killed : Bool
  /-- Its strands and migrants that were killed: place and number of each. Their writes under way come before its end (08 R200). -/
  gone : List (Nat × Nat)
  timing : Bool
  poisoned : Bool
  /-- A counter that it waits on was poisoned once its deal had begun, which ended the deal (08 R201). -/
  depPsn : Bool
  migrants : Nat
  /-- Cycle in which its last group was dealt (08 R197). -/
  placed : Nat
  deriving DecidableEq, Repr

/-- A barrier instance: its phase, and the places of the threads that have arrived at it (09 R223). -/
structure Barrier where
  phase : Nat
  arrived : List Nat
  deriving DecidableEq, Repr

/-- A timed group (08 R209 to R215, 09 R237 to R238). -/
structure TGroup where
  part : Nat
  tids : List Nat
  cores : List Nat
  /-- Quartz value of the start; none before it is fixed. -/
  t0 : Option Nat
  started : Bool
  /-- The quartz value at which a start that every strand has arrived at takes place (09 R238). -/
  nextT0 : Option Nat
  budget : Nat
  rlat : Nat
  /-- VCC of each core. -/
  vcc : NMap Nat
  /-- Strands arrived at tgstart with the s[y] of each, and the cycle of the first arrival. -/
  arrived : List (Nat × Word)
  firstAt : Nat
  size : Nat
  /-- A pause: the rotation it starts in, and the rotation named to resume in. -/
  pausedFrom : Option Nat
  resumeAt : Option Nat
  /-- The scheduled access that was late: thread and identifier. -/
  late : Option (Nat × Nat)
  launch : Option Nat
  deriving DecidableEq, Repr

/-! ### Dies and package -/

/-- A dependence counter (08 R199, 18 R391). -/
structure DepCtr where
  val : BitVec 32
  psn : Bool
  lab : Label
  deriving DecidableEq, Repr

/-- What a partition has on one die. -/
structure PDie where
  v : Bool
  smask : BitVec 8
  migh : Bool
  /-- PARTn.MEM: both dies hold the same, and every write updates both (11 R262). -/
  savea : Nat
  bslots : Nat
  nbank : Nat
  lbank : Nat
  ageLim : BitVec 32
  deps : NMap DepCtr
  poolRing : Word
  poolTail : BitVec 32
  poolHead : BitVec 32
  poolBad : BitVec 32
  /-- Places of the pool reserved by pfree words under way. -/
  poolRsv : Nat
  wdCnt : Word
  wdLim : Word
  hangSent : Bool
  lostRefuse : BitVec 32
  lostStatus : BitVec 32
  deriving DecidableEq, Repr

/-- A die. -/
structure Die where
  hmap : Vector (BitVec 32) 32
  parts : Vector PDie 4
  /-- Row-link widths: 0 full, 1 half, 2 quarter; changes counted. -/
  links : Vector (BitVec 2) 32
  narrow : BitVec 32
  droopStr : BitVec 32
  droopEvt : BitVec 32
  pwrRot : BitVec 32
  hbmUe : Vector (BitVec 16) 4
  hbmCe : Vector (BitVec 32) 4
  /-- Scrub periods that each stack has reported for (23 R461). -/
  scrubbed : Vector Nat 4
  cfgBusy : Bool
  /-- The request being applied. -/
  cfgWord : Word
  cfgPart : BitVec 4
  cfgRes : BitVec 4
  deriving DecidableEq, Repr

/-- An installed release policy (18 R402). -/
structure Policy where
  lset : Label
  dclass : Nat
  dport : BitVec 16
  dlo : Nat
  dhi : Nat
  cap : Nat
  count : Nat
  world : Bool
  deriving DecidableEq, Repr

/-- What a partition has in the package. -/
structure PPkg where
  s1 : Word
  s2 : Word
  rng : Word
  trapVec : Word
  tensTbl : Word
  ownV : Bool
  own : BitVec 4
  denied : BitVec 32
  released : BitVec 32
  policies : Vector (Option Policy) 16
  mark : Nat
  redWin : Vector Word 4
  podCfg : Word
  podToken : Option Nat
  vfGen : BitVec 12
  vfState : BitVec 2
  vfPir : Word
  mboxAddr : Word
  scopeDem : Bool
  scopeCap : BitVec 3
  /-- Host-link budgets (reads, writes, translations) and what the epoch has spent. -/
  budget : Vector Word 3
  spent : Vector Nat 3
  /-- Cycle in which its present budget epoch began (22 R450). -/
  epochAt : Nat
  /-- Interrupt requests on their way: vector and GEN stamp (22 R449). -/
  intReqs : List (BitVec 8 × BitVec 12)
  deriving DecidableEq, Repr

/-- The forms of the GW9 (00 R2). -/
inductive Form where | d | p | m
  deriving DecidableEq, Repr

/-- Fuses and straps, and what stands in nonvolatile store (23 R453, R458). -/
structure Fixed where
  form : Form
  serial : Word
  rootHash : BitVec 512
  svnMin : BitVec 32
  pkgId : BitVec 8
  gateBoot : Word
  /-- Reset values of the four TRAP.VEC registers (20 Table 20.3, 23 R456). -/
  trapVecs : Vector Word 4
  started : Bool
  failN : BitVec 8
  reason : BitVec 4
  /-- A failure recorded by the start in progress. -/
  recorded : Option (BitVec 4)
  deriving DecidableEq, Repr

/-- What a sealed checkpoint image holds (22 R452): memory and poison marks, and the device's serial; the sealed bytes
themselves stand in host memory. -/
structure Sealed where
  serial : Word
  mem : List Host.Cell
  poison : NMap Bool
  deriving DecidableEq, Repr

/-- A waiter of a home's wait lists (12 R289, 09 R233, 15 R378, R379), in order of arrival. -/
abbrev Waiter := Msg

/-- The state of the machine. -/
structure State where
  /-- Core cycles since reset (02 R44). -/
  cycle : Nat
  quartz : Word
  /-- QUARTZ at the first cycle of the present rotation (09 R235). -/
  rotQuartz : Word
  /-- Which thread the next word belongs to: die, core and slot in one number (the model's own). -/
  cur : Nat
  /-- Live threads, by die * 8192 + core * 8 + slot. -/
  threads : NMap Thread
  /-- Cores that differ from a core after reset, by die * 1024 + logical core. -/
  cores : NMap Core
  dies : Vector Die 2
  ppkg : Vector PPkg 4
  fixed : Fixed
  mem : List Host.Cell
  /-- Full words of the local stores, by physical address / 8. -/
  full : NMap Bool
  /-- Block labels that are not empty, by physical address / 256. -/
  blab : NMap Label
  /-- Poisoned local-store words by address / 8, and lines elsewhere by address / 64 * 8. -/
  poison : NMap Bool
  channels : KMap (Node × Node × Plane) (List Item)
  arrivals : KMap Node (List Item)
  inbox : KMap Node (List Item)
  waiters : List Waiter
  engines : NMap Engine
  launches : NMap Launch
  tgroups : NMap TGroup
  barriers : KMap BarKey Barrier
  prinMap : Label
  keys : Vector (BitVec 256) 16
  /-- The worlds that firmware has set: of cores by number, of the dispatcher of die d under 2,048 + d, of the functions of
  partition n under 4,096 + n (18 R398). -/
  worlds : NMap Bool
  /-- Messages sent to the host: function and vector (22 R449). -/
  msix : List (Nat × BitVec 8)
  /-- Answers to inbound reads and writes, newest first; none for Completer Abort or a refusal (18 R397). -/
  hostReads : List (Option (List Byte))
  bootMode : BitVec 3
  /-- Stage of the start in progress, and the cycle of power-good (23 R453). -/
  stage : Nat
  powerAt : Nat
  bootEnv : Option BootEnv
  /-- Coordinates discovered by the routers of a start (23 R455), by die * 1024 + y * 32 + x. -/
  found : NMap Bool
  store : List Host.Cell
  pwrCap : BitVec 16
  throttled : Bool
  sag : Bool
  /-- Cycle until which stretching lasts after a sag. -/
  sagEnd : Nat
  /-- When the quartz was last slewed towards the pod's master, and whether an increment is to be withheld (22 R446). -/
  slewAt : Option Nat
  slewHold : Bool
  sealedImage : Option Sealed
  /-- Serial numbers handed out: journal entries, commands, engines, launches, timed groups. -/
  serial : Nat
  /-- The counter that free values are drawn at (the model's own). -/
  freeCtr : Nat
  /-- Moves and outside events that step takes first (the model's own). -/
  inputs : List Instr
  deriving DecidableEq, Repr

/-- How the machine stops; every trap, kill and refusal of the spec is a next state instead. -/
inductive Fault where
  /-- A word was to run for a slot that holds no live thread. Raised by every word's meaning; step never asks for it.
  Safe: the spec gives such a slot no word at all (08 R176). -/
  | noThread
  deriving DecidableEq, Repr

/-- Why an instruction has no meaning. -/
inductive Refusal where
  /-- The instruction is not modelled. Raised by an arm of exec only. Safe. -/
  | notModelled (mnemonic : String)
  deriving DecidableEq, Repr

/-! ### Reset -/

/-- A bead slot after reset (15 Table 15.5). -/
def BSlot.reset : BSlot :=
  ⟨20, 0, false, false, 0, 0, 0, 0, 0, 0, none, false⟩

/-- A partition's part of a core after reset (08 R183, 12 Table 12.6, 14 Table 14.9, 20 Table 20.3). -/
def PCore.reset : PCore where
  waitRetry := 0
  rnsTrans := 0
  ambUnst := 0
  ambUnloc := 0
  killCount := 0
  killSlot := 0
  killReason := 0
  flintRep := 0
  flintMism := 0
  dmtd := false
  drain := 1024
  phase := 0
  spillBase := 0
  spillOvf := false
  spill := []
  reqAt := 0
  phase2At := 0
  vacated := []
  bslots := Vector.replicate 16 BSlot.reset
  migQ := []
  spillMig := []
  rcache := none
  tlb := []
  icache := []
  frozenTo := 0

/-- A core after reset. -/
def Core.reset : Core where
  rodFail := 0
  rodOff := false
  outOfSvc := false
  kills := 0
  banks := []
  mxRun := none
  mxDone := []
  mxQueue := []
  mxLast := 0
  journal := []
  scrubs := []
  freed := []
  rodFaults := []
  parts := Vector.replicate 4 PCore.reset

/-- A partition's part of a die after reset (08 Table 8.1, R198, R199; 11 Tables 11.4, 11.6; 20 Table 20.3). -/
def PDie.reset : PDie where
  v := false
  smask := 0
  migh := false
  savea := 0
  bslots := 0
  nbank := 0
  lbank := 0
  ageLim := 65536
  deps := []
  poolRing := 0
  poolTail := 0
  poolHead := 0
  poolBad := 0
  poolRsv := 0
  wdCnt := 0
  wdLim := 0
  hangSent := false
  lostRefuse := 0
  lostStatus := 0

/-- A die after reset; every core live (DESIGN CHOICE, log 2: the fuses are the part's own). -/
def Die.reset : Die where
  hmap := Vector.replicate 32 0xFFFFFFFF#32
  parts := Vector.replicate 4 PDie.reset
  links := Vector.replicate 32 0
  narrow := 0
  droopStr := 0
  droopEvt := 0
  pwrRot := 0
  hbmUe := Vector.replicate 4 0
  hbmCe := Vector.replicate 4 0
  scrubbed := Vector.replicate 4 0
  cfgBusy := false
  cfgWord := 0
  cfgPart := 0
  cfgRes := 0

/-- A partition's part of the package after reset (11 Table 11.6, 18 Table 18.1, 20 Table 20.3, 22 Tables 22.1 to
22.4). -/
def PPkg.reset : PPkg where
  s1 := 0
  s2 := 0
  rng := 0
  trapVec := 0
  tensTbl := 0
  ownV := false
  own := 0
  denied := 0
  released := 0
  policies := Vector.replicate 16 none
  mark := 0
  redWin := Vector.replicate 4 0
  podCfg := 0
  podToken := none
  vfGen := 0
  vfState := 0
  vfPir := 0
  mboxAddr := 0
  scopeDem := false
  scopeCap := 6
  budget := Vector.replicate 3 0
  spent := Vector.replicate 3 0
  epochAt := 0
  intReqs := []

/-- Fuses, straps and nonvolatile values (DESIGN CHOICE, log 2 and log 3). -/
def Fixed.reset : Fixed where
  form := .m
  serial := 0
  rootHash := 0
  svnMin := 0
  pkgId := 0
  gateBoot := 0
  trapVecs := Vector.replicate 4 0
  started := false
  failN := 0
  reason := 0
  recorded := none

/-- The machine right after reset: no thread, no partition, nothing in memory, nothing under way. -/
def State.reset : State where
  cycle := 0
  quartz := 0
  rotQuartz := 0
  cur := 0
  threads := []
  cores := []
  dies := Vector.replicate 2 Die.reset
  ppkg := Vector.replicate 4 PPkg.reset
  fixed := Fixed.reset
  mem := []
  full := []
  blab := []
  poison := []
  channels := []
  arrivals := []
  inbox := []
  waiters := []
  engines := []
  launches := []
  tgroups := []
  barriers := []
  prinMap := 0
  keys := Vector.replicate 16 0
  worlds := []
  msix := []
  hostReads := []
  bootMode := 0
  stage := 0
  powerAt := 0
  bootEnv := none
  found := []
  store := []
  pwrCap := 2800
  throttled := false
  sag := false
  sagEnd := 0
  slewAt := none
  slewHold := false
  sealedImage := none
  serial := 0
  freeCtr := 0
  inputs := []

end Sys2Proof.Machine
end

