-- ==== Sys2Proof/Machine/Maps.lean ====
section
/-! DEFINITION. Finite maps: reading, writing and removing an entry, and the accessors of State that go through them. -/

namespace Sys2Proof.Machine

/-- The entry of key `k`. -/
def nget {α : Type} : NMap α → Nat → Option α
  | [], _ => none
  | (j, x) :: m, k => if j = k then some x else nget m k

/-- The map with key `k` at `x`; the keys stay in rising order. -/
def nset {α : Type} : NMap α → Nat → α → NMap α
  | [], k, x => [(k, x)]
  | (j, y) :: m, k, x => if k < j then (k, x) :: (j, y) :: m else if j = k then (k, x) :: m else (j, y) :: nset m k x

/-- The map without key `k`. -/
def ndel {α : Type} : NMap α → Nat → NMap α
  | [], _ => []
  | (j, y) :: m, k => if j = k then ndel m k else (j, y) :: ndel m k

/-- The keys rise strictly. -/
def nwf {α : Type} : NMap α → Bool
  | [] => true
  | [_] => true
  | (j, _) :: (k, y) :: m => decide (j < k) && nwf ((k, y) :: m)

/-- The entry of key `k` in a map of any keys. -/
def kget {κ α : Type} [DecidableEq κ] : KMap κ α → κ → Option α
  | [], _ => none
  | (j, x) :: m, k => if j = k then some x else kget m k

/-- The map with key `k` at `x`. -/
def kset {κ α : Type} [DecidableEq κ] : KMap κ α → κ → α → KMap κ α
  | [], k, x => [(k, x)]
  | (j, y) :: m, k, x => if j = k then (k, x) :: m else (j, y) :: kset m k x

/-- The map without key `k`. -/
def kdel {κ α : Type} [DecidableEq κ] : KMap κ α → κ → KMap κ α
  | [], _ => []
  | (j, y) :: m, k => if j = k then kdel m k else (j, y) :: kdel m k

/-- The list under key `k`, empty when there is none. -/
def klist {κ α : Type} [DecidableEq κ] (m : KMap κ (List α)) (k : κ) : List α := (kget m k).getD []

/-- The map with list `l` under key `k`; an empty list is no entry. -/
def kputList {κ α : Type} [DecidableEq κ] (m : KMap κ (List α)) (k : κ) (l : List α) : KMap κ (List α) :=
  if l.isEmpty then kdel m k else kset m k l

/-- Element `i` of a vector, counted modulo its length. -/
def vget {α : Type} {n : Nat} [NeZero n] (v : Vector α n) (i : Nat) : α := v.get (Fin.ofNat n i)

/-- The vector with element `i`, counted modulo its length, at `x`. -/
def vset {α : Type} {n : Nat} [NeZero n] (v : Vector α n) (i : Nat) (x : α) : Vector α n :=
  v.set (Fin.ofNat n i).1 x (Fin.ofNat n i).2

/-! ### Places: tid = die * 8192 + core * 8 + slot; core number = die * 1024 + logical core -/

/-- The core number of a thread. -/
def coreOf (tid : Nat) : Nat := tid / 8
/-- The barrel slot of a thread. -/
def slotOf (tid : Nat) : Nat := tid % 8
/-- The die of a core number. -/
def dieOf (core : Nat) : Nat := core / 1024
/-- The thread of a core's slot. -/
def tidOf (core slot : Nat) : Nat := core * 8 + slot

/-! ### Accessors -/

/-- The live thread of a slot. -/
def State.thread? (s : State) (tid : Nat) : Option Thread := nget s.threads tid

/-- A thread written back. -/
def State.setThread (s : State) (tid : Nat) (th : Thread) : State := { s with threads := nset s.threads tid th }

/-- A slot that holds no thread any more. -/
def State.delThread (s : State) (tid : Nat) : State := { s with threads := ndel s.threads tid }

/-- A live thread changed in place. -/
def State.modThread (s : State) (tid : Nat) (f : Thread → Thread) : State :=
  match s.thread? tid with
  | some th => s.setThread tid (f th)
  | none => s

/-- A core. -/
def State.core (s : State) (c : Nat) : Core := (nget s.cores c).getD Core.reset

/-- A core written back. -/
def State.setCore (s : State) (c : Nat) (x : Core) : State := { s with cores := nset s.cores c x }

/-- A core changed in place. -/
def State.modCore (s : State) (c : Nat) (f : Core → Core) : State := s.setCore c (f (s.core c))

/-- A partition's part of a core. -/
def State.pcore (s : State) (c part : Nat) : PCore := vget (s.core c).parts part

/-- A partition's part of a core changed in place. -/
def State.modPCore (s : State) (c part : Nat) (f : PCore → PCore) : State :=
  s.modCore c fun x => { x with parts := vset x.parts part (f (vget x.parts part)) }

/-- A die. -/
def State.die (s : State) (d : Nat) : Die := vget s.dies d

/-- A die changed in place. -/
def State.modDie (s : State) (d : Nat) (f : Die → Die) : State := { s with dies := vset s.dies d (f (s.die d)) }

/-- A partition's part of a die. -/
def State.pdie (s : State) (d part : Nat) : PDie := vget (s.die d).parts part

/-- A partition's part of a die changed in place. -/
def State.modPDie (s : State) (d part : Nat) (f : PDie → PDie) : State :=
  s.modDie d fun x => { x with parts := vset x.parts part (f (vget x.parts part)) }

/-- A partition's part of the package. -/
def State.pp (s : State) (part : Nat) : PPkg := vget s.ppkg part

/-- A partition's part of the package changed in place. -/
def State.modPP (s : State) (part : Nat) (f : PPkg → PPkg) : State :=
  { s with ppkg := vset s.ppkg part (f (s.pp part)) }

/-- A fresh serial number. -/
def State.tick1 (s : State) : State := { s with serial := s.serial + 1 }

/-- The current rotation (02 R44). -/
def State.rot (s : State) : Nat := s.cycle / 8

/-! ### Lists -/

/-- The numbers from `lo`, `n` of them. -/
def numsFrom : Nat → Nat → List Nat
  | _, 0 => []
  | lo, n + 1 => lo :: numsFrom (lo + 1) n

/-- The numbers 0 to n - 1. -/
def nums (n : Nat) : List Nat := numsFrom 0 n

/-- The sum over a list. -/
def sumOver {α : Type} (l : List α) (f : α → Nat) : Nat := l.foldl (fun a x => a + f x) 0

/-- The union of labels. -/
def labels (l : List Label) : Label := l.foldl (· ||| ·) 0

/-- The bit `i` of a number. -/
def bitAt (x i : Nat) : Bool := x / 2 ^ i % 2 = 1

/-- A Bool as a one-bit number. -/
def b2n (b : Bool) : Nat := if b then 1 else 0

/-- The bits [lo + w - 1 : lo] of a number. -/
def fieldAt (x lo w : Nat) : Nat := x / 2 ^ lo % 2 ^ w

/-- Replaces element `i` of a list. -/
def lset {α : Type} : List α → Nat → α → List α
  | [], _, _ => []
  | _ :: l, 0, x => x :: l
  | y :: l, i + 1, x => y :: lset l i x

/-- An element put in its place in a sorted list, behind those it equals. -/
def insertBy {α : Type} (le : α → α → Bool) (x : α) : List α → List α
  | [] => [x]
  | y :: l => if le y x then y :: insertBy le x l else x :: y :: l

/-- A list sorted; equal elements keep their order. -/
def sortBy {α : Type} (le : α → α → Bool) (l : List α) : List α := l.foldl (fun a x => insertBy le x a) []

/-- Little-endian bytes of a number. -/
def toBytes : Nat → Nat → List Byte
  | 0, _ => []
  | n + 1, x => BitVec.ofNat 8 x :: toBytes n (x / 256)

/-- The number that little-endian bytes spell. -/
def fromBytes : List Byte → Nat
  | [] => 0
  | b :: l => b.toNat + 256 * fromBytes l

end Sys2Proof.Machine
end

