-- ==== Sys2Proof/Machine/Gate.lean ====
section
/-! DEFINITION. The signature check of the release gate: pure Ed25519 with SHA-512, no prehash, no context, under the
cofactored equation (18 R401). -/

namespace Sys2Proof.Machine

/-! ### SHA-512 -/

/-- The round constants, first half. -/
def shaK1 : List (BitVec 64) := [
  0x428A2F98D728AE22, 0x7137449123EF65CD, 0xB5C0FBCFEC4D3B2F, 0xE9B5DBA58189DBBC,
  0x3956C25BF348B538, 0x59F111F1B605D019, 0x923F82A4AF194F9B, 0xAB1C5ED5DA6D8118,
  0xD807AA98A3030242, 0x12835B0145706FBE, 0x243185BE4EE4B28C, 0x550C7DC3D5FFB4E2,
  0x72BE5D74F27B896F, 0x80DEB1FE3B1696B1, 0x9BDC06A725C71235, 0xC19BF174CF692694,
  0xE49B69C19EF14AD2, 0xEFBE4786384F25E3, 0x0FC19DC68B8CD5B5, 0x240CA1CC77AC9C65,
  0x2DE92C6F592B0275, 0x4A7484AA6EA6E483, 0x5CB0A9DCBD41FBD4, 0x76F988DA831153B5,
  0x983E5152EE66DFAB, 0xA831C66D2DB43210, 0xB00327C898FB213F, 0xBF597FC7BEEF0EE4,
  0xC6E00BF33DA88FC2, 0xD5A79147930AA725, 0x06CA6351E003826F, 0x142929670A0E6E70,
  0x27B70A8546D22FFC, 0x2E1B21385C26C926, 0x4D2C6DFC5AC42AED, 0x53380D139D95B3DF,
  0x650A73548BAF63DE, 0x766A0ABB3C77B2A8, 0x81C2C92E47EDAEE6, 0x92722C851482353B]
/-- The round constants, second half. -/
def shaK2 : List (BitVec 64) := [
  0xA2BFE8A14CF10364, 0xA81A664BBC423001, 0xC24B8B70D0F89791, 0xC76C51A30654BE30,
  0xD192E819D6EF5218, 0xD69906245565A910, 0xF40E35855771202A, 0x106AA07032BBD1B8,
  0x19A4C116B8D2D0C8, 0x1E376C085141AB53, 0x2748774CDF8EEB99, 0x34B0BCB5E19B48A8,
  0x391C0CB3C5C95A63, 0x4ED8AA4AE3418ACB, 0x5B9CCA4F7763E373, 0x682E6FF3D6B2B8A3,
  0x748F82EE5DEFB2FC, 0x78A5636F43172F60, 0x84C87814A1F0AB72, 0x8CC702081A6439EC,
  0x90BEFFFA23631E28, 0xA4506CEBDE82BDE9, 0xBEF9A3F7B2C67915, 0xC67178F2E372532B,
  0xCA273ECEEA26619C, 0xD186B8C721C0C207, 0xEADA7DD6CDE0EB1E, 0xF57D4F7FEE6ED178,
  0x06F067AA72176FBA, 0x0A637DC5A2C898A6, 0x113F9804BEF90DAE, 0x1B710B35131C471B,
  0x28DB77F523047D84, 0x32CAAB7B40C72493, 0x3C9EBE0A15C9BEBC, 0x431D67C49C100D4C,
  0x4CC5D4BECB3E42B6, 0x597F299CFC657E2A, 0x5FCB6FAB3AD6FAEC, 0x6C44198C4A475817]
/-- The first hash value. -/
def shaH : List (BitVec 64) := [
  0x6A09E667F3BCC908, 0xBB67AE8584CAA73B, 0x3C6EF372FE94F82B, 0xA54FF53A5F1D36F1,
  0x510E527FADE682D1, 0x9B05688C2B3E6C1F, 0x1F83D9ABFB41BD6B, 0x5BE0CD19137E2179]

/-- Big-endian words of bytes. -/
def shaWords : Nat → List Byte → List (BitVec 64)
  | 0, _ => []
  | n + 1, l => BitVec.ofNat 64 (fromBytes (l.take 8).reverse) :: shaWords n (l.drop 8)

/-- The next word of the schedule, of the last sixteen words, newest first. -/
def shaNext (w : List (BitVec 64)) : BitVec 64 :=
  let a := w.getD 1 0
  let b := w.getD 14 0
  let s0 := b.rotateRight 1 ^^^ b.rotateRight 8 ^^^ (b >>> 7)
  let s1 := a.rotateRight 19 ^^^ a.rotateRight 61 ^^^ (a >>> 6)
  w.getD 15 0 + s0 + w.getD 6 0 + s1

/-- The schedule: `n` more words, newest first. -/
def shaSchedule : Nat → List (BitVec 64) → List (BitVec 64)
  | 0, w => w
  | n + 1, w => shaSchedule n (shaNext w :: w)

/-- One round. -/
def shaRound (v : List (BitVec 64)) (kw : BitVec 64 × BitVec 64) : List (BitVec 64) :=
  match v with
  | [a, b, c, d, e, f, g, h] =>
    let s1 := e.rotateRight 14 ^^^ e.rotateRight 18 ^^^ e.rotateRight 41
    let ch := (e &&& f) ^^^ (~~~e &&& g)
    let t1 := h + s1 + ch + kw.1 + kw.2
    let s0 := a.rotateRight 28 ^^^ a.rotateRight 34 ^^^ a.rotateRight 39
    let mj := (a &&& b) ^^^ (a &&& c) ^^^ (b &&& c)
    [t1 + s0 + mj, a, b, c, d + t1, e, f, g]
  | l => l

/-- One block of 128 bytes. -/
def shaBlock (h : List (BitVec 64)) (l : List Byte) : List (BitVec 64) :=
  let w := (shaSchedule 64 (shaWords 16 l).reverse).reverse
  let v := ((shaK1 ++ shaK2).zip w).foldl shaRound h
  (h.zip v).map fun x => x.1 + x.2

/-- Blocks in order. -/
def shaBlocks : Nat → List (BitVec 64) → List Byte → List (BitVec 64)
  | 0, h, _ => h
  | n + 1, h, l => shaBlocks n (shaBlock h (l.take 128)) (l.drop 128)

/-- The padding of a message of `n` bytes. -/
def shaPad (n : Nat) : List Byte :=
  0x80 :: List.replicate ((239 - n % 128) % 128) 0 ++ (toBytes 16 (8 * n)).reverse

/-- SHA-512. -/
def sha512 (l : List Byte) : List Byte :=
  let m := l ++ shaPad l.length
  (shaBlocks (m.length / 128) shaH m).flatMap fun x => (toBytes 8 x.toNat).reverse

/-! ### The curve -/

/-- The field's prime. -/
def edP : Nat := 2 ^ 255 - 19
/-- The group order. -/
def edL : Nat := 2 ^ 252 + 27742317777372353535851937790883648493

/-- b to the power of the low `n` bits of e, modulo the prime. -/
def edPow (b e : Nat) : Nat → Nat
  | 0 => 1
  | n + 1 =>
    let h := edPow (b * b % edP) (e / 2) n
    if e % 2 = 1 then b * h % edP else h

/-- The inverse. -/
def edInv (x : Nat) : Nat := edPow x (edP - 2) 255
/-- The curve's constant. -/
def edD : Nat := (edP - 121665) * edInv 121666 % edP

/-- A point in extended coordinates. -/
structure EdPoint where
  x : Nat
  y : Nat
  z : Nat
  t : Nat
  deriving DecidableEq, Repr

/-- The neutral point. -/
def edZero : EdPoint := ⟨0, 1, 1, 0⟩

/-- The difference modulo the prime. -/
def edSub (a b : Nat) : Nat := (a + edP - b % edP) % edP

/-- The sum of two points. -/
def edAdd (p q : EdPoint) : EdPoint :=
  let a := edSub p.y p.x * edSub q.y q.x % edP
  let b := (p.y + p.x) * (q.y + q.x) % edP
  let c := 2 * edD * p.t * q.t % edP
  let d := 2 * p.z * q.z % edP
  let e := edSub b a
  let f := edSub d c
  let g := (d + c) % edP
  let h := (b + a) % edP
  ⟨e * f % edP, g * h % edP, f * g % edP, e * h % edP⟩

/-- A multiple of a point, of the low `n` bits of the scalar. -/
def edMul (k : Nat) (p : EdPoint) : Nat → EdPoint
  | 0 => edZero
  | n + 1 =>
    let h := edMul (k / 2) (edAdd p p) n
    if k % 2 = 1 then edAdd p h else h

/-- Whether two points are the same. -/
def edSame (p q : EdPoint) : Bool :=
  decide (p.x * q.z % edP = q.x * p.z % edP) && decide (p.y * q.z % edP = q.y * p.z % edP)

/-- A root of u / v, when there is one. -/
def edRoot (u v : Nat) : Option Nat :=
  let v3 := v * v % edP * v % edP
  let x := u * v3 % edP * edPow (u * v3 % edP * v3 % edP * v % edP) ((edP - 5) / 8) 255 % edP
  let w := v * x % edP * x % edP
  if w = u then some x
  else if w = edSub 0 u then some (x * edPow 2 ((edP - 1) / 4) 255 % edP)
  else none

/-- A point decoded; none for an encoding that is not canonical. -/
def edDecode (l : List Byte) : Option EdPoint :=
  let n := fromBytes l
  let y := n % 2 ^ 255
  let odd := n / 2 ^ 255 % 2
  if edP ≤ y then none
  else match edRoot (edSub (y * y) 1) ((edD * (y * y % edP) + 1) % edP) with
  | none => none
  | some x =>
    if x = 0 ∧ odd = 1 then none
    else
      let x := if x % 2 = odd then x else edP - x
      some ⟨x, y, 1, x * y % edP⟩

/-- The base point's encoding: y = 4/5, x even. -/
def edBase : Option EdPoint := edDecode (toBytes 32 (4 * edInv 5 % edP))

/-- Whether a signature of a message holds under a key: S is checked first, then [8][S]B = [8]R + [8][k]A. -/
def edVerify (key : List Byte) (msg sig : List Byte) : Bool :=
  let s := fromBytes (sig.drop 32)
  if edL ≤ s then false
  else match edDecode (sig.take 32), edDecode key, edBase with
  | some r, some a, some b =>
    let k := fromBytes (sha512 (sig.take 32 ++ key ++ msg)) % edL
    edSame (edMul 8 (edMul s b 253) 4) (edAdd (edMul 8 r 4) (edMul 8 (edMul k a 253) 4))
  | _, _, _ => false

end Sys2Proof.Machine
end

