-- ==== Sys2Proof/Config.lean ====
section
/-! DEFINITION. What an implementation fixes, and the free values: choices the spec leaves open. A free value has no
body, so no proof sees what it is (log 6). -/

namespace Sys2Proof.Config

/-- Which of an old cached translation or instruction word and the one now in memory an access uses, before software
invalidates the old one (11 R258, R270). Applied to the counter `freeCtr` of the state: nothing constrains it. -/
opaque useCached : Nat → Bool

/-- The world of an agent that firmware has not set through a start that the model shows (18 R398), by the agent's key.
Nothing constrains it. -/
opaque secureWorld : Nat → Bool

/-- What WAIT.EXPIRED reports of a home that has reported nothing yet: the full/empty bit, TAIL and HEAD, COUNT and TARGET
of a word that expires while it retries under a full wait table (08 R183). Applied to the counter `freeCtr` of the state:
nothing constrains it. -/
opaque freeWord : Nat → BitVec 64

/-- The label of a location outside the local stores that an inbound access reaches: no mapping leads there, and the spec
gives such a location no label of its own (11 R252, 18 R397). Applied to the counter `freeCtr` of the state: nothing
constrains it. -/
opaque freeLabel : Nat → BitVec 16

/-- Whether a saturating conversion of an infinity into its own format copies it (06 R166) or gives the largest finite value
(05 R136, R138): the two rules differ, and nothing constrains it. -/
opaque copiesInf : Bool

/-- Whether the host's completer rejects an AtomicOp (13 R311). Applied to the counter `freeCtr` of the state: nothing
constrains it. -/
opaque hostRejects : Nat → Bool

/-- Whether the location that an inbound access reaches is secure: no mapping leads there (18 R398). Applied to the counter
`freeCtr` of the state: nothing constrains it. -/
opaque freeSecure : Nat → Bool

/-- Whether the mapping through which a remote package reaches a location has MX = 1 (18 R395, 22 R444): the message does not
carry it. Applied to the counter `freeCtr` of the state: nothing constrains it. -/
opaque freeMx : Nat → Bool

/-- The host-memory addresses and bytes of a sealed checkpoint image (22 R452). Applied to the counter `freeCtr` of the state:
nothing constrains it. -/
opaque sealedCells : Nat → List (Nat × BitVec 8)

/-- Whether firmware raises SVN.MIN once a start is confirmed, as it may (23 R454). Applied to the counter `freeCtr` of the
state: nothing constrains it. -/
opaque raisesSvn : Nat → Bool

/-- Whether CXL memory expanders back the second tier (11 R243); a GW9-M carries LPDDR6 instead (00 R2). -/
def cxlBacked : Bool := false
/-- Frequency figures of 00 R3 and R4: network cycles in one core cycle. -/
def ncPerCc : Nat := 3
/-- Wait limit within which a PREEMPT must be honoured, in cc (20 R428). -/
def preemptLimit : Nat := 2 ^ 20
/-- Bound of a timed group's start, in cc (09 R238). -/
def tgBound : Nat := 2 ^ 20
/-- Longest scrub of a killed slot, in cc (20 R427). -/
def scrubMax : Nat := 64
/-- Shortest and longest time of a scalar divide, in cc (04 R95). -/
def divMin : Nat := 16
/-- Longest time of a scalar divide, in cc, and its time in a timed launch (04 R95). -/
def divMax : Nat := 72
/-- Shortest time of vdiv and vsqrt, in cc (06 R156). -/
def vdivMin : Nat := 12
/-- Longest time of vdiv and vsqrt, in cc, and their time in a timed launch (06 R156). -/
def vdivMax : Nat := 48
/-- Journal entries of one slot (12 R275). -/
def journalPerSlot : Nat := 4
/-- Dispatcher queue entries of one partition on one die (08 R196). -/
def queueEntries : Nat := 128
/-- Migrants of one partition in a package (08 R207). -/
def maxMigrants : Nat := 64
/-- Entries of a pending set (20 R411). -/
def pendingMax : Nat := 64
/-- Length of a host-link budget epoch, in cc (22 R450). -/
def epochLen : Nat := 65536
/-- Time within which a start reaches stage 7, in cc (23 R453). -/
def startLimit : Nat := 2 ^ 35
/-- Time within which discovery completes, in nc (23 R455). -/
def discoveryNc : Nat := 512
/-- Period of an HBM scrub report, in cc (23 R461). -/
def scrubPeriod : Nat := 2 ^ 24

end Sys2Proof.Config
end

