-- ==== Sys2Proof/Machine/Memory.lean ====
section
/-! DEFINITION. Memory: its bytes in canonical form, full/empty bits, block labels and poison, the homes of physical
addresses (11 R241 to R252), and where cores stand (08 R185 to R187). -/

namespace Sys2Proof.Machine

/-! ### Bytes -/

/-- What an unlisted byte reads as (11 R247 for local stores; DESIGN CHOICE elsewhere, log 1). -/
def Memory.blank : Byte := 0

/-- One byte of memory. -/
def Memory.get (m : List Host.Cell) (a : Nat) : Byte := (nget m a).getD Memory.blank

/-- One byte written; the blank byte is not listed. -/
def Memory.set (m : List Host.Cell) (a : Nat) (b : Byte) : List Host.Cell :=
  if b = Memory.blank then ndel m a else nset m a b

/-- The canonical form: addresses rise strictly, and no entry holds the blank byte. -/
def Memory.wf (m : List Host.Cell) : Bool := nwf m && m.all fun c => decide (c.2 ≠ Memory.blank)

/-- `n` bytes from address `a`. -/
def Memory.read (m : List Host.Cell) : Nat → Nat → List Byte
  | _, 0 => []
  | a, n + 1 => Memory.get m a :: Memory.read m (a + 1) n

/-- Bytes written from address `a`; `none` leaves a byte as it is. -/
def Memory.write : List Host.Cell → Nat → List (Option Byte) → List Host.Cell
  | m, _, [] => m
  | m, a, none :: l => Memory.write m (a + 1) l
  | m, a, some b :: l => Memory.write (Memory.set m a b) (a + 1) l

/-- The bytes at a physical address. -/
def State.bytes (s : State) (pa n : Nat) : List Byte := Memory.read s.mem pa n

/-- The little-endian number at a physical address. -/
def State.num (s : State) (pa n : Nat) : Nat := fromBytes (s.bytes pa n)

/-- Bytes written at a physical address. -/
def State.putBytes (s : State) (pa : Nat) (l : List (Option Byte)) : State := { s with mem := Memory.write s.mem pa l }

/-- A little-endian number written at a physical address. -/
def State.putNum (s : State) (pa n x : Nat) : State := s.putBytes pa ((toBytes n x).map some)

/-! ### Full/empty bits, block labels, poison -/

/-- The full/empty bit of the 8-byte word at a physical address (11 R251). -/
def State.isFull (s : State) (pa : Nat) : Bool := (nget s.full (pa / 8)).getD false

/-- The full/empty bit set or cleared. -/
def State.setFull (s : State) (pa : Nat) (b : Bool) : State :=
  { s with full := if b then nset s.full (pa / 8) true else ndel s.full (pa / 8) }

/-- The label of a 256-byte block (11 R252). -/
def State.blockLabel (s : State) (pa : Nat) : Label := (nget s.blab (pa / 256)).getD 0

/-- The label of a block set. -/
def State.setBlockLabel (s : State) (pa : Nat) (l : Label) : State :=
  { s with blab := if l = 0 then ndel s.blab (pa / 256) else nset s.blab (pa / 256) l }

/-- The label of every block of a range widened. -/
def State.widenBlocks (s : State) (pa n : Nat) (l : Label) : State :=
  (numsFrom (pa / 256) ((pa % 256 + n + 255) / 256)).foldl
    (fun s b => s.setBlockLabel (b * 256) (s.blockLabel (b * 256) ||| l)) s

/-- The space of a physical address (11 R242). -/
def spaceOf (pa : Nat) : Nat := pa / 2 ^ 50 % 4

/-- The unit of poison that holds an address: a word of a local store, a line elsewhere (20 Table 20.5). -/
def poisonKey (pa : Nat) : Nat := if spaceOf pa = 1 then pa / 8 else pa / 64 * 8

/-- A poisoned unit among `n` bytes (20 R426). -/
def State.isPoisoned (s : State) (pa n : Nat) : Bool :=
  (numsFrom (pa / 8) ((pa % 8 + n + 7) / 8)).any fun w => (nget s.poison (poisonKey (w * 8))).getD false

/-- A unit poisoned. -/
def State.poisonAt (s : State) (pa : Nat) : State := { s with poison := nset s.poison (poisonKey pa) true }

/-- A unit's poison cleared. -/
def State.unpoison (s : State) (pa : Nat) : State := { s with poison := ndel s.poison (poisonKey pa) }

/-! ### Where cores stand -/

/-- Live cores of a row. -/
def rowCount (r : BitVec 32) : Nat := (nums 32).foldl (fun a i => a + b2n (r.getLsbD i)) 0

/-- Live cores of a die (08 R187). -/
def liveN (d : Die) : Nat := d.hmap.toList.foldl (fun a r => a + rowCount r) 0

/-- The column of the `n`th live core of a row. -/
def nthLive (r : BitVec 32) : Nat → Nat → Nat → Nat
  | _, x, 0 => x
  | n, x, k + 1 => if r.getLsbD x then (if n = 0 then x else nthLive r (n - 1) (x + 1) k) else nthLive r n (x + 1) k

/-- Physical coordinates of the `n`th live core, from row `y` on. -/
def xyOfRows : List (BitVec 32) → Nat → Nat → Nat × Nat
  | [], _, y => (0, y)
  | r :: l, n, y => if n < rowCount r then (nthLive r n 0 32, y) else xyOfRows l (n - rowCount r) (y + 1)

/-- Physical coordinates (x, y) of a core (08 R186). -/
def State.xy (s : State) (core : Nat) : Nat × Nat := xyOfRows (s.die (dieOf core)).hmap.toList (core % 1024) 0

/-- The live cores of rows below a place. -/
def logicalOf (hmap : List (BitVec 32)) (x y : Nat) : Option Nat :=
  match hmap.drop y with
  | [] => none
  | r :: _ =>
    if x < 32 && r.getLsbD x then
      some ((hmap.take y).foldl (fun a q => a + rowCount q) 0 + (nums x).foldl (fun a i => a + b2n (r.getLsbD i)) 0)
    else none

/-- The quad of a core (08 R185). -/
def State.quadOf (s : State) (core : Nat) : Nat := let (x, y) := s.xy core; y / 2 * 16 + x / 2

/-- Whether a core is in service (20 R431). -/
def State.inService (s : State) (core : Nat) : Bool := !(s.core core).outOfSvc

/-! ### Homes (11 R243, R244) -/

/-- Dies of the part (00 R2). -/
def State.diesOf (s : State) : Nat := match s.fixed.form with | .d => 1 | .p => 2 | .m => 2

/-- Whether the part has host links and Delfort ports: a GW9-M alone (00 R2). -/
def State.isModule (s : State) : Bool := decide (s.fixed.form = .m)

/-- HBM fitted, in bytes (00 R2, 11 R242). -/
def State.hbmSize (s : State) : Nat := match s.fixed.form with | .d => 0 | .p => 384 * 10 ^ 9 | .m => 384 * 10 ^ 9

/-- Second tier fitted, in bytes (00 R2, 11 R244). -/
def State.tierSize (s : State) : Nat := match s.fixed.form with | .m => 6144 * 10 ^ 9 | .d => 0 | .p => 0

/-- The home of a physical address; none when it has none (11 R243, R244). -/
def State.home (s : State) (pa : Nat) : Option Node :=
  if 2 ^ 52 ≤ pa then none
  else if spaceOf pa = 0 then
    if pa < s.hbmSize then
      let b (i : Nat) := pa / 2 ^ i % 256
      some (.hbm (b 8 ^^^ b 16 ^^^ b 24 ^^^ (pa / 2 ^ 32 % 128)))
    else none
  else if spaceOf pa = 1 then
    let d := pa / 2 ^ 44 % 4
    let l := pa / 2 ^ 34 % 1024
    if pa / 2 ^ 46 % 16 ≠ 0 ∨ pa / 2 ^ 19 % 2 ^ 15 ≠ 0 ∨ s.diesOf ≤ d ∨ liveN (s.die d) ≤ l then none
    else some (.core (d * 1024 + l))
  else if spaceOf pa = 2 then
    if pa % 2 ^ 50 < s.tierSize then
      if Config.cxlBacked then some (.host (pa / 2 ^ 12 % 2))
      else some (.tier (pa / 2 ^ 12 % 32 ^^^ pa / 2 ^ 17 % 32))
    else none
  else if bitAt pa 49 then (if s.isModule then some (.host (pa / 2 ^ 48 % 2)) else none)
  else
    let d := pa / 2 ^ 44 % 4
    if pa / 2 ^ 46 % 8 ≠ 0 ∨ s.diesOf ≤ d then none else some (.host d)

/-- The physical address of a local-store offset (11 R242). -/
def localPa (core off : Nat) : Nat := 2 ^ 50 + core / 1024 * 2 ^ 44 + core % 1024 * 2 ^ 34 + off % 2 ^ 19

/-- The core whose local store holds an address. -/
def coreOfPa (pa : Nat) : Nat := pa / 2 ^ 44 % 4 * 1024 + pa / 2 ^ 34 % 1024

/-- A device register (11 R242). -/
def isDevReg (pa : Nat) : Bool := decide (spaceOf pa = 3) && !bitAt pa 49

/-- A host-window address. -/
def isHostWin (pa : Nat) : Bool := decide (spaceOf pa = 3) && bitAt pa 49

/-- The die a node stands on, for the widths of scopes (12 R284). -/
def nodeDie : Node → Nat
  | .core c => c / 1024
  | .hbm n => n / 128
  | .tier n => n / 16
  | .host d | .disp d | .pool d => d
  | .port _ => 0

/-! ### A partition's places (08 R174, 11 R246, R248) -/

/-- The slots of a mask, lowest first. -/
def slotsOf (m : BitVec 8) : List Nat := (nums 8).filter fun k => m.getLsbD k

/-- The lowest slot of a partition: its control slot. -/
def ctrlSlot (d : PDie) : Nat := (slotsOf d.smask).headD 0

/-- The highest slot. -/
def topSlot (d : PDie) : Nat := (slotsOf d.smask).getLastD 0

/-- A slot that may hold a strand or a spawned thread (08 R174, R194). -/
def computeSlots (d : PDie) : List Nat :=
  (slotsOf d.smask).filter fun k => k ≠ ctrlSlot d && !(d.migh && decide (k = topSlot d))

/-- The partition that owns a slot of a die. -/
def State.partOfSlot (s : State) (d slot : Nat) : Option Nat :=
  ((nums 4).filter fun p => (s.pdie d p).v && (s.pdie d p).smask.getLsbD slot).head?

/-- First local-store offset of a partition. -/
def lsBase (d : PDie) : Nat := 65536 * ctrlSlot d
/-- The end of its range. -/
def lsTop (d : PDie) : Nat := lsBase d + 65536 * (slotsOf d.smask).length
/-- First offset of bead slot `i`. -/
def slotOff (d : PDie) (i : Nat) : Nat := lsTop d - 8192 * (d.bslots - i)
/-- First offset of the bead slots. -/
def beadBase (d : PDie) : Nat := lsTop d - 8192 * d.bslots
/-- First offset of the migrant area. -/
def migBase (d : PDie) : Nat := beadBase d - (if d.migh then 16384 else 0)
/-- First offset of the save area. -/
def saveBase (d : PDie) : Nat := migBase d - 4096 * d.savea

/-- Whether a partition owns the bank of a local-store offset (11 R246). -/
def ownsOff (d : PDie) (off : Nat) : Bool := d.v && decide (lsBase d ≤ off) && decide (off < lsTop d)

/-- The areas of a partition's range (11 Table 11.3). -/
inductive Area where | plain | bead (n : Nat) | migrant | save
  deriving DecidableEq, Repr

/-- The area of an offset in its partition's range. -/
def areaOf (d : PDie) (off : Nat) : Area :=
  if beadBase d ≤ off then .bead ((off - beadBase d) / 8192)
  else if migBase d ≤ off then .migrant
  else if saveBase d ≤ off then .save
  else .plain

end Sys2Proof.Machine
end

