-- ==== Sys2Proof/Machine/Net.lean ====
section
/-! DEFINITION. Channels of the reference machine: which plane class a message takes, and how it is sent (12 R274,
R276). -/

namespace Sys2Proof.Machine

/-- The plane class of a request (12 Table 12.2). The table does not list accesses to DEP.VAL and pool requests, which take Q, nor
the withdrawal of a waiter, which takes its request's class (DESIGN CHOICE, log 74). -/
def planeOf : Req → Plane
  | .read _ | .atomic _ _ _ _ | .qget | .label | .objState _ | .bbwait | .dep _ _ _ | .pool _ _ _ => .q
  | .fe op _ => match op with
    | .take | .peek | .tst => .q
    | .fill | .force | .clr => .p
  | .write _ | .sumAdd _ _ | .redAdd _ _ _ | .qput _ _ | .bbset _ => .p
  | .mcast _ _ _ => .b

/-- An item placed at the tail of a channel. -/
def State.send (s : State) (src dst : Node) (pl : Plane) (it : Item) : State :=
  { s with channels := kputList s.channels (src, dst, pl) (klist s.channels (src, dst, pl) ++ [it]) }

/-- The nodes of a package that hold arrival queues, in a fixed order: those that a queue is kept for. -/
def State.queued (s : State) : List Node := s.arrivals.map (·.1)

/-- An item placed at the tail of a home's arrival queue. -/
def State.arrive (s : State) (n : Node) (it : Item) : State :=
  { s with arrivals := kputList s.arrivals n (klist s.arrivals n ++ [it]) }

/-- An item placed at the tail of a node's delivered responses. -/
def State.toInbox (s : State) (n : Node) (it : Item) : State :=
  { s with inbox := kputList s.inbox n (klist s.inbox n ++ [it]) }

/-- A request placed in its channel. -/
def State.request (s : State) (m : Msg) : State := s.send m.src m.dst m.pl (.req m)

/-- Requests of a scheduled access, or the answers to them, that still stand in a channel or a queue. -/
def schedItem (tid gen id : Nat) (it : Item) : Bool :=
  match it with
  | .req m => decide (m.owner = .sched tid gen id) || m.others.any fun x => decide (x.2.1 = .sched tid gen id)
  | .resp _ o _ _ => decide (o = .sched tid gen id)
  | _ => false

/-- Whether a scheduled access of a thread, live or not, is still under way (12 R291): in a channel, a queue or a spill
buffer, alone or combined with another write. -/
def State.schedOpen (s : State) (tid gen id : Nat) : Bool :=
  s.channels.any (fun c => c.2.any (schedItem tid gen id)) || s.arrivals.any (fun c => c.2.any (schedItem tid gen id)) ||
  s.inbox.any (fun c => c.2.any (schedItem tid gen id)) ||
  s.cores.any (fun c => c.2.parts.toList.any fun p => p.spill.any (schedItem tid gen id))

/-- Whether an owner is the given thread. -/
def isOwner (tid gen : Nat) : Owner → Bool
  | .thread t g => decide (t = tid) && decide (g = gen)
  | _ => false

end Sys2Proof.Machine
end

