-- ==== Sys2Proof/Machine/Formats.lean ====
section
/-! DEFINITION. Number formats, exact values, rounding, conversions and NaN payloads (05 R121 to R147). An exact value
is a dyadic number; a result that is not dyadic (a quotient, a root) is held as enough of its leading bits and a sticky
bit, which decides every rounding of R135 and R141. -/

namespace Sys2Proof.Machine

/-! ### Tags -/

/-- A floating-point or binary8 format (05 R127, R129, R130, R132). A magnitude code counts up from 0, so that larger
codes are larger magnitudes. -/
structure Fmt where
  /-- Bits of an encoding. -/
  width : Nat
  /-- Bits of the trailing significand. -/
  t : Nat
  bias : Nat
  signed : Bool
  /-- The format has −0. -/
  negZero : Bool
  /-- Magnitude code of the largest finite value. -/
  maxc : Nat
  /-- Magnitude code of infinity. -/
  infc : Option Nat
  /-- The canonical NaN. -/
  nanc : Nat
  /-- Where a payload lies: 1 in FP32, 2 in FP64, 0 nowhere (05 R145). -/
  pay : Nat
  deriving DecidableEq, Repr

/-- FP64 (05 Table 5.3). -/
def fp64 : Fmt := ⟨64, 52, 1023, true, true, 0x7FEFFFFFFFFFFFFF, some 0x7FF0000000000000, 0x7FF8000000000000, 2⟩
/-- FP32 (05 Table 5.3). -/
def fp32 : Fmt := ⟨32, 23, 127, true, true, 0x7F7FFFFF, some 0x7F800000, 0x7FC00000, 1⟩
/-- FP16 (05 Table 5.3). -/
def fp16 : Fmt := ⟨16, 10, 15, true, true, 0x7BFF, some 0x7C00, 0x7E00, 0⟩
/-- BF16 (05 Table 5.3). -/
def bf16 : Fmt := ⟨16, 7, 127, true, true, 0x7F7F, some 0x7F80, 0x7FC0, 0⟩
/-- E4M3 (05 R132). -/
def e4m3 : Fmt := ⟨8, 3, 7, true, true, 0x7E, none, 0x7F, 0⟩
/-- E5M2 (05 R132). -/
def e5m2 : Fmt := ⟨8, 2, 15, true, true, 0x7B, some 0x7C, 0x7E, 0⟩
/-- A signed binary8 format of precision `p`, with infinities or saturating (05 R129). -/
def b8s (p : Nat) (sat : Bool) : Fmt :=
  ⟨8, p - 1, 2 ^ (7 - p), true, false, if sat then 0x7F else 0x7E, if sat then none else some 0x7F, 0x80, 0⟩
/-- An unsigned binary8 format of precision `p` (05 R130). -/
def b8u (p : Nat) (sat : Bool) : Fmt :=
  ⟨8, p - 1, 2 ^ (8 - p), false, false, if sat then 0xFE else 0xFD, if sat then none else some 0xFE, 0xFF, 0⟩

/-- The floating-point format of a tag (05 Table 5.1). -/
def tagFmt (g : Tag) : Option Fmt :=
  let n := g.toNat
  if n = 0x09 then some fp64 else if n = 0x0A then some fp32 else if n = 0x0B then some fp16
  else if n = 0x0C then some bf16 else if n = 0x0D then some e4m3 else if n = 0x0E then some e5m2
  else if n % 8 = 0 then none
  else if n / 8 = 2 then some (b8s (n % 8) false) else if n / 8 = 3 then some (b8s (n % 8) true)
  else if n / 8 = 4 then some (b8u (n % 8) false) else if n / 8 = 5 then some (b8u (n % 8) true)
  else none

/-- The integer type of a tag: signed, and its bits (05 Table 5.1). -/
def tagInt (g : Tag) : Option (Bool × Nat) :=
  let n := g.toNat
  if n = 0 then none else if n ≤ 4 then some (true, 2 ^ (n + 2)) else if n ≤ 8 then some (false, 2 ^ (n - 2)) else none

/-- Bits of an element under a tag; none under raw (05 Table 5.1). -/
def tagWidth (g : Tag) : Option Nat :=
  match tagInt g with
  | some (_, w) => some w
  | none => (tagFmt g).map (·.width)

/-- A binary8 tag (05 Table 5.1). -/
def tagB8 (g : Tag) : Bool := decide (0x11 ≤ g.toNat) && (tagFmt g).isSome

/-- Signedness of an integer type. -/
def ityS : ITy → Bool
  | .i8 | .i16 | .i32 | .i64 => true
  | .n8 | .n16 | .n32 | .n64 => false

/-- Bits of an integer type. -/
def ityW : ITy → Nat
  | .i8 | .n8 => 8
  | .i16 | .n16 => 16
  | .i32 | .n32 => 32
  | .i64 | .n64 => 64

/-- Tag of an integer type. -/
def ityTag : ITy → Tag
  | .i8 => 1 | .i16 => 2 | .i32 => 3 | .i64 => 4 | .n8 => 5 | .n16 => 6 | .n32 => 7 | .n64 => 8

/-- Bits of a width code. -/
def widBits : Wid → Nat
  | .w8 => 8 | .w16 => 16 | .w32 => 32 | .w64 => 64

/-- The format of the vector float majors. -/
def ffmt : FFmt → Fmt
  | .f64 => fp64 | .f32 => fp32 | .f16 => fp16 | .bf16 => bf16

/-- Its tag. -/
def ffmtTag : FFmt → Tag
  | .f64 => 0x09 | .f32 => 0x0A | .f16 => 0x0B | .bf16 => 0x0C

/-- The integer that an element of `w` bits spells. -/
def intOf (signed : Bool) (w x : Nat) : Int := if signed && decide (2 ^ (w - 1) ≤ x) then (x : Int) - 2 ^ w else x

/-- The element of `w` bits that spells an integer, modulo 2^w. -/
def intBits (w : Nat) (x : Int) : Nat := (x % (2 ^ w : Nat)).toNat

/-- Bounds of an integer type (05 R126). -/
def intLo (signed : Bool) (w : Nat) : Int := if signed then -(2 ^ (w - 1) : Nat) else 0
/-- The upper bound. -/
def intHi (signed : Bool) (w : Nat) : Int := if signed then (2 ^ (w - 1) : Nat) - 1 else (2 ^ w : Nat) - 1

/-- Sat of 02 Table 2.11. -/
def satInt (x lo hi : Int) : Int := if x < lo then lo else if hi < x then hi else x

/-! ### Flags, values -/

/-- FPC.FLG: inexact, underflow, overflow, division by zero, invalid, from bit 0 (02 Table 2.5). -/
abbrev Flags := BitVec 5
/-- Inexact. -/
def fInexact : Flags := 1
/-- Underflow. -/
def fUnderflow : Flags := 2
/-- Overflow. -/
def fOverflow : Flags := 4
/-- Division by zero. -/
def fDivZero : Flags := 8
/-- Invalid. -/
def fInvalid : Flags := 16

/-- A payload: package, die, logical core, k index (05 Table 5.7). -/
abbrev PayKey := Nat × Nat × Nat × Nat

/-- The value of an encoding. -/
inductive Num where
  /-- A NaN: signalling, and its payload. -/
  | nan (sig : Bool) (key : Option PayKey)
  | inf (neg : Bool)
  /-- (−1)^neg × m × 2^e; m = 0 is a zero of that sign. -/
  | fin (neg : Bool) (m : Nat) (e : Int)
  deriving DecidableEq, Repr

/-- The payload of a NaN encoding (05 R145). -/
def payOf (f : Fmt) (x : Nat) : Option PayKey :=
  if f.pay = 1 then
    if x / 2 ^ 21 = 0x3FF then some (0, fieldAt x 20 1, fieldAt x 10 10, fieldAt x 0 10) else none
  else if f.pay = 2 then
    if x / 2 ^ 50 = 0x1FFF then some (fieldAt x 42 8, fieldAt x 41 1, fieldAt x 31 10, fieldAt x 0 31) else none
  else none

/-- The NaN of a format with a payload, the k index saturating (05 R138, R145). -/
def nanWith (f : Fmt) (k : Option PayKey) : Nat :=
  match k with
  | none => f.nanc
  | some (pkg, die, core, i) =>
    if f.pay = 1 then 0x3FF * 2 ^ 21 + die % 2 * 2 ^ 20 + core % 1024 * 2 ^ 10 + min i 1023
    else if f.pay = 2 then
      0x1FFF * 2 ^ 50 + pkg % 256 * 2 ^ 42 + die % 2 * 2 ^ 41 + core % 1024 * 2 ^ 31 + min i (2 ^ 31 - 1)
    else f.nanc

/-- Field by field order of payloads (05 R147). -/
def keyLt (a b : PayKey) : Bool :=
  let n (k : PayKey) := ((k.1 * 2 + k.2.1) * 1024 + k.2.2.1) * 2 ^ 31 + k.2.2.2
  decide (n a < n b)

/-- The payload that a combination of operands carries (05 R147). -/
def bestKey : List (Option PayKey) → Option PayKey
  | [] => none
  | none :: l => bestKey l
  | some a :: l =>
    match bestKey l with
    | none => some a
    | some b => if keyLt b a then some b else some a

/-- The value of an encoding (05 R127, R129, R130, R132). An E5M2 NaN is quiet when the top bit of its fraction is set and signalling
otherwise, as R127 has it for the larger formats: 0x7D and 0xFD signal (DEDUCED, log 33). -/
def numOf (f : Fmt) (x : Nat) : Num :=
  let neg := f.signed && decide (2 ^ (f.width - 1) ≤ x)
  let mag := if f.signed then x % 2 ^ (f.width - 1) else x
  if (f.infc.getD f.maxc < mag) || (f.signed && !f.negZero && neg && decide (mag = 0)) then
    .nan (f.infc.isSome && f.negZero && !(bitAt mag (f.t - 1))) (payOf f x)
  else if f.infc = some mag then .inf neg
  else
    let e := mag / 2 ^ f.t
    let m := if e = 0 then mag else mag % 2 ^ f.t + 2 ^ f.t
    .fin neg m ((max e 1 : Nat) - f.bias - f.t : Int)

/-! ### Rounding -/

/-- How a word rounds: a mode, and under sround the 32 random bits of each rounding index (05 R135, R141). -/
structure Rnd where
  mode : RMode
  draw : Nat → Option Nat

/-- Whether a magnitude is rounded up: `n` is what is kept, `rem` / 2^sh what is cut, `sticky` more below it. Where both
neighbours of a tie end in a 1, as in a format of one bit of precision, the larger magnitude is taken (DESIGN CHOICE, log
33). -/
def roundUp (r : Rnd) (idx : Nat) (neg : Bool) (n rem sh : Nat) (sticky : Bool) : Bool :=
  let inexact := decide (rem ≠ 0) || sticky
  match r.draw idx with
  | some d => inexact && decide (2 ^ 32 ≤ rem * 2 ^ 32 / 2 ^ sh + d)
  | none =>
    match r.mode with
    | .rne => decide (2 ^ sh < 2 * rem) || (decide (2 * rem = 2 ^ sh) && decide (0 < sh) && (sticky || decide (n % 2 = 1)))
    | .rtz => false
    | .rup => inexact && !neg
    | .rdn => inexact && neg
    | .rna => inexact

/-- The magnitude (m, and something below it when `sticky`) × 2^e in units of 2^q, rounded; and whether it is inexact. -/
def roundAt (r : Rnd) (idx : Nat) (neg : Bool) (m : Nat) (e : Int) (sticky : Bool) (q : Int) : Nat × Bool :=
  let sh := (q - e).toNat
  let m' := if q < e then m * 2 ^ (e - q).toNat else m
  let n := m' / 2 ^ sh
  let rem := m' % 2 ^ sh
  (if roundUp r idx neg n rem sh sticky then n + 1 else n, decide (rem ≠ 0) || sticky)

/-- The encoding of a sign and a magnitude code. -/
def signCode (f : Fmt) (neg : Bool) (mag : Nat) : Nat :=
  if neg && f.signed && (f.negZero || decide (mag ≠ 0)) then mag + 2 ^ (f.width - 1) else mag

/-- The result of an overflow (05 Table 5.5). -/
def overflowCode (f : Fmt) (r : Rnd) (idx : Nat) (neg sat : Bool) : Nat :=
  match f.infc, sat with
  | some i, false =>
    match r.draw idx, r.mode with
    | some _, _ => signCode f neg i
    | none, .rtz => signCode f neg f.maxc
    | none, .rup => signCode f neg (if neg then f.maxc else i)
    | none, .rdn => signCode f neg (if neg then i else f.maxc)
    | none, _ => signCode f neg i
  | _, _ => signCode f neg f.maxc

/-- Round of a nonzero exact value (05 R135 to R137); `sat` is VCVT's SAT bit. -/
def roundNum (f : Fmt) (r : Rnd) (idx : Nat) (sat neg : Bool) (m : Nat) (e : Int) (sticky : Bool) : Nat × Flags :=
  let x : Int := Nat.log2 m + e
  let emin : Int := 1 - f.bias
  let q0 := x - f.t
  let q := max q0 (emin - f.t)
  let (n, inexact) := roundAt r idx neg m e sticky q
  let (n0, _) := roundAt r idx neg m e sticky q0
  let code := (q - (emin - f.t)).toNat * 2 ^ f.t + n
  if f.maxc < code then (overflowCode f r idx neg sat, fOverflow ||| fInexact)
  else
    let tiny := decide (q0 < emin - f.t) && !(decide (q0 + 1 = emin - f.t) && decide (n0 = 2 ^ (f.t + 1)))
    (signCode f neg code, (if inexact then fInexact else 0) ||| (if tiny && inexact then fUnderflow else 0))

/-- Zero of a sign. -/
def zeroCode (f : Fmt) (neg : Bool) : Nat := signCode f neg 0

/-- Infinity of a sign, or what stands for it in a format without one (05 R136). -/
def infCode (f : Fmt) (neg sat : Bool) : Nat × Flags :=
  match f.infc, sat with
  | some i, false => (signCode f neg i, 0)
  | _, _ => (signCode f neg f.maxc, fOverflow ||| fInexact)

/-- Round of an exact dyadic value whose sign, when it is zero, is given (05 R128, R135). -/
def roundDy (f : Fmt) (r : Rnd) (idx : Nat) (zneg : Bool) (m : Int) (e : Int) : Nat × Flags :=
  if m = 0 then (zeroCode f zneg, 0) else roundNum f r idx false (decide (m < 0)) m.natAbs e false

/-! ### Exact sums of products -/

/-- One term of an exact sum: its sign, magnitude and exponent. -/
structure Term where
  neg : Bool
  m : Nat
  e : Int
  deriving DecidableEq, Repr

/-- m × 2^e with both exponents brought to the lower. -/
def dyAdd (a b : Int × Int) : Int × Int :=
  let e := min a.2 b.2
  (a.1 * (2 ^ (a.2 - e).toNat : Nat) + b.1 * (2 ^ (b.2 - e).toNat : Nat), e)

/-- The exact sum. -/
def dySum (l : List Term) : Int × Int :=
  l.foldl (fun a t => if t.m = 0 then a else dyAdd a (if t.neg then -(t.m : Int) else t.m, t.e)) (0, 0)

/-- The sign of a zero sum: that of terms of one sign, else + except toward −∞ (05 R128). -/
def zeroSign (r : Rnd) (idx : Nat) (l : List Term) : Bool :=
  match l with
  | [] => false
  | t :: l => if l.all (fun u => u.neg == t.neg) then t.neg else decide (r.draw idx = none) && decide (r.mode = .rdn)

/-- A product of values: a value, or invalid (0 × ∞) (05 R128). -/
def mulNum (a b : Num) : Num × Flags :=
  match a, b with
  | .nan s k, .nan s' k' => (.nan false (bestKey [k, k']), if s || s' then fInvalid else 0)
  | .nan s k, _ => (.nan false k, if s then fInvalid else 0)
  | _, .nan s k => (.nan false k, if s then fInvalid else 0)
  | .inf n, .inf n' => (.inf (n != n'), 0)
  | .inf n, .fin n' m _ => if m = 0 then (.nan false none, fInvalid) else (.inf (n != n'), 0)
  | .fin n m _, .inf n' => if m = 0 then (.nan false none, fInvalid) else (.inf (n != n'), 0)
  | .fin n m e, .fin n' m' e' => (.fin (n != n') (m * m') (e + e'), 0)

/-- A value with its sign turned. -/
def negNum : Num → Num
  | .nan s k => .nan s k
  | .inf n => .inf (!n)
  | .fin n m e => .fin (!n) m e

/-- A NaN among values. -/
def isNan : Num → Bool
  | .nan _ _ => true
  | _ => false

/-- A signalling NaN. -/
def isSig : Num → Bool
  | .nan s _ => s
  | _ => false

/-- The payload of a value. -/
def numKey : Num → Option PayKey
  | .nan _ k => k
  | _ => none

/-- An infinity of the given sign. -/
def isInf (neg : Bool) : Num → Bool
  | .inf n => n == neg
  | _ => false

/-- A finite value as a term. -/
def termOf : Num → Option Term
  | .fin n m e => some ⟨n, m, e⟩
  | _ => none

/-- Round of the exact sum of values, with the NaN and infinity rules of 05 R128, R144 and R147. -/
def sumNums (f : Fmt) (r : Rnd) (idx : Nat) (l : List Num) : Nat × Flags :=
  let sig := if l.any isSig then fInvalid else 0
  let both := l.any (isInf true) && l.any (isInf false)
  if l.any isNan then (nanWith f (bestKey (l.map numKey)), sig ||| (if both then fInvalid else 0))
  else if both then (nanWith f none, fInvalid)
  else if l.any (isInf true) then infCode f true false
  else if l.any (isInf false) then infCode f false false
  else
    let ts := l.filterMap termOf
    let (m, e) := dySum ts
    roundDy f r idx (zeroSign r idx ts) m e

/-! ### Operations on encodings -/

/-- a + b, a − b. -/
def fAdd (f : Fmt) (r : Rnd) (idx a b : Nat) : Nat × Flags := sumNums f r idx [numOf f a, numOf f b]
/-- a − b. -/
def fSub (f : Fmt) (r : Rnd) (idx a b : Nat) : Nat × Flags := sumNums f r idx [numOf f a, negNum (numOf f b)]
/-- a × b. -/
def fMul (f : Fmt) (r : Rnd) (idx a b : Nat) : Nat × Flags :=
  let (p, fl) := mulNum (numOf f a) (numOf f b)
  let (x, fl') := sumNums f r idx [p]
  (x, fl ||| fl')
/-- ±(a × b) ± d (06 Table 6.4). -/
def fFma (f : Fmt) (r : Rnd) (idx : Nat) (np nd : Bool) (a b d : Nat) : Nat × Flags :=
  let (p, fl) := mulNum (numOf f a) (numOf f b)
  let n := numOf f d
  let (x, fl') := sumNums f r idx [if np then negNum p else p, if nd then negNum n else n]
  (x, fl ||| fl')

/-- A position in the order of the values, −0 below +0 (06 Table 6.4). -/
def numLt (a b : Num) : Bool :=
  match a, b with
  | .inf n, .inf n' => n && !n'
  | .inf n, .fin _ _ _ => n
  | .fin _ _ _, .inf n' => !n'
  | .fin n m e, .fin n' m' e' =>
    if m = 0 && m' = 0 then n && !n'
    else
      let (d, _) := dyAdd (if n then -(m : Int) else m, e) (if n' then (m' : Int) else -(m' : Int), e')
      decide (d < 0)
  | _, _ => false

/-- Equality of values, zeros of either sign equal (06 R158). -/
def numEq (a b : Num) : Bool :=
  match a, b with
  | .inf n, .inf n' => n == n'
  | .fin n m e, .fin n' m' e' =>
    let (d, _) := dyAdd (if n then -(m : Int) else m, e) (if n' then (m' : Int) else -(m' : Int), e')
    decide (d = 0)
  | _, _ => false

/-- The smaller, or with `big` the larger, of two operands (06 Table 6.4). -/
def fMin (f : Fmt) (big : Bool) (a b : Nat) : Nat × Flags :=
  let x := numOf f a
  let y := numOf f b
  let fl := if isSig x || isSig y then fInvalid else 0
  if isNan x || isNan y then (nanWith f (bestKey [numKey x, numKey y]), fl)
  else (if (if big then numLt x y else numLt y x) then b else a, 0)

/-- |a|, or with `turn` −a (06 Table 6.4). -/
def fAbs (f : Fmt) (turn : Bool) (a : Nat) : Nat × Flags :=
  match numOf f a with
  | .nan s k => (nanWith f k, if s then fInvalid else 0)
  | _ =>
    let mag := a % 2 ^ (f.width - 1)
    let neg := decide (2 ^ (f.width - 1) ≤ a)
    (if turn && !neg then mag + 2 ^ (f.width - 1) else mag, 0)

/-- a ÷ b (06 Table 6.4). -/
def fDiv (f : Fmt) (r : Rnd) (idx a b : Nat) : Nat × Flags :=
  let x := numOf f a
  let y := numOf f b
  let sig := if isSig x || isSig y then fInvalid else 0
  match x, y with
  | .nan _ k, .nan _ k' => (nanWith f (bestKey [k, k']), sig)
  | .nan _ k, _ => (nanWith f k, sig)
  | _, .nan _ k => (nanWith f k, sig)
  | .inf _, .inf _ => (nanWith f none, fInvalid)
  | .inf n, .fin n' _ _ => infCode f (n != n') false
  | .fin n _ _, .inf n' => (zeroCode f (n != n'), 0)
  | .fin n m e, .fin n' m' e' =>
    if m' = 0 then
      if m = 0 then (nanWith f none, fInvalid)
      else
        let (c, fl) := infCode f (n != n') false
        (c, fl ||| fDivZero)
    else if m = 0 then (zeroCode f (n != n'), 0)
    else roundNum f r idx false (n != n') (m * 2 ^ 160 / m') (e - e' - 160) (decide (m * 2 ^ 160 % m' ≠ 0))

/-- The integer square root, bit by bit. -/
def isqrtGo : Nat → Nat → Nat → Nat
  | 0, _, r => r
  | b + 1, x, r => isqrtGo b x (if (r + 2 ^ b) * (r + 2 ^ b) ≤ x then r + 2 ^ b else r)

/-- The integer square root. -/
def isqrt (x : Nat) : Nat := isqrtGo (Nat.log2 x / 2 + 1) x 0

/-- √a (06 Table 6.4). -/
def fSqrt (f : Fmt) (r : Rnd) (idx a : Nat) : Nat × Flags :=
  match numOf f a with
  | .nan s k => (nanWith f k, if s then fInvalid else 0)
  | .inf true => (nanWith f none, fInvalid)
  | .inf false => infCode f false false
  | .fin n m e =>
    if m = 0 then (zeroCode f n, 0)
    else if n then (nanWith f none, fInvalid)
    else
      let odd := e % 2 ≠ 0
      let m' := if odd then m * 2 else m
      let e' := if odd then e - 1 else e
      let x := m' * 2 ^ 200
      let q := isqrt x
      roundNum f r idx false false q (e' / 2 - 100) (decide (q * q ≠ x))

/-- A float condition and its invalid flag (06 Table 6.5). -/
def fCond (f : Fmt) (c : FCond) (a b : Nat) : Bool × Flags :=
  let x := numOf f a
  let y := numOf f b
  let nan := isNan x || isNan y
  let sig := if isSig x || isSig y then fInvalid else 0
  match c with
  | .eq => (!nan && numEq x y, sig)
  | .ne => (nan || !numEq x y, sig)
  | .lt => (!nan && numLt x y && !numEq x y, if nan then fInvalid else 0)
  | .le => (!nan && (numLt x y || numEq x y), if nan then fInvalid else 0)
  | .gt => (!nan && numLt y x && !numEq x y, if nan then fInvalid else 0)
  | .ge => (!nan && (numLt y x || numEq x y), if nan then fInvalid else 0)
  | .un => (nan, sig)
  | .ord => (!nan, sig)

/-- An integer condition on values, and on the two bit strings for tst and ntst (04 R101). -/
def iCond (c : ICond) (x y : Int) (a b : Nat) : Bool :=
  match c with
  | .eq => decide (x = y)
  | .ne => decide (x ≠ y)
  | .lt => decide (x < y)
  | .le => decide (x ≤ y)
  | .gt => decide (y < x)
  | .ge => decide (y ≤ x)
  | .tst => decide (a &&& b ≠ 0)
  | .ntst => decide (a &&& b = 0)

/-! ### Conversions (05 R138) -/

/-- A value into a floating-point format. -/
def toFmt (f : Fmt) (r : Rnd) (idx : Nat) (sat : Bool) (x : Num) : Nat × Flags :=
  match x with
  | .nan s k => (nanWith f k, if s then fInvalid else 0)
  | .inf n =>
    if n && !f.signed then (0, fInvalid) else infCode f n sat
  | .fin n m e =>
    if m = 0 then (zeroCode f n, 0)
    else if n && !f.signed then (0, fInvalid)
    else roundNum f r idx sat n m e false

/-- A value into an integer type: rounded, then saturated. -/
def toInt (signed : Bool) (w : Nat) (r : Rnd) (idx : Nat) (x : Num) : Nat × Flags :=
  match x with
  | .nan _ _ => (0, fInvalid)
  | .inf n => (intBits w (if n then intLo signed w else intHi signed w), fInvalid)
  | .fin n m e =>
    let (q, inexact) := roundAt r idx n m e false 0
    let v : Int := if n then -(q : Int) else q
    if v < intLo signed w then (intBits w (intLo signed w), fInvalid)
    else if intHi signed w < v then (intBits w (intHi signed w), fInvalid)
    else (intBits w v, if inexact then fInexact else 0)

/-- An integer as a value. -/
def numOfInt (x : Int) : Num := .fin (decide (x < 0)) x.natAbs 0

/-- One value of a tag rounded into a tag (05 R135 to R138). -/
def recode (src dst : Tag) (r : Rnd) (idx : Nat) (sat : Bool) (x : Nat) : Nat × Flags :=
  let v := match tagInt src with
    | some (s, w) => numOfInt (intOf s w x)
    | none => match tagFmt src with
      | some f => numOf f x
      | none => .fin false 0 0
  match tagInt dst with
  | some (s, w) => toInt s w r idx v
  | none => match tagFmt dst with
    | some f => toFmt f r idx sat v
    | none => (0, 0)

/-- One element from one tag to another. Into its own format it is copied, but for a signalling NaN (06 R166). Under SAT an infinity
is copied by R166 and becomes the largest finite value by 05 R136 and R138: which of the two is a
free value (DESIGN CHOICE, log 33). -/
def convert (src dst : Tag) (r : Rnd) (idx : Nat) (sat : Bool) (x : Nat) : Nat × Flags :=
  if src = dst then
    match tagFmt src with
    | some f =>
      match numOf f x with
      | .nan s _ => if s then (f.nanc, fInvalid) else (x, 0)
      | .inf n => if sat && !Config.copiesInf then infCode f n true else (x, 0)
      | .fin _ _ _ => (x, 0)
    | none => (x, 0)
  else recode src dst r idx sat x

/-- The carry-less product of `a` and the low `n` bits of `b` (04 R98). -/
def clmulNat (a b : Nat) : Nat → Nat
  | 0 => 0
  | n + 1 => Nat.xor (clmulNat a b n) (if bitAt b n then a * 2 ^ n else 0)

/-- The number of 1 bits among the low `n`. -/
def popcNat (x : Nat) : Nat → Nat
  | 0 => 0
  | n + 1 => popcNat x n + b2n (bitAt x n)

/-- The number of 0 bits above the highest 1 bit among the low `n`. -/
def clzNat (x : Nat) : Nat → Nat
  | 0 => 0
  | n + 1 => if bitAt x n then 0 else clzNat x n + 1

/-- The number of 0 bits below the lowest 1 bit, from bit `i` on, at most `n`. -/
def ctzNat (x i : Nat) : Nat → Nat
  | 0 => 0
  | n + 1 => if bitAt x i then 0 else ctzNat x (i + 1) n + 1

/-- The random bits of a rounding (05 R141). -/
def srBits (seed cnt : Nat) (pc : Word) (idx : Nat) : Nat :=
  let z := BitVec.ofNat 64 (seed * 2 ^ 40) ^^^ BitVec.ofNat 64 (cnt * 2 ^ 18) ^^^ BitVec.ofNat 64 idx
  let z := z ^^^ (pc * 0x9E3779B97F4A7C15#64)
  let z := (z ^^^ (z >>> 30)) * 0xBF58476D1CE4E5B9#64
  let z := (z ^^^ (z >>> 27)) * 0x94D049BB133111EB#64
  let z := z ^^^ (z >>> 31)
  z.toNat % 2 ^ 32

end Sys2Proof.Machine
end

