-- ==== Sys2Proof/WellFormed.lean ====
section
/-! DEFINITION. Which instructions the encodings admit: the fields that take fewer values than their width allows
(03 R56 to R81, 05 R121), and, for the events, which dies, partitions, cores and principals exist. -/

namespace Sys2Proof

/-- The assigned format tag codes (05 Table 5.1). -/
def tagAssigned (t : Tag) : Bool :=
  let n := t.toNat
  decide (n ≤ 14) || decide (17 ≤ n ∧ n ≤ 23) || decide (25 ≤ n ∧ n ≤ 31) || decide (33 ≤ n ∧ n ≤ 39)
    || decide (41 ≤ n ∧ n ≤ 47)

/-- The assigned control-register numbers: 03 Table 3.21 and the chapters that define later ones (03 R70). -/
def crnAssigned (c : BitVec 12) : Bool :=
  let n := c.toNat
  decide (n ≤ 2) || decide (8 ≤ n ∧ n ≤ 13) || decide (16 ≤ n ∧ n ≤ 27) || decide (256 ≤ n ∧ n ≤ 265)
    || decide (512 ≤ n ∧ n ≤ 514) || decide (544 ≤ n ∧ n ≤ 559) || decide (576 ≤ n ∧ n ≤ 581)
    || decide (1024 ≤ n ∧ n ≤ 1030) || decide (1032 ≤ n ∧ n ≤ 1035) || decide (1040 ≤ n ∧ n ≤ 1042)
    || decide (1044 ≤ n ∧ n ≤ 1053) || decide (1056 ≤ n ∧ n ≤ 1058) || decide (1088 ≤ n ∧ n ≤ 1121)
    || decide (1123 ≤ n ∧ n ≤ 1128) || decide (1136 ≤ n ∧ n ≤ 1141) || decide (1152 ≤ n ∧ n ≤ 1153)

/-- Scopes of lda, stl, fence, qput and qget: .core to .sys (03 R71, Table 3.29). -/
def scopeFence : Scope → Bool
  | .lane => false
  | .core | .quad | .die | .pkg | .pod | .sys => true

/-- Scopes of the barrier words: .core to .pod (03 Table 3.29). -/
def scopeBar : Scope → Bool
  | .lane | .sys => false
  | .core | .quad | .die | .pkg | .pod => true

/-- An MX form's scale registers are TA xor 4 and TB xor 4; neither may equal A, B or the other (14 R335, R337). -/
def mxClash (a : TReg) : BSrc → Bool
  | .tile t => a ^^^ 4#3 != t && a != t
  | .slot _ => true

/-- Whether an instruction is one of the 237 words, which have an encoding, or one of the 85 events. -/
def Instr.isWord : Instr → Bool
  | .add .. | .sub .. | .mul .. | .mulhI64 .. | .mulhN64 .. | .divI64 .. | .divN64 .. | .remI64 .. | .remN64 ..
  | .and .. | .or .. | .xor .. | .andn .. | .orn .. | .xnor .. | .sll .. | .srl .. | .sra .. | .rol .. | .ror ..
  | .minI64 .. | .maxI64 .. | .minN64 .. | .maxN64 .. | .popc .. | .clz .. | .ctz .. | .bextN .. | .bextI ..
  | .bins .. | .rev8 .. | .clmul .. | .clmulh .. | .sh1add .. | .sh2add .. | .sh3add .. | .sh4add .. | .cmp ..
  | .cmpi .. | .cmpin .. | .pand .. | .por .. | .pxor .. | .pmov .. | .mfpw .. | .mtpw .. | .sel .. | .addi ..
  | .andi .. | .ori .. | .xori .. | .slli .. | .srli .. | .srai .. | .roli .. | .rori .. | .lea .. | .movi ..
  | .br .. | .call .. | .brnz .. | .brz .. | .jr .. | .jalr .. | .mfcr .. | .mtcr .. | .mtcrs .. | .mtcrc ..
  | .ld .. | .st .. | .pst .. | .lda .. | .stl .. | .ldfeTake .. | .ldfePeek .. | .stfeFill .. | .stfeForce ..
  | .feclr .. | .fetst .. | .aadd .. | .aand .. | .aor .. | .axor .. | .aminI .. | .amaxI .. | .aminN ..
  | .amaxN .. | .aswap .. | .acas .. | .saddF64 .. | .saddF32 .. | .sreadF64 .. | .sreadF32 .. | .sstore ..
  | .vaddI .. | .vsubI .. | .vmulI .. | .vmulh .. | .vminI .. | .vmaxI .. | .vadds .. | .vsubs .. | .vand ..
  | .vor .. | .vxor .. | .vandn .. | .vsll .. | .vsrl .. | .vsra .. | .vrol .. | .vror .. | .vpopc .. | .vclz ..
  | .vnegL .. | .vabsL .. | .vaddF .. | .vsubF .. | .vmulF .. | .vfma .. | .vfms .. | .vfnma .. | .vminF ..
  | .vmaxF .. | .vabsF .. | .vnegF .. | .vdiv .. | .vsqrt .. | .vcmpInt .. | .vcmpFloat .. | .vmov ..
  | .vperm32 .. | .vperm64 .. | .vsel .. | .kand .. | .kor .. | .kxor .. | .knot .. | .kmov .. | .vclmulLo32 ..
  | .vclmulHi32 .. | .vclmulLo64 .. | .vclmulHi64 .. | .vradd .. | .vrmin .. | .vrmax .. | .vbcast32 ..
  | .vbcast64 .. | .vins32 .. | .vins64 .. | .vext32 .. | .vext64 .. | .vcvt .. | .vscale .. | .vgexp ..
  | .vmxsc .. | .vmxq .. | .vmxdq .. | .vld .. | .vst .. | .tld .. | .tst .. | .tzero .. | .tmov .. | .tshape ..
  | .tgshape .. | .mmaF64 .. | .mmaF32 .. | .mmaBf16 .. | .mmaF16 .. | .mmaB8 .. | .mmaMxe4m3 .. | .mmaMxe5m2 ..
  | .rmmaI8 .. | .rmmaI16 .. | .acqa .. | .rela .. | .ardt .. | .azero .. | .rfwd .. | .rrevI64 .. | .rrevI32 ..
  | .rchk .. | .rodrd .. | .roddeg .. | .spawn .. | .exit .. | .launch .. | .migr .. | .waitq .. | .tgstart ..
  | .tgclk .. | .bar .. | .fence .. | .bara .. | .barw .. | .qput .. | .qget .. | .rten .. | .tret .. | .hsave ..
  | .hrest .. | .csave .. | .crest .. | .pcommit .. | .pfree .. | .palloc .. | .swtrap .. | .lrd .. | .lrdp ..
  | .lrdv .. | .lrdk .. | .lrdt .. | .lrdb .. | .lrdg .. | .ljoin .. | .gset .. | .rel .. | .btour .. | .bwait ..
  | .bpass .. | .btag .. | .copy .. | .mcast .. | .join .. | .poll .. | .bbset .. | .bbwait .. | .nop .. | .sig ..
  | .schedTrip .. | .schedBias .. | .limm .. | .rnd .. | .sround .. | .spar .. | .itinOpts .. | .reservedHint .. => true
  | .resultWrite .. | .divideResult .. | .vectorDivideResult .. | .parkWake .. | .waitExpired ..
  | .takePendingEvent .. | .deliver .. | .combine .. | .perform .. | .withdrawal .. | .complete .. | .fork ..
  | .engineStep .. | .engineStartOffset .. | .finish .. | .ship .. | .migrantResident .. | .matrixCommandStart ..
  | .matrixCommandComplete .. | .freeze .. | .pauseNotice .. | .pauseResume .. | .timingLag ..
  | .timedGroupStart .. | .tgstartBoundExpiry .. | .groupDeal .. | .launchAging .. | .launchCompletion ..
  | .barrierComplete .. | .beadArrival .. | .beadLanded .. | .holdExpiry .. | .beadDeparture ..
  | .followOnEntry .. | .copyFollowOn .. | .copySlotFill .. | .pfreeAppend .. | .cswCtlReq .. | .preemptTimeout ..
  | .drainLimit .. | .switchedOut .. | .cswCtlRes .. | .uncorrectableError .. | .scrubEnd .. | .hang ..
  | .intReq .. | .intReqArrival .. | .vfRun .. | .vfDeschedule .. | .vfPause .. | .vfReset .. | .mbox ..
  | .inboundRead .. | .inboundWrite .. | .budgetEpoch .. | .linkNarrow .. | .linkWiden .. | .quartzSlew ..
  | .checkpoint .. | .powerGood .. | .startTimerExpiry .. | .discoveryFlit .. | .discoveryTimeout .. | .bootOk ..
  | .cfgReq .. | .coreKill .. | .coreSvc .. | .rodFailSet .. | .principalRegister .. | .principalDeregister ..
  | .scopeSet .. | .xlatInvPage .. | .xlatInvAll .. | .xlatInvStage2 .. | .depVal .. | .registerWrite ..
  | .supplyDroop .. | .powerThrottle .. | .hbmScrub .. | .illegalOp .. | .fetchFault .. | .powerLoss ..
  | .sagEnd .. | .backUnderCap .. | .checkpointRestore .. => false

/-- The instructions the encodings admit. -/
def Instr.wf : Instr → Bool
  | .mfcr _ _ c => crnAssigned c
  | .mtcr _ _ c => crnAssigned c
  | .mtcrs _ _ c => crnAssigned c
  | .mtcrc _ _ c => crnAssigned c
  | .lda _ _ _ _ c => scopeFence c
  | .stl _ _ _ _ c => scopeFence c
  | .sstore _ _ b => decide (b.toNat ≤ 60)
  | .vcvt _ _ _ _ _ f => tagAssigned f && f != 0#6
  | .vld _ _ _ t _ _ => tagAssigned t
  | .mmaMxe4m3 _ _ a b _ => mxClash a b
  | .mmaMxe5m2 _ _ a b _ => mxClash a b
  | .spawn _ _ y => y != 63#6
  | .bar _ _ c => scopeBar c
  | .fence _ c => scopeFence c
  | .bara _ c => scopeBar c
  | .barw _ _ c => scopeBar c
  | .qput _ _ _ _ c => scopeFence c
  | .qget _ _ _ _ c => scopeFence c
  | .migrantResident core part => decide (core < 2048) && decide (part < 4)
  | .matrixCommandStart core => decide (core < 2048)
  | .matrixCommandComplete core => decide (core < 2048)
  | .freeze core part _ => decide (core < 2048) && decide (part < 4)
  | .groupDeal die part => decide (die < 2) && decide (part < 4)
  | .beadDeparture core part _ => decide (core < 2048) && decide (part < 4)
  | .cswCtlReq core part => decide (core < 2048) && decide (part < 4)
  | .preemptTimeout core part => decide (core < 2048) && decide (part < 4)
  | .drainLimit core part => decide (core < 2048) && decide (part < 4)
  | .switchedOut core part => decide (core < 2048) && decide (part < 4)
  | .cswCtlRes core part => decide (core < 2048) && decide (part < 4)
  | .hang die part => decide (die < 2) && decide (part < 4)
  | .intReq part _ _ => decide (part < 4)
  | .intReqArrival part => decide (part < 4)
  | .vfRun part => decide (part < 4)
  | .vfDeschedule part => decide (part < 4)
  | .vfPause part => decide (part < 4)
  | .vfReset part => decide (part < 4)
  | .mbox part _ => decide (part < 4)
  | .inboundRead _ part _ _ => decide (part < 4)
  | .inboundWrite _ part _ _ => decide (part < 4)
  | .budgetEpoch part => decide (part < 4)
  | .linkNarrow row => decide (row < 32)
  | .linkWiden row => decide (row < 32)
  | .discoveryFlit die x y => decide (die < 2) && decide (x < 32) && decide (y < 32)
  | .cfgReq die part _ => decide (die < 2) && decide (part < 4)
  | .coreKill core _ => decide (core < 2048)
  | .coreSvc core => decide (core < 2048)
  | .rodFailSet core _ => decide (core < 2048)
  | .principalRegister prin => decide (prin < 16)
  | .principalDeregister prin => decide (prin < 16)
  | .scopeSet part _ => decide (part < 4)
  | .xlatInvPage part _ => decide (part < 4)
  | .xlatInvAll part => decide (part < 4)
  | .xlatInvStage2 part _ => decide (part < 4)
  | .depVal die => decide (die < 2)
  | .registerWrite _ die _ _ => decide (die < 2)
  | .hbmScrub stack _ _ => decide (stack < 8)
  | .add .. | .sub .. | .mul .. | .mulhI64 .. | .mulhN64 .. | .divI64 .. | .divN64 .. | .remI64 .. | .remN64 ..
  | .and .. | .or .. | .xor .. | .andn .. | .orn .. | .xnor .. | .sll .. | .srl .. | .sra .. | .rol .. | .ror ..
  | .minI64 .. | .maxI64 .. | .minN64 .. | .maxN64 .. | .popc .. | .clz .. | .ctz .. | .bextN .. | .bextI ..
  | .bins .. | .rev8 .. | .clmul .. | .clmulh .. | .sh1add .. | .sh2add .. | .sh3add .. | .sh4add .. | .cmp ..
  | .cmpi .. | .cmpin .. | .pand .. | .por .. | .pxor .. | .pmov .. | .mfpw .. | .mtpw .. | .sel .. | .addi ..
  | .andi .. | .ori .. | .xori .. | .slli .. | .srli .. | .srai .. | .roli .. | .rori .. | .lea .. | .movi ..
  | .br .. | .call .. | .brnz .. | .brz .. | .jr .. | .jalr .. | .ld .. | .st .. | .pst .. | .ldfeTake ..
  | .ldfePeek .. | .stfeFill .. | .stfeForce .. | .feclr .. | .fetst .. | .aadd .. | .aand .. | .aor .. | .axor ..
  | .aminI .. | .amaxI .. | .aminN .. | .amaxN .. | .aswap .. | .acas .. | .saddF64 .. | .saddF32 ..
  | .sreadF64 .. | .sreadF32 .. | .vaddI .. | .vsubI .. | .vmulI .. | .vmulh .. | .vminI .. | .vmaxI ..
  | .vadds .. | .vsubs .. | .vand .. | .vor .. | .vxor .. | .vandn .. | .vsll .. | .vsrl .. | .vsra .. | .vrol ..
  | .vror .. | .vpopc .. | .vclz .. | .vnegL .. | .vabsL .. | .vaddF .. | .vsubF .. | .vmulF .. | .vfma ..
  | .vfms .. | .vfnma .. | .vminF .. | .vmaxF .. | .vabsF .. | .vnegF .. | .vdiv .. | .vsqrt .. | .vcmpInt ..
  | .vcmpFloat .. | .vmov .. | .vperm32 .. | .vperm64 .. | .vsel .. | .kand .. | .kor .. | .kxor .. | .knot ..
  | .kmov .. | .vclmulLo32 .. | .vclmulHi32 .. | .vclmulLo64 .. | .vclmulHi64 .. | .vradd .. | .vrmin ..
  | .vrmax .. | .vbcast32 .. | .vbcast64 .. | .vins32 .. | .vins64 .. | .vext32 .. | .vext64 .. | .vscale ..
  | .vgexp .. | .vmxsc .. | .vmxq .. | .vmxdq .. | .vst .. | .tld .. | .tst .. | .tzero .. | .tmov .. | .tshape ..
  | .tgshape .. | .mmaF64 .. | .mmaF32 .. | .mmaBf16 .. | .mmaF16 .. | .mmaB8 .. | .rmmaI8 .. | .rmmaI16 ..
  | .acqa .. | .rela .. | .ardt .. | .azero .. | .rfwd .. | .rrevI64 .. | .rrevI32 .. | .rchk .. | .rodrd ..
  | .roddeg .. | .exit .. | .launch .. | .migr .. | .waitq .. | .tgstart .. | .tgclk .. | .rten .. | .tret ..
  | .hsave .. | .hrest .. | .csave .. | .crest .. | .pcommit .. | .pfree .. | .palloc .. | .swtrap .. | .lrd ..
  | .lrdp .. | .lrdv .. | .lrdk .. | .lrdt .. | .lrdb .. | .lrdg .. | .ljoin .. | .gset .. | .rel .. | .btour ..
  | .bwait .. | .bpass .. | .btag .. | .copy .. | .mcast .. | .join .. | .poll .. | .bbset .. | .bbwait ..
  | .nop .. | .sig .. | .schedTrip .. | .schedBias .. | .limm .. | .rnd .. | .sround .. | .spar .. | .itinOpts ..
  | .reservedHint .. | .resultWrite .. | .divideResult .. | .vectorDivideResult .. | .parkWake ..
  | .waitExpired .. | .takePendingEvent .. | .deliver .. | .combine .. | .perform .. | .withdrawal ..
  | .complete .. | .fork .. | .engineStep .. | .engineStartOffset .. | .finish .. | .ship .. | .pauseNotice ..
  | .pauseResume .. | .timingLag .. | .timedGroupStart .. | .tgstartBoundExpiry .. | .launchAging ..
  | .launchCompletion .. | .barrierComplete .. | .beadArrival .. | .beadLanded .. | .holdExpiry ..
  | .followOnEntry .. | .copyFollowOn .. | .copySlotFill .. | .pfreeAppend .. | .uncorrectableError ..
  | .scrubEnd .. | .quartzSlew .. | .checkpoint .. | .powerGood .. | .startTimerExpiry .. | .discoveryTimeout ..
  | .bootOk .. | .supplyDroop .. | .powerThrottle .. | .illegalOp .. | .fetchFault .. | .powerLoss .. | .sagEnd ..
  | .backUnderCap .. | .checkpointRestore .. => true

end Sys2Proof
end

