-- ==== Sys2Proof/Decode.lean ====
section
/-! DEFINITION. The decoder and the encoder of the instruction words, written from the encoding tables of 03. Both go
by layout: `pack` joins the frame of Table 1.7, and one function for each layout of 03 Tables 3.3 to 3.15 joins the
fields of bits [23:0]. The decoder is total and rejects by the reasons of R87. -/

namespace Sys2Proof

/-! ### Codes of the fields (03 Tables 3.1, 3.2, 3.18, 3.24) -/

/-- A predicate reference: [5:4] zero, [3] SN, [2:0] n (03 Table 3.1). -/
def prefCode (neg : Bool) (n : PReg) : BitVec 6 := BitVec.ofNat 6 (neg.toNat * 8 + n.toNat)
/-- A lane mask in a 5-bit field (03 Table 3.1). -/
def kfCode (n : KReg) : BitVec 5 := BitVec.ofNat 5 n.toNat
/-- A one-bit field. -/
def bitCode (b : Bool) : BitVec 1 := BitVec.ofBool b

/-- Codes of the integer conditions (03 Table 3.18). -/
def ICond.code : ICond → BitVec 3
  | .eq => 0 | .ne => 1 | .lt => 2 | .le => 3 | .gt => 4 | .ge => 5 | .tst => 6 | .ntst => 7
/-- The integer condition of a code. -/
def ICond.ofCode (c : BitVec 3) : ICond :=
  match c.toNat with
  | 0 => .eq | 1 => .ne | 2 => .lt | 3 => .le | 4 => .gt | 5 => .ge | 6 => .tst | _ => .ntst
/-- Codes of the float conditions (03 Table 3.18). -/
def FCond.code : FCond → BitVec 3
  | .eq => 0 | .ne => 1 | .lt => 2 | .le => 3 | .gt => 4 | .ge => 5 | .un => 6 | .ord => 7
/-- The float condition of a code. -/
def FCond.ofCode (c : BitVec 3) : FCond :=
  match c.toNat with
  | 0 => .eq | 1 => .ne | 2 => .lt | 3 => .le | 4 => .gt | 5 => .ge | 6 => .un | _ => .ord
/-- Codes of the integer types (03 Table 3.18). -/
def ITy.code : ITy → BitVec 3
  | .i8 => 0 | .i16 => 1 | .i32 => 2 | .i64 => 3 | .n8 => 4 | .n16 => 5 | .n32 => 6 | .n64 => 7
/-- The integer type of a code. -/
def ITy.ofCode (c : BitVec 3) : ITy :=
  match c.toNat with
  | 0 => .i8 | 1 => .i16 | 2 => .i32 | 3 => .i64 | 4 => .n8 | 5 => .n16 | 6 => .n32 | _ => .n64
/-- Codes of the load types (03 R71). -/
def LdTy.code : LdTy → BitVec 3
  | .i8 => 0 | .i16 => 1 | .i32 => 2 | .i64 => 3 | .n8 => 4 | .n16 => 5 | .n32 => 6
/-- The load type of a code: 7 is unassigned (03 R71). -/
def LdTy.ofCode (c : BitVec 3) : Option LdTy :=
  match c.toNat with
  | 0 => some .i8 | 1 => some .i16 | 2 => some .i32 | 3 => some .i64 | 4 => some .n8 | 5 => some .n16
  | 6 => some .n32 | _ => none
/-- Codes of the widths (03 R71, Table 3.24). -/
def Wid.code : Wid → BitVec 2
  | .w8 => 0 | .w16 => 1 | .w32 => 2 | .w64 => 3
/-- The width of a code. -/
def Wid.ofCode (c : BitVec 2) : Wid :=
  match c.toNat with
  | 0 => .w8 | 1 => .w16 | 2 => .w32 | _ => .w64
/-- The width bit of the integer atomics, FN[5] (03 Table 3.23). -/
def AWid.code : AWid → BitVec 1
  | .w32 => 0 | .w64 => 1
/-- The atomic width of its bit. -/
def AWid.ofCode (c : BitVec 1) : AWid := if c = 0#1 then .w32 else .w64
/-- Codes of the vector float formats (03 Table 3.24). -/
def FFmt.code : FFmt → BitVec 2
  | .f64 => 0 | .f32 => 1 | .f16 => 2 | .bf16 => 3
/-- The vector float format of a code. -/
def FFmt.ofCode (c : BitVec 2) : FFmt :=
  match c.toNat with
  | 0 => .f64 | 1 => .f32 | 2 => .f16 | _ => .bf16
/-- The format bit of vscale and vgexp (03 Table 3.26). -/
def FWid.code : FWid → BitVec 1
  | .f64 => 0 | .f32 => 1
/-- The format of its bit. -/
def FWid.ofCode (c : BitVec 1) : FWid := if c = 0#1 then .f64 else .f32
/-- The format bit of the MX forms (03 Table 3.26). -/
def MxFmt.code : MxFmt → BitVec 1
  | .e4m3 => 0 | .e5m2 => 1
/-- The MX format of its bit. -/
def MxFmt.ofCode (c : BitVec 1) : MxFmt := if c = 0#1 then .e4m3 else .e5m2
/-- Codes of the reduction types (03 Table 3.24). -/
def RedTy.code : RedTy → BitVec 4
  | .int t => BitVec.ofNat 4 t.code.toNat
  | .flt f => BitVec.ofNat 4 (8 + f.code.toNat)
/-- The reduction type of a code: 12 to 15 are unassigned. -/
def RedTy.ofCode (c : BitVec 4) : Option RedTy :=
  if c.toNat < 8 then some (.int (ITy.ofCode (BitVec.ofNat 3 c.toNat)))
  else if c.toNat < 12 then some (.flt (FFmt.ofCode (BitVec.ofNat 2 (c.toNat - 8)))) else none
/-- Scope codes (03 Table 3.2). -/
def Scope.code : Scope → BitVec 3
  | .lane => 0 | .core => 1 | .quad => 2 | .die => 3 | .pkg => 4 | .pod => 5 | .sys => 6
/-- The scope of a code: 7 is invalid (03 R57). -/
def Scope.ofCode (c : BitVec 3) : Option Scope :=
  match c.toNat with
  | 0 => some .lane | 1 => some .core | 2 => some .quad | 3 => some .die | 4 => some .pkg | 5 => some .pod
  | 6 => some .sys | _ => none
/-- Rounding-mode codes (02 Table 2.5). -/
def RMode.code : RMode → BitVec 3
  | .rne => 0 | .rtz => 1 | .rup => 2 | .rdn => 3 | .rna => 4
/-- The rounding mode of a code: 5 to 7 are invalid. -/
def RMode.ofCode (c : BitVec 3) : Option RMode :=
  match c.toNat with
  | 0 => some .rne | 1 => some .rtz | 2 => some .rup | 3 => some .rdn | 4 => some .rna | _ => none
/-- Codes of a spar prefix's PAT (03 Table 3.31). -/
def SpPat.code : SpPat → BitVec 2
  | .of4 => 1 | .of2 => 2
/-- The pattern of a PAT code: 0 and 3 are invalid. -/
def SpPat.ofCode (c : BitVec 2) : Option SpPat :=
  match c.toNat with
  | 1 => some .of4 | 2 => some .of2 | _ => none
/-- The BS field (03 Table 3.11). -/
def BSrc.code : BSrc → BitVec 5
  | .tile t => BitVec.ofNat 5 t.toNat
  | .slot n => BitVec.ofNat 5 (16 + n.toNat)
/-- The B operand of a BS field: BS[13] is zero in a tile reference. -/
def BSrc.ofCode (c : BitVec 5) : Option BSrc :=
  if c.toNat < 8 then some (.tile (BitVec.ofNat 3 c.toNat))
  else if c.toNat < 16 then none else some (.slot (BitVec.ofNat 4 (c.toNat - 16)))

/-! ### Layouts (03 Tables 1.7, 3.3 to 3.15) -/

/-- The frame: MAJOR, STALL and bits [23:0] (03 Table 1.7). -/
def pack (major : BitVec 6) (st : Stall) (body : BitVec 24) : InstrWord :=
  BitVec.ofNat 32 (major.toNat * 2 ^ 26 + st.toNat * 2 ^ 24 + body.toNat)
/-- Format A, E, S.F and T.A (03 Tables 3.3, 3.12 to 3.14). -/
def bA (x : BitVec 6) (y : BitVec 6) (z : BitVec 6) (fn : BitVec 6) : BitVec 24 :=
  BitVec.ofNat 24 (x.toNat * 2 ^ 18 + y.toNat * 2 ^ 12 + z.toNat * 2 ^ 6 + fn.toNat)
/-- Layout I.R (03 Table 3.4). -/
def bIR (x : BitVec 6) (y : BitVec 6) (i : BitVec 12) : BitVec 24 :=
  BitVec.ofNat 24 (x.toNat * 2 ^ 18 + y.toNat * 2 ^ 12 + i.toNat)
/-- Layout I.R with IMM12 split as in SHI (03 R67). -/
def bIRk (x : BitVec 6) (y : BitVec 6) (k : BitVec 3) (r : BitVec 3) (n : BitVec 6) : BitVec 24 :=
  BitVec.ofNat 24 (x.toNat * 2 ^ 18 + y.toNat * 2 ^ 12 + k.toNat * 2 ^ 9 + r.toNat * 2 ^ 6 + n.toNat)
/-- Layout I.R with RD split as in CMPI (03 R66). -/
def bIRc (c : BitVec 3) (p : BitVec 3) (y : BitVec 6) (i : BitVec 12) : BitVec 24 :=
  BitVec.ofNat 24 (c.toNat * 2 ^ 21 + p.toNat * 2 ^ 18 + y.toNat * 2 ^ 12 + i.toNat)
/-- Layout I.W (03 Table 3.5) and format H (03 Table 3.15). -/
def bIW (x : BitVec 6) (i : BitVec 18) : BitVec 24 :=
  BitVec.ofNat 24 (x.toNat * 2 ^ 18 + i.toNat)
/-- Layout M (03 Table 3.6). -/
def bM (x : BitVec 6) (y : BitVec 6) (op : BitVec 3) (o : BitVec 9) : BitVec 24 :=
  BitVec.ofNat 24 (x.toNat * 2 ^ 18 + y.toNat * 2 ^ 12 + op.toNat * 2 ^ 9 + o.toNat)
/-- Layouts M.S and M.W, whose last nine bits are two fields (03 Table 3.6). -/
def bMS (x : BitVec 6) (y : BitVec 6) (op : BitVec 3) (a : BitVec 3) (b : BitVec 6) : BitVec 24 :=
  BitVec.ofNat 24 (x.toNat * 2 ^ 18 + y.toNat * 2 ^ 12 + op.toNat * 2 ^ 9 + a.toNat * 2 ^ 6 + b.toNat)
/-- Layout M.W (03 Table 3.6). -/
def bMW (x : BitVec 6) (y : BitVec 6) (op : BitVec 3) (e : BitVec 6) (r : BitVec 3) : BitVec 24 :=
  BitVec.ofNat 24 (x.toNat * 2 ^ 18 + y.toNat * 2 ^ 12 + op.toNat * 2 ^ 9 + e.toNat * 2 ^ 3 + r.toNat)
/-- Layout B.P (03 Table 3.7). -/
def bBP (p : BitVec 3) (sn : BitVec 1) (o : BitVec 20) : BitVec 24 :=
  BitVec.ofNat 24 (p.toNat * 2 ^ 21 + sn.toNat * 2 ^ 20 + o.toNat)
/-- Layout B.S (03 Table 3.8). -/
def bBS (x : BitVec 6) (sn : BitVec 1) (o : BitVec 17) : BitVec 24 :=
  BitVec.ofNat 24 (x.toNat * 2 ^ 18 + sn.toNat * 2 ^ 17 + o.toNat)
/-- Layouts V and V.C (03 Table 3.9). -/
def bV (d : BitVec 5) (a : BitVec 5) (b : BitVec 5) (k : BitVec 3) (fn : BitVec 6) : BitVec 24 :=
  BitVec.ofNat 24 (d.toNat * 2 ^ 19 + a.toNat * 2 ^ 14 + b.toNat * 2 ^ 9 + k.toNat * 2 ^ 6 + fn.toNat)
/-- Layout V.S (03 Table 3.9). -/
def bVS (d : BitVec 5) (a : BitVec 6) (l : BitVec 4) (k : BitVec 3) (fn : BitVec 6) : BitVec 24 :=
  BitVec.ofNat 24 (d.toNat * 2 ^ 19 + a.toNat * 2 ^ 13 + l.toNat * 2 ^ 9 + k.toNat * 2 ^ 6 + fn.toNat)
/-- Layout V.M (03 Table 3.10). -/
def bVM (d : BitVec 5) (a : BitVec 6) (t : BitVec 6) (k : BitVec 3) (o : BitVec 4) : BitVec 24 :=
  BitVec.ofNat 24 (d.toNat * 2 ^ 19 + a.toNat * 2 ^ 13 + t.toNat * 2 ^ 7 + k.toNat * 2 ^ 4 + o.toNat)
/-- Layout T.X (03 Table 3.11). -/
def bTX (n : BitVec 6) (a : BitVec 3) (b : BitVec 5) (za : BitVec 1) (r : BitVec 3) (fn : BitVec 6) : BitVec 24 :=
  BitVec.ofNat 24 (n.toNat * 2 ^ 18 + a.toNat * 2 ^ 15 + b.toNat * 2 ^ 10 + za.toNat * 2 ^ 9 + r.toNat * 2 ^ 6 + fn.toNat)
/-- Layout T.M (03 Table 3.12). -/
def bTM (d : BitVec 3) (t : BitVec 3) (a : BitVec 6) (b : BitVec 6) (fn : BitVec 6) : BitVec 24 :=
  BitVec.ofNat 24 (d.toNat * 2 ^ 21 + t.toNat * 2 ^ 18 + a.toNat * 2 ^ 12 + b.toNat * 2 ^ 6 + fn.toNat)
/-- Layout T.A (03 Table 3.12). -/
def bTA (n : BitVec 6) (x : BitVec 6) (d : BitVec 3) (r : BitVec 3) (fn : BitVec 6) : BitVec 24 :=
  BitVec.ofNat 24 (n.toNat * 2 ^ 18 + x.toNat * 2 ^ 12 + d.toNat * 2 ^ 9 + r.toNat * 2 ^ 6 + fn.toNat)
/-- Layout S.C (03 Table 3.14). -/
def bSC (x : BitVec 6) (c : BitVec 12) (fn : BitVec 6) : BitVec 24 :=
  BitVec.ofNat 24 (x.toNat * 2 ^ 18 + c.toNat * 2 ^ 6 + fn.toNat)
/-- Layout S.F with SFN split as in SYNC (03 R77). -/
def bSY (x : BitVec 6) (y : BitVec 6) (e : BitVec 6) (op : BitVec 3) (c : BitVec 3) : BitVec 24 :=
  BitVec.ofNat 24 (x.toNat * 2 ^ 18 + y.toNat * 2 ^ 12 + e.toNat * 2 ^ 6 + op.toNat * 2 ^ 3 + c.toNat)

/-- The word of an instruction, from the encoding tables of 03. An event has no encoding; it is given the all-zeros
word, which is illegal (03 R63). -/
def encode : Instr → InstrWord
  | .add st d a b => pack 1 st (bA d a b 0)
  | .sub st d a b => pack 1 st (bA d a b 1)
  | .mul st d a b => pack 1 st (bA d a b 2)
  | .mulhI64 st d a b => pack 1 st (bA d a b 3)
  | .mulhN64 st d a b => pack 1 st (bA d a b 4)
  | .divI64 st d a b => pack 1 st (bA d a b 5)
  | .divN64 st d a b => pack 1 st (bA d a b 6)
  | .remI64 st d a b => pack 1 st (bA d a b 7)
  | .remN64 st d a b => pack 1 st (bA d a b 8)
  | .and st d a b => pack 1 st (bA d a b 9)
  | .or st d a b => pack 1 st (bA d a b 10)
  | .xor st d a b => pack 1 st (bA d a b 11)
  | .andn st d a b => pack 1 st (bA d a b 12)
  | .orn st d a b => pack 1 st (bA d a b 13)
  | .xnor st d a b => pack 1 st (bA d a b 14)
  | .sll st d a b => pack 1 st (bA d a b 15)
  | .srl st d a b => pack 1 st (bA d a b 16)
  | .sra st d a b => pack 1 st (bA d a b 17)
  | .rol st d a b => pack 1 st (bA d a b 18)
  | .ror st d a b => pack 1 st (bA d a b 19)
  | .minI64 st d a b => pack 1 st (bA d a b 20)
  | .maxI64 st d a b => pack 1 st (bA d a b 21)
  | .minN64 st d a b => pack 1 st (bA d a b 22)
  | .maxN64 st d a b => pack 1 st (bA d a b 23)
  | .popc st d a => pack 1 st (bA d a 0 24)
  | .clz st d a => pack 1 st (bA d a 0 25)
  | .ctz st d a => pack 1 st (bA d a 0 26)
  | .bextN st d a b => pack 1 st (bA d a b 27)
  | .bextI st d a b => pack 1 st (bA d a b 28)
  | .bins st d a b => pack 1 st (bA d a b 29)
  | .rev8 st d a => pack 1 st (bA d a 0 30)
  | .clmul st d a b => pack 1 st (bA d a b 31)
  | .clmulh st d a b => pack 1 st (bA d a b 32)
  | .sh1add st d a b => pack 1 st (bA d a b 33)
  | .sh2add st d a b => pack 1 st (bA d a b 34)
  | .sh3add st d a b => pack 1 st (bA d a b 35)
  | .sh4add st d a b => pack 1 st (bA d a b 36)
  | .cmp st p a b c t => pack 2 st (bA (prefCode false p) a b (BitVec.ofNat 6 (c.code.toNat * 8 + t.code.toNat)))
  | .cmpi st c p a i => pack 9 st (bIRc c.code p a i)
  | .cmpin st c p a i => pack 10 st (bIRc c.code p a i)
  | .pand st d m a n b => pack 3 st (bA (prefCode false d) (prefCode m a) (prefCode n b) 0)
  | .por st d m a n b => pack 3 st (bA (prefCode false d) (prefCode m a) (prefCode n b) 1)
  | .pxor st d m a n b => pack 3 st (bA (prefCode false d) (prefCode m a) (prefCode n b) 2)
  | .pmov st d m a => pack 3 st (bA (prefCode false d) (prefCode m a) 0 3)
  | .mfpw st d => pack 3 st (bA d 0 0 4)
  | .mtpw st a => pack 3 st (bA 0 a 0 5)
  | .sel st d a b n c => pack 13 st (bA d a b (prefCode n c))
  | .addi st d a i => pack 4 st (bIR d a i)
  | .andi st d a i => pack 5 st (bIR d a i)
  | .ori st d a i => pack 6 st (bIR d a i)
  | .xori st d a i => pack 7 st (bIR d a i)
  | .slli st d a n => pack 8 st (bIRk d a 0 0 n)
  | .srli st d a n => pack 8 st (bIRk d a 1 0 n)
  | .srai st d a n => pack 8 st (bIRk d a 2 0 n)
  | .roli st d a n => pack 8 st (bIRk d a 3 0 n)
  | .rori st d a n => pack 8 st (bIRk d a 4 0 n)
  | .lea st d i => pack 11 st (bIW d i)
  | .movi st d i => pack 12 st (bIW d i)
  | .br st p n o => pack 16 st (bBP p (bitCode n) o)
  | .call st p n o => pack 17 st (bBP p (bitCode n) o)
  | .brnz st r o => pack 18 st (bBS r 0 o)
  | .brz st r o => pack 18 st (bBS r 1 o)
  | .jr st a => pack 19 st (bA 0 a 0 0)
  | .jalr st d a => pack 19 st (bA d a 0 1)
  | .mfcr st x c => pack 20 st (bSC x c 0)
  | .mtcr st x c => pack 20 st (bSC x c 1)
  | .mtcrs st x c => pack 20 st (bSC x c 2)
  | .mtcrc st x c => pack 20 st (bSC x c 3)
  | .ld st d a t o => pack 24 st (bM d a t.code o)
  | .st st d a w o => pack 25 st (bM d a (BitVec.ofNat 3 w.code.toNat) o)
  | .pst st d a w o => pack 29 st (bM d a (BitVec.ofNat 3 w.code.toNat) o)
  | .lda st d a t c => pack 26 st (bMS d a t.code c.code 0)
  | .stl st d a w c => pack 27 st (bMS d a (BitVec.ofNat 3 w.code.toNat) c.code 0)
  | .ldfeTake st d a e => pack 28 st (bMW d a 0 e 0)
  | .ldfePeek st d a e => pack 28 st (bMW d a 1 e 0)
  | .stfeFill st d a e => pack 28 st (bMW d a 2 e 0)
  | .stfeForce st d a => pack 28 st (bMW d a 3 0 0)
  | .feclr st a => pack 28 st (bMW 0 a 4 0 0)
  | .fetst st d a => pack 28 st (bMW d a 5 0 0)
  | .aadd st d a b w => pack 30 st (bA d a b (BitVec.ofNat 6 (w.code.toNat * 32 + 0)))
  | .aand st d a b w => pack 30 st (bA d a b (BitVec.ofNat 6 (w.code.toNat * 32 + 1)))
  | .aor st d a b w => pack 30 st (bA d a b (BitVec.ofNat 6 (w.code.toNat * 32 + 2)))
  | .axor st d a b w => pack 30 st (bA d a b (BitVec.ofNat 6 (w.code.toNat * 32 + 3)))
  | .aminI st d a b w => pack 30 st (bA d a b (BitVec.ofNat 6 (w.code.toNat * 32 + 4)))
  | .amaxI st d a b w => pack 30 st (bA d a b (BitVec.ofNat 6 (w.code.toNat * 32 + 5)))
  | .aminN st d a b w => pack 30 st (bA d a b (BitVec.ofNat 6 (w.code.toNat * 32 + 6)))
  | .amaxN st d a b w => pack 30 st (bA d a b (BitVec.ofNat 6 (w.code.toNat * 32 + 7)))
  | .aswap st d a b w => pack 30 st (bA d a b (BitVec.ofNat 6 (w.code.toNat * 32 + 8)))
  | .acas st d a b w => pack 30 st (bA d a b (BitVec.ofNat 6 (w.code.toNat * 32 + 9)))
  | .saddF64 st d a b => pack 30 st (bA d a b 16)
  | .saddF32 st d a b => pack 30 st (bA d a b 17)
  | .sreadF64 st d a => pack 30 st (bA d a 0 18)
  | .sreadF32 st d a => pack 30 st (bA d a 0 19)
  | .sstore st a b => pack 30 st (bA 0 a b 20)
  | .vaddI st d a b k t => pack 32 st (bV d a b k (BitVec.ofNat 6 (t.code.toNat * 8 + 0)))
  | .vsubI st d a b k t => pack 32 st (bV d a b k (BitVec.ofNat 6 (t.code.toNat * 8 + 1)))
  | .vmulI st d a b k t => pack 32 st (bV d a b k (BitVec.ofNat 6 (t.code.toNat * 8 + 2)))
  | .vmulh st d a b k t => pack 32 st (bV d a b k (BitVec.ofNat 6 (t.code.toNat * 8 + 3)))
  | .vminI st d a b k t => pack 32 st (bV d a b k (BitVec.ofNat 6 (t.code.toNat * 8 + 4)))
  | .vmaxI st d a b k t => pack 32 st (bV d a b k (BitVec.ofNat 6 (t.code.toNat * 8 + 5)))
  | .vadds st d a b k t => pack 32 st (bV d a b k (BitVec.ofNat 6 (t.code.toNat * 8 + 6)))
  | .vsubs st d a b k t => pack 32 st (bV d a b k (BitVec.ofNat 6 (t.code.toNat * 8 + 7)))
  | .vand st d a b k w => pack 33 st (bV d a b k (BitVec.ofNat 6 (w.code.toNat * 16 + 0)))
  | .vor st d a b k w => pack 33 st (bV d a b k (BitVec.ofNat 6 (w.code.toNat * 16 + 1)))
  | .vxor st d a b k w => pack 33 st (bV d a b k (BitVec.ofNat 6 (w.code.toNat * 16 + 2)))
  | .vandn st d a b k w => pack 33 st (bV d a b k (BitVec.ofNat 6 (w.code.toNat * 16 + 3)))
  | .vsll st d a b k w => pack 33 st (bV d a b k (BitVec.ofNat 6 (w.code.toNat * 16 + 4)))
  | .vsrl st d a b k w => pack 33 st (bV d a b k (BitVec.ofNat 6 (w.code.toNat * 16 + 5)))
  | .vsra st d a b k w => pack 33 st (bV d a b k (BitVec.ofNat 6 (w.code.toNat * 16 + 6)))
  | .vrol st d a b k w => pack 33 st (bV d a b k (BitVec.ofNat 6 (w.code.toNat * 16 + 7)))
  | .vror st d a b k w => pack 33 st (bV d a b k (BitVec.ofNat 6 (w.code.toNat * 16 + 8)))
  | .vpopc st d a k w => pack 33 st (bV d a 0 k (BitVec.ofNat 6 (w.code.toNat * 16 + 9)))
  | .vclz st d a k w => pack 33 st (bV d a 0 k (BitVec.ofNat 6 (w.code.toNat * 16 + 10)))
  | .vnegL st d a k w => pack 33 st (bV d a 0 k (BitVec.ofNat 6 (w.code.toNat * 16 + 11)))
  | .vabsL st d a k w => pack 33 st (bV d a 0 k (BitVec.ofNat 6 (w.code.toNat * 16 + 12)))
  | .vaddF st d a b k f => pack 34 st (bV d a b k (BitVec.ofNat 6 (f.code.toNat * 16 + 0)))
  | .vsubF st d a b k f => pack 34 st (bV d a b k (BitVec.ofNat 6 (f.code.toNat * 16 + 1)))
  | .vmulF st d a b k f => pack 34 st (bV d a b k (BitVec.ofNat 6 (f.code.toNat * 16 + 2)))
  | .vfma st d a b k f => pack 34 st (bV d a b k (BitVec.ofNat 6 (f.code.toNat * 16 + 3)))
  | .vfms st d a b k f => pack 34 st (bV d a b k (BitVec.ofNat 6 (f.code.toNat * 16 + 4)))
  | .vfnma st d a b k f => pack 34 st (bV d a b k (BitVec.ofNat 6 (f.code.toNat * 16 + 5)))
  | .vminF st d a b k f => pack 34 st (bV d a b k (BitVec.ofNat 6 (f.code.toNat * 16 + 6)))
  | .vmaxF st d a b k f => pack 34 st (bV d a b k (BitVec.ofNat 6 (f.code.toNat * 16 + 7)))
  | .vabsF st d a k f => pack 34 st (bV d a 0 k (BitVec.ofNat 6 (f.code.toNat * 16 + 8)))
  | .vnegF st d a k f => pack 34 st (bV d a 0 k (BitVec.ofNat 6 (f.code.toNat * 16 + 9)))
  | .vdiv st d a b k f => pack 34 st (bV d a b k (BitVec.ofNat 6 (f.code.toNat * 16 + 10)))
  | .vsqrt st d a k f => pack 34 st (bV d a 0 k (BitVec.ofNat 6 (f.code.toNat * 16 + 11)))
  | .vcmpInt st d a b k t c => pack 35 st (bV (kfCode d) a b k (BitVec.ofNat 6 (t.code.toNat * 8 + c.code.toNat)))
  | .vcmpFloat st d a b k f c => pack 36 st (bV (kfCode d) a b k (BitVec.ofNat 6 (f.code.toNat * 16 + c.code.toNat)))
  | .vmov st d a => pack 37 st (bV d a 0 0 0)
  | .vperm32 st d a b => pack 37 st (bV d a b 0 1)
  | .vperm64 st d a b => pack 37 st (bV d a b 0 2)
  | .vsel st d a b k => pack 37 st (bV d a b k 3)
  | .kand st d a b => pack 37 st (bV (kfCode d) (kfCode a) (kfCode b) 0 8)
  | .kor st d a b => pack 37 st (bV (kfCode d) (kfCode a) (kfCode b) 0 9)
  | .kxor st d a b => pack 37 st (bV (kfCode d) (kfCode a) (kfCode b) 0 10)
  | .knot st d a => pack 37 st (bV (kfCode d) (kfCode a) 0 0 11)
  | .kmov st d a => pack 37 st (bV (kfCode d) (kfCode a) 0 0 12)
  | .vclmulLo32 st d a b k => pack 37 st (bV d a b k 16)
  | .vclmulHi32 st d a b k => pack 37 st (bV d a b k 17)
  | .vclmulLo64 st d a b k => pack 37 st (bV d a b k 18)
  | .vclmulHi64 st d a b k => pack 37 st (bV d a b k 19)
  | .vradd st d a k t => pack 38 st (bV d a 0 k (BitVec.ofNat 6 (t.code.toNat * 4 + 0)))
  | .vrmin st d a k t => pack 38 st (bV d a 0 k (BitVec.ofNat 6 (t.code.toNat * 4 + 1)))
  | .vrmax st d a k t => pack 38 st (bV d a 0 k (BitVec.ofNat 6 (t.code.toNat * 4 + 2)))
  | .vbcast32 st d a k => pack 39 st (bVS d a 0 k 0)
  | .vbcast64 st d a k => pack 39 st (bVS d a 0 k 1)
  | .vins32 st d a l => pack 39 st (bVS d a l 0 2)
  | .vins64 st d a l => pack 39 st (bVS d a (BitVec.ofNat 4 l.toNat) 0 3)
  | .vext32 st d a l => pack 39 st (bVS d a l 0 4)
  | .vext64 st d a l => pack 39 st (bVS d a (BitVec.ofNat 4 l.toNat) 0 5)
  | .vcvt st d a t k f => pack 40 st (bV d a (BitVec.ofNat 5 (t.toNat * 16)) k f)
  | .vscale st d a b k f => pack 41 st (bV d a b k (BitVec.ofNat 6 f.code.toNat))
  | .vgexp st d a k f => pack 41 st (bV d a 0 k (BitVec.ofNat 6 (2 + f.code.toNat)))
  | .vmxsc st d a b k f => pack 41 st (bV d a b k (BitVec.ofNat 6 (4 + f.code.toNat)))
  | .vmxq st d a b k f => pack 41 st (bV d a b k (BitVec.ofNat 6 (6 + f.code.toNat)))
  | .vmxdq st d a b k f => pack 41 st (bV d a b k (BitVec.ofNat 6 (8 + f.code.toNat)))
  | .vld st d a t k o => pack 42 st (bVM d a t k o)
  | .vst st d a k o => pack 43 st (bVM d a 0 k o)
  | .tld st d a b => pack 44 st (bTM d 0 a b 0)
  | .tst st d a b => pack 44 st (bTM d 0 a b 1)
  | .tzero st d => pack 44 st (bTM d 0 0 0 2)
  | .tmov st d a => pack 44 st (bTM d a 0 0 3)
  | .tshape st d a => pack 44 st (bTM d 0 a 0 4)
  | .tgshape st d a => pack 44 st (bTM d 0 a 0 5)
  | .mmaF64 st n a b z => pack 45 st (bTX n a b.code (bitCode z) 0 0)
  | .mmaF32 st n a b z => pack 45 st (bTX n a b.code (bitCode z) 0 1)
  | .mmaBf16 st n a b z => pack 45 st (bTX n a b.code (bitCode z) 0 2)
  | .mmaF16 st n a b z => pack 45 st (bTX n a b.code (bitCode z) 0 3)
  | .mmaB8 st n a b z => pack 45 st (bTX n a b.code (bitCode z) 0 4)
  | .mmaMxe4m3 st n a b z => pack 45 st (bTX n a b.code (bitCode z) 0 5)
  | .mmaMxe5m2 st n a b z => pack 45 st (bTX n a b.code (bitCode z) 0 6)
  | .rmmaI8 st n a b z => pack 45 st (bTX n a b.code (bitCode z) 0 8)
  | .rmmaI16 st n a b z => pack 45 st (bTX n a b.code (bitCode z) 0 9)
  | .acqa st x => pack 46 st (bTA 0 x 0 0 0)
  | .rela st x => pack 46 st (bTA 0 x 0 0 1)
  | .ardt st n d => pack 46 st (bTA n 0 d 0 2)
  | .azero st n => pack 46 st (bTA n 0 0 0 3)
  | .rfwd st n d => pack 47 st (bTA n 0 d 0 0)
  | .rrevI64 st n d => pack 47 st (bTA n 0 d 0 1)
  | .rrevI32 st n d => pack 47 st (bTA n 0 d 0 2)
  | .rchk st n x => pack 47 st (bTA n x 0 0 3)
  | .rodrd st x => pack 47 st (bTA 0 x 0 0 4)
  | .roddeg st x => pack 47 st (bTA 0 x 0 0 5)
  | .spawn st x y => pack 48 st (bA x y 0 0)
  | .exit st => pack 48 st (bA 0 0 0 1)
  | .launch st x y => pack 48 st (bA x y 0 2)
  | .migr st x y => pack 48 st (bA x y 0 3)
  | .waitq st x e => pack 48 st (bA x 0 e 4)
  | .tgstart st y => pack 48 st (bA 0 y 0 5)
  | .tgclk st x => pack 48 st (bA x 0 0 6)
  | .bar st e c => pack 49 st (bSY 0 0 e 0 c.code)
  | .fence st c => pack 49 st (bSY 0 0 0 1 c.code)
  | .bara st c => pack 49 st (bSY 0 0 0 2 c.code)
  | .barw st e c => pack 49 st (bSY 0 0 e 3 c.code)
  | .qput st x y e c => pack 49 st (bSY x y e 4 c.code)
  | .qget st x y e c => pack 49 st (bSY x y e 5 c.code)
  | .rten st => pack 21 st (bA 0 0 0 0)
  | .tret st => pack 21 st (bA 0 0 0 1)
  | .hsave st y => pack 21 st (bA 0 y 0 2)
  | .hrest st y => pack 21 st (bA 0 y 0 3)
  | .csave st y => pack 21 st (bA 0 y 0 4)
  | .crest st y => pack 21 st (bA 0 y 0 5)
  | .pcommit st y => pack 21 st (bA 0 y 0 6)
  | .pfree st y => pack 21 st (bA 0 y 0 7)
  | .palloc st x y => pack 21 st (bA x y 0 8)
  | .swtrap st y => pack 21 st (bA 0 y 0 9)
  | .lrd st d a => pack 50 st (bA d a 0 0)
  | .lrdp st d a => pack 50 st (bA d (prefCode false a) 0 1)
  | .lrdv st d a => pack 50 st (bA d (BitVec.ofNat 6 a.toNat) 0 2)
  | .lrdk st d a => pack 50 st (bA d (BitVec.ofNat 6 a.toNat) 0 3)
  | .lrdt st d a => pack 50 st (bA d (BitVec.ofNat 6 a.toNat) 0 4)
  | .lrdb st d a => pack 50 st (bA d a 0 5)
  | .lrdg st d a => pack 50 st (bA d a 0 6)
  | .ljoin st a => pack 50 st (bA 0 a 0 7)
  | .gset st d a => pack 50 st (bA d a 0 8)
  | .rel st d a b => pack 50 st (bA d a b 9)
  | .btour st x y z => pack 52 st (bA x y z 0)
  | .bwait st x e => pack 52 st (bA x 0 e 1)
  | .bpass st x => pack 52 st (bA x 0 0 2)
  | .btag st x y => pack 52 st (bA x y 0 3)
  | .copy st x y z => pack 52 st (bA x y z 4)
  | .mcast st x y z => pack 52 st (bA x y z 5)
  | .join st x e => pack 52 st (bA x 0 e 6)
  | .poll st x y => pack 52 st (bA x y 0 7)
  | .bbset st x y => pack 52 st (bA x y 0 8)
  | .bbwait st x e => pack 52 st (bA x 0 e 9)
  | .nop st => pack 63 st (bIW 0 0)
  | .sig st g => pack 63 st (bIW 1 (BitVec.ofNat 18 g.toNat))
  | .schedTrip st n => pack 63 st (bIW 2 (BitVec.ofNat 18 n.toNat))
  | .schedBias st b => pack 63 st (bIW 2 (BitVec.ofNat 18 (65536 + b.toNat)))
  | .limm l => pack 63 0 (BitVec.ofNat 24 (4 * 262144 + l.toNat))
  | .rnd m => pack 63 0 (bIW 8 (BitVec.ofNat 18 m.code.toNat))
  | .sround => pack 63 0 (bIW 9 0)
  | .spar t p => pack 63 0 (bIW 10 (BitVec.ofNat 18 (t.toNat * 4 + p.code.toNat)))
  | .itinOpts n => pack 63 0 (bIW 11 (BitVec.ofNat 18 n.toNat))
  | .reservedHint st k p => pack 63 st (bIW (BitVec.ofNat 6 (48 + k.toNat)) p)
  | .resultWrite .. | .divideResult .. | .vectorDivideResult .. | .parkWake .. | .waitExpired ..
  | .takePendingEvent .. | .deliver .. | .combine .. | .perform .. | .withdrawal .. | .complete .. | .fork ..
  | .engineStep .. | .engineStartOffset .. | .finish .. | .ship .. | .migrantResident .. | .matrixCommandStart ..
  | .matrixCommandComplete .. | .freeze .. | .pauseNotice .. | .pauseResume .. | .timingLag ..
  | .timedGroupStart .. | .tgstartBoundExpiry .. | .groupDeal .. | .launchAging .. | .launchCompletion ..
  | .barrierComplete .. | .beadArrival .. | .beadLanded .. | .holdExpiry .. | .beadDeparture ..
  | .followOnEntry .. | .copyFollowOn .. | .copySlotFill .. | .pfreeAppend .. | .cswCtlReq .. | .preemptTimeout ..
  | .drainLimit .. | .switchedOut .. | .cswCtlRes .. | .uncorrectableError .. | .scrubEnd .. | .hang ..
  | .intReq .. | .intReqArrival .. | .vfRun .. | .vfDeschedule .. | .vfPause .. | .vfReset .. | .mbox ..
  | .inboundRead .. | .inboundWrite .. | .budgetEpoch .. | .linkNarrow .. | .linkWiden .. | .quartzSlew ..
  | .checkpoint .. | .powerGood .. | .startTimerExpiry .. | .discoveryFlit .. | .discoveryTimeout .. | .bootOk ..
  | .cfgReq .. | .coreKill .. | .coreSvc .. | .rodFailSet .. | .principalRegister .. | .principalDeregister ..
  | .scopeSet .. | .xlatInvPage .. | .xlatInvAll .. | .xlatInvStage2 .. | .depVal .. | .registerWrite ..
  | .supplyDroop .. | .powerThrottle .. | .hbmScrub .. | .illegalOp .. | .fetchFault .. | .powerLoss ..
  | .sagEnd .. | .backUnderCap .. | .checkpointRestore .. => 0#32

/-! ### The decoder -/

/-- What the decoder answers: an instruction, or the reason of 03 R87 for which the word is illegal. -/
abbrev Decoded := Except IllReason Instr

/-- Continue when a condition of the encoding holds; otherwise the word is illegal for the reason given. -/
def need (c : Bool) (r : IllReason) (k : Decoded) : Decoded := if c then k else .error r

/-- Field of bits [lo + n - 1 : lo] of bits [23:0]. -/
abbrev fld (b : BitVec 24) (lo n : Nat) : BitVec n := b.extractLsb' lo n

/-- The predicate number of a predicate reference. -/
def prefNum (f : BitVec 6) : PReg := f.extractLsb' 0 3
/-- SN of a predicate reference. -/
def prefNeg (f : BitVec 6) : Bool := f.extractLsb' 3 1 == 1#1
/-- Bits [5:4] of a predicate reference are zero (04 R103). -/
def prefOk (f : BitVec 6) : Bool := f.extractLsb' 4 2 == 0#2
/-- Bits [4:3] of a lane mask in a 5-bit field are zero (06 R162). -/
def kfOk (f : BitVec 5) : Bool := f.extractLsb' 3 2 == 0#2
/-- The mask number of a 5-bit field. -/
def kfNum (f : BitVec 5) : KReg := f.extractLsb' 0 3

/-- INT, major 0x01 (03 Table 3.17). -/
def decInt (st : Stall) (x : BitVec 24) : Decoded :=
  let d := fld x 18 6; let a := fld x 12 6; let b := fld x 6 6
  match (fld x 0 6).toNat with
  | 0 => .ok (.add st d a b) | 1 => .ok (.sub st d a b) | 2 => .ok (.mul st d a b)
  | 3 => .ok (.mulhI64 st d a b) | 4 => .ok (.mulhN64 st d a b) | 5 => .ok (.divI64 st d a b)
  | 6 => .ok (.divN64 st d a b) | 7 => .ok (.remI64 st d a b) | 8 => .ok (.remN64 st d a b)
  | 9 => .ok (.and st d a b) | 10 => .ok (.or st d a b) | 11 => .ok (.xor st d a b)
  | 12 => .ok (.andn st d a b) | 13 => .ok (.orn st d a b) | 14 => .ok (.xnor st d a b)
  | 15 => .ok (.sll st d a b) | 16 => .ok (.srl st d a b) | 17 => .ok (.sra st d a b)
  | 18 => .ok (.rol st d a b) | 19 => .ok (.ror st d a b) | 20 => .ok (.minI64 st d a b)
  | 21 => .ok (.maxI64 st d a b) | 22 => .ok (.minN64 st d a b) | 23 => .ok (.maxN64 st d a b)
  | 24 => need (b == 0#6) .rsv (.ok (.popc st d a)) | 25 => need (b == 0#6) .rsv (.ok (.clz st d a))
  | 26 => need (b == 0#6) .rsv (.ok (.ctz st d a)) | 27 => .ok (.bextN st d a b) | 28 => .ok (.bextI st d a b)
  | 29 => .ok (.bins st d a b) | 30 => need (b == 0#6) .rsv (.ok (.rev8 st d a)) | 31 => .ok (.clmul st d a b)
  | 32 => .ok (.clmulh st d a b) | 33 => .ok (.sh1add st d a b) | 34 => .ok (.sh2add st d a b)
  | 35 => .ok (.sh3add st d a b) | 36 => .ok (.sh4add st d a b)
  | _ => .error .func

/-- CMP, major 0x02 (03 R65). -/
def decCmp (st : Stall) (x : BitVec 24) : Decoded :=
  let p := fld x 18 6
  need (prefOk p) .rsv (need (!prefNeg p) .value
    (.ok (.cmp st (prefNum p) (fld x 12 6) (fld x 6 6) (ICond.ofCode (fld x 3 3)) (ITy.ofCode (fld x 0 3)))))

/-- PRD, major 0x03 (03 Table 3.19). -/
def decPrd (st : Stall) (x : BitVec 24) : Decoded :=
  let d := fld x 18 6; let a := fld x 12 6; let b := fld x 6 6
  let three (k : Decoded) : Decoded :=
    need (prefOk d && prefOk a && prefOk b) .rsv (need (!prefNeg d) .value k)
  match (fld x 0 6).toNat with
  | 0 => three (.ok (.pand st (prefNum d) (prefNeg a) (prefNum a) (prefNeg b) (prefNum b)))
  | 1 => three (.ok (.por st (prefNum d) (prefNeg a) (prefNum a) (prefNeg b) (prefNum b)))
  | 2 => three (.ok (.pxor st (prefNum d) (prefNeg a) (prefNum a) (prefNeg b) (prefNum b)))
  | 3 => need (prefOk d && prefOk a && b == 0#6) .rsv (need (!prefNeg d) .value
      (.ok (.pmov st (prefNum d) (prefNeg a) (prefNum a))))
  | 4 => need (a == 0#6 && b == 0#6) .rsv (.ok (.mfpw st d))
  | 5 => need (d == 0#6 && b == 0#6) .rsv (.ok (.mtpw st a))
  | _ => .error .func

/-- SEL, major 0x0D (03 Table 3.19). -/
def decSel (st : Stall) (x : BitVec 24) : Decoded :=
  let c := fld x 0 6
  need (prefOk c) .rsv (.ok (.sel st (fld x 18 6) (fld x 12 6) (fld x 6 6) (prefNeg c) (prefNum c)))

/-- SHI, major 0x08 (03 R67). -/
def decShi (st : Stall) (x : BitVec 24) : Decoded :=
  let d := fld x 18 6; let a := fld x 12 6; let n := fld x 0 6; let z := fld x 6 3 == 0#3
  match (fld x 9 3).toNat with
  | 0 => need z .rsv (.ok (.slli st d a n)) | 1 => need z .rsv (.ok (.srli st d a n))
  | 2 => need z .rsv (.ok (.srai st d a n)) | 3 => need z .rsv (.ok (.roli st d a n))
  | 4 => need z .rsv (.ok (.rori st d a n))
  | _ => .error .func

/-- JMP, major 0x13 (03 R69). -/
def decJmp (st : Stall) (x : BitVec 24) : Decoded :=
  let d := fld x 18 6; let a := fld x 12 6; let b := fld x 6 6
  match (fld x 0 6).toNat with
  | 0 => need (d == 0#6 && b == 0#6) .rsv (.ok (.jr st a))
  | 1 => need (b == 0#6) .rsv (.ok (.jalr st d a))
  | _ => .error .func

/-- CRM, major 0x14 (03 R70). -/
def decCrm (st : Stall) (x : BitVec 24) : Decoded :=
  let r := fld x 18 6; let c := fld x 6 12
  match (fld x 0 6).toNat with
  | 0 => need (crnAssigned c) .crn (.ok (.mfcr st r c)) | 1 => need (crnAssigned c) .crn (.ok (.mtcr st r c))
  | 2 => need (crnAssigned c) .crn (.ok (.mtcrs st r c)) | 3 => need (crnAssigned c) .crn (.ok (.mtcrc st r c))
  | _ => .error .func

/-- SYS, major 0x15 (03 Table 3.29). -/
def decSys (st : Stall) (x : BitVec 24) : Decoded :=
  let r := fld x 18 6; let y := fld x 12 6; let e := fld x 6 6
  let one (k : Decoded) : Decoded := need (r == 0#6 && e == 0#6) .rsv k
  match (fld x 0 6).toNat with
  | 0 => need (r == 0#6 && y == 0#6 && e == 0#6) .rsv (.ok (.rten st))
  | 1 => need (r == 0#6 && y == 0#6 && e == 0#6) .rsv (.ok (.tret st))
  | 2 => one (.ok (.hsave st y)) | 3 => one (.ok (.hrest st y)) | 4 => one (.ok (.csave st y))
  | 5 => one (.ok (.crest st y)) | 6 => one (.ok (.pcommit st y)) | 7 => one (.ok (.pfree st y))
  | 8 => need (e == 0#6) .rsv (.ok (.palloc st r y)) | 9 => one (.ok (.swtrap st y))
  | _ => .error .func

/-- LD, major 0x18 (03 R71). -/
def decLd (st : Stall) (x : BitVec 24) : Decoded :=
  match LdTy.ofCode (fld x 9 3) with
  | some t => .ok (.ld st (fld x 18 6) (fld x 12 6) t (fld x 0 9))
  | none => .error .func

/-- ST and PST, majors 0x19 and 0x1D (03 R71). -/
def decSt (posted : Bool) (st : Stall) (x : BitVec 24) : Decoded :=
  let w := Wid.ofCode (fld x 9 2)
  need (fld x 11 1 == 0#1) .func
    (.ok (if posted then .pst st (fld x 18 6) (fld x 12 6) w (fld x 0 9)
      else .st st (fld x 18 6) (fld x 12 6) w (fld x 0 9)))

/-- LDA, major 0x1A (03 R71). -/
def decLda (st : Stall) (x : BitVec 24) : Decoded :=
  match LdTy.ofCode (fld x 9 3) with
  | none => .error .func
  | some t =>
    need (fld x 0 6 == 0#6) .rsv
      (match Scope.ofCode (fld x 6 3) with
       | some c => need (scopeFence c) .value (.ok (.lda st (fld x 18 6) (fld x 12 6) t c))
       | none => .error .value)

/-- STL, major 0x1B (03 R71). -/
def decStl (st : Stall) (x : BitVec 24) : Decoded :=
  need (fld x 11 1 == 0#1) .func (need (fld x 0 6 == 0#6) .rsv
    (match Scope.ofCode (fld x 6 3) with
     | some c => need (scopeFence c) .value (.ok (.stl st (fld x 18 6) (fld x 12 6) (Wid.ofCode (fld x 9 2)) c))
     | none => .error .value))

/-- FE, major 0x1C (03 Table 3.22). -/
def decFe (st : Stall) (x : BitVec 24) : Decoded :=
  let d := fld x 18 6; let a := fld x 12 6; let e := fld x 3 6; let z := fld x 0 3 == 0#3
  match (fld x 9 3).toNat with
  | 0 => need z .rsv (.ok (.ldfeTake st d a e)) | 1 => need z .rsv (.ok (.ldfePeek st d a e))
  | 2 => need z .rsv (.ok (.stfeFill st d a e)) | 3 => need (z && e == 0#6) .rsv (.ok (.stfeForce st d a))
  | 4 => need (z && e == 0#6 && d == 0#6) .rsv (.ok (.feclr st a))
  | 5 => need (z && e == 0#6) .rsv (.ok (.fetst st d a))
  | _ => .error .func

/-- ATOM, major 0x1E (03 Table 3.23). -/
def decAtom (st : Stall) (x : BitVec 24) : Decoded :=
  let d := fld x 18 6; let a := fld x 12 6; let b := fld x 6 6; let w := AWid.ofCode (fld x 5 1)
  match (fld x 0 6).toNat with
  | 0 | 32 => .ok (.aadd st d a b w) | 1 | 33 => .ok (.aand st d a b w) | 2 | 34 => .ok (.aor st d a b w)
  | 3 | 35 => .ok (.axor st d a b w) | 4 | 36 => .ok (.aminI st d a b w) | 5 | 37 => .ok (.amaxI st d a b w)
  | 6 | 38 => .ok (.aminN st d a b w) | 7 | 39 => .ok (.amaxN st d a b w) | 8 | 40 => .ok (.aswap st d a b w)
  | 9 | 41 => .ok (.acas st d a b w)
  | 16 => .ok (.saddF64 st d a b) | 17 => .ok (.saddF32 st d a b)
  | 18 => need (b == 0#6) .rsv (.ok (.sreadF64 st d a)) | 19 => need (b == 0#6) .rsv (.ok (.sreadF32 st d a))
  | 20 => need (d == 0#6) .rsv (need (decide (b.toNat ≤ 60)) .value (.ok (.sstore st a b)))
  | _ => .error .func

/-- VI, major 0x20 (03 Table 3.24). -/
def decVi (st : Stall) (x : BitVec 24) : Decoded :=
  let d := fld x 19 5; let a := fld x 14 5; let b := fld x 9 5; let k := fld x 6 3; let t := ITy.ofCode (fld x 3 3)
  match (fld x 0 3).toNat with
  | 0 => .ok (.vaddI st d a b k t) | 1 => .ok (.vsubI st d a b k t) | 2 => .ok (.vmulI st d a b k t)
  | 3 => .ok (.vmulh st d a b k t) | 4 => .ok (.vminI st d a b k t) | 5 => .ok (.vmaxI st d a b k t)
  | 6 => .ok (.vadds st d a b k t) | _ => .ok (.vsubs st d a b k t)

/-- VL, major 0x21 (03 Table 3.24). -/
def decVl (st : Stall) (x : BitVec 24) : Decoded :=
  let d := fld x 19 5; let a := fld x 14 5; let b := fld x 9 5; let k := fld x 6 3; let w := Wid.ofCode (fld x 4 2)
  match (fld x 0 4).toNat with
  | 0 => .ok (.vand st d a b k w) | 1 => .ok (.vor st d a b k w) | 2 => .ok (.vxor st d a b k w)
  | 3 => .ok (.vandn st d a b k w) | 4 => .ok (.vsll st d a b k w) | 5 => .ok (.vsrl st d a b k w)
  | 6 => .ok (.vsra st d a b k w) | 7 => .ok (.vrol st d a b k w) | 8 => .ok (.vror st d a b k w)
  | 9 => need (b == 0#5) .rsv (.ok (.vpopc st d a k w)) | 10 => need (b == 0#5) .rsv (.ok (.vclz st d a k w))
  | 11 => need (b == 0#5) .rsv (.ok (.vnegL st d a k w)) | 12 => need (b == 0#5) .rsv (.ok (.vabsL st d a k w))
  | _ => .error .func

/-- VF, major 0x22 (03 Table 3.24). -/
def decVf (st : Stall) (x : BitVec 24) : Decoded :=
  let d := fld x 19 5; let a := fld x 14 5; let b := fld x 9 5; let k := fld x 6 3; let f := FFmt.ofCode (fld x 4 2)
  match (fld x 0 4).toNat with
  | 0 => .ok (.vaddF st d a b k f) | 1 => .ok (.vsubF st d a b k f) | 2 => .ok (.vmulF st d a b k f)
  | 3 => .ok (.vfma st d a b k f) | 4 => .ok (.vfms st d a b k f) | 5 => .ok (.vfnma st d a b k f)
  | 6 => .ok (.vminF st d a b k f) | 7 => .ok (.vmaxF st d a b k f)
  | 8 => need (b == 0#5) .rsv (.ok (.vabsF st d a k f)) | 9 => need (b == 0#5) .rsv (.ok (.vnegF st d a k f))
  | 10 => .ok (.vdiv st d a b k f) | 11 => need (b == 0#5) .rsv (.ok (.vsqrt st d a k f))
  | _ => .error .func

/-- VCMPI, major 0x23 (03 Table 3.24). -/
def decVcmpi (st : Stall) (x : BitVec 24) : Decoded :=
  let d := fld x 19 5
  need (kfOk d) .rsv (.ok (.vcmpInt st (kfNum d) (fld x 14 5) (fld x 9 5) (fld x 6 3) (ITy.ofCode (fld x 3 3))
    (ICond.ofCode (fld x 0 3))))

/-- VCMPF, major 0x24 (03 Table 3.24). -/
def decVcmpf (st : Stall) (x : BitVec 24) : Decoded :=
  let d := fld x 19 5
  need (kfOk d && fld x 3 1 == 0#1) .rsv (.ok (.vcmpFloat st (kfNum d) (fld x 14 5) (fld x 9 5) (fld x 6 3)
    (FFmt.ofCode (fld x 4 2)) (FCond.ofCode (fld x 0 3))))

/-- VX, major 0x25 (03 Table 3.25). -/
def decVx (st : Stall) (x : BitVec 24) : Decoded :=
  let d := fld x 19 5; let a := fld x 14 5; let b := fld x 9 5; let k := fld x 6 3
  let three (i : Instr) : Decoded := need (kfOk d && kfOk a && kfOk b && k == 0#3) .rsv (.ok i)
  let two (i : Instr) : Decoded := need (kfOk d && kfOk a && b == 0#5 && k == 0#3) .rsv (.ok i)
  match (fld x 0 6).toNat with
  | 0 => need (b == 0#5 && k == 0#3) .rsv (.ok (.vmov st d a))
  | 1 => need (k == 0#3) .rsv (.ok (.vperm32 st d a b)) | 2 => need (k == 0#3) .rsv (.ok (.vperm64 st d a b))
  | 3 => .ok (.vsel st d a b k)
  | 8 => three (.kand st (kfNum d) (kfNum a) (kfNum b)) | 9 => three (.kor st (kfNum d) (kfNum a) (kfNum b))
  | 10 => three (.kxor st (kfNum d) (kfNum a) (kfNum b))
  | 11 => two (.knot st (kfNum d) (kfNum a)) | 12 => two (.kmov st (kfNum d) (kfNum a))
  | 16 => .ok (.vclmulLo32 st d a b k) | 17 => .ok (.vclmulHi32 st d a b k) | 18 => .ok (.vclmulLo64 st d a b k)
  | 19 => .ok (.vclmulHi64 st d a b k)
  | _ => .error .func

/-- VRED, major 0x26 (03 Table 3.24). -/
def decVred (st : Stall) (x : BitVec 24) : Decoded :=
  let d := fld x 19 5; let a := fld x 14 5; let k := fld x 6 3; let z := fld x 9 5 == 0#5
  match RedTy.ofCode (fld x 2 4), (fld x 0 2).toNat with
  | some t, 0 => need z .rsv (.ok (.vradd st d a k t))
  | some t, 1 => need z .rsv (.ok (.vrmin st d a k t))
  | some t, 2 => need z .rsv (.ok (.vrmax st d a k t))
  | _, _ => .error .func

/-- VSM, major 0x27 (03 Table 3.26). -/
def decVsm (st : Stall) (x : BitVec 24) : Decoded :=
  let d := fld x 19 5; let a := fld x 13 6; let l := fld x 9 4; let k := fld x 6 3
  match (fld x 0 6).toNat with
  | 0 => need (l == 0#4) .rsv (.ok (.vbcast32 st d a k)) | 1 => need (l == 0#4) .rsv (.ok (.vbcast64 st d a k))
  | 2 => need (k == 0#3) .rsv (.ok (.vins32 st d a l))
  | 3 => need (k == 0#3 && fld x 12 1 == 0#1) .rsv (.ok (.vins64 st d a (fld x 9 3)))
  | 4 => need (k == 0#3) .rsv (.ok (.vext32 st d a l))
  | 5 => need (k == 0#3 && fld x 12 1 == 0#1) .rsv (.ok (.vext64 st d a (fld x 9 3)))
  | _ => .error .func

/-- VCVT, major 0x28 (03 Table 3.26, 06 R165). -/
def decVcvt (st : Stall) (x : BitVec 24) : Decoded :=
  let f := fld x 0 6
  need (fld x 9 4 == 0#4) .rsv (need (tagAssigned f && f != 0#6) .value
    (.ok (.vcvt st (fld x 19 5) (fld x 14 5) (fld x 13 1 == 1#1) (fld x 6 3) f)))

/-- VSCL, major 0x29 (03 Table 3.26). -/
def decVscl (st : Stall) (x : BitVec 24) : Decoded :=
  let d := fld x 19 5; let a := fld x 14 5; let b := fld x 9 5; let k := fld x 6 3
  let f := FWid.ofCode (fld x 0 1); let m := MxFmt.ofCode (fld x 0 1)
  match (fld x 0 6).toNat with
  | 0 | 1 => .ok (.vscale st d a b k f)
  | 2 | 3 => need (b == 0#5) .rsv (.ok (.vgexp st d a k f))
  | 4 | 5 => .ok (.vmxsc st d a b k m) | 6 | 7 => .ok (.vmxq st d a b k m) | 8 | 9 => .ok (.vmxdq st d a b k m)
  | _ => .error .func

/-- VLD and VST, majors 0x2A and 0x2B (03 Table 3.26). -/
def decVmem (store : Bool) (st : Stall) (x : BitVec 24) : Decoded :=
  let d := fld x 19 5; let a := fld x 13 6; let t := fld x 7 6; let k := fld x 4 3; let o := fld x 0 4
  if store then need (t == 0#6) .rsv (.ok (.vst st d a k o))
  else need (tagAssigned t) .value (.ok (.vld st d a t k o))

/-- TMEM, major 0x2C (03 Table 3.27). -/
def decTmem (st : Stall) (x : BitVec 24) : Decoded :=
  let d := fld x 21 3; let t := fld x 18 3; let a := fld x 12 6; let b := fld x 6 6
  match (fld x 0 6).toNat with
  | 0 => need (t == 0#3) .rsv (.ok (.tld st d a b)) | 1 => need (t == 0#3) .rsv (.ok (.tst st d a b))
  | 2 => need (t == 0#3 && a == 0#6 && b == 0#6) .rsv (.ok (.tzero st d))
  | 3 => need (a == 0#6 && b == 0#6) .rsv (.ok (.tmov st d t))
  | 4 => need (t == 0#3 && b == 0#6) .rsv (.ok (.tshape st d a))
  | 5 => need (t == 0#3 && b == 0#6) .rsv (.ok (.tgshape st d a))
  | _ => .error .func

/-- MMA, major 0x2D (03 Table 3.27). A nonzero T.X [8:6] has reason 2 (14 R321); the register clash of an MX form has
reason 4 (14 R335). -/
def decMma (st : Stall) (x : BitVec 24) : Decoded :=
  let n := fld x 18 6; let a := fld x 15 3; let z := fld x 9 1 == 1#1
  let form (mk : BSrc → Instr) (mx : Bool) : Decoded :=
    need (fld x 6 3 == 0#3) .func
      (match BSrc.ofCode (fld x 10 5) with
       | none => .error .rsv
       | some b => need (!mx || mxClash a b) .value (.ok (mk b)))
  match (fld x 0 6).toNat with
  | 0 => form (fun b => .mmaF64 st n a b z) false | 1 => form (fun b => .mmaF32 st n a b z) false
  | 2 => form (fun b => .mmaBf16 st n a b z) false | 3 => form (fun b => .mmaF16 st n a b z) false
  | 4 => form (fun b => .mmaB8 st n a b z) false | 5 => form (fun b => .mmaMxe4m3 st n a b z) true
  | 6 => form (fun b => .mmaMxe5m2 st n a b z) true | 8 => form (fun b => .rmmaI8 st n a b z) false
  | 9 => form (fun b => .rmmaI16 st n a b z) false
  | _ => .error .func

/-- ACC, major 0x2E (03 Table 3.27). -/
def decAcc (st : Stall) (x : BitVec 24) : Decoded :=
  let n := fld x 18 6; let r := fld x 12 6; let d := fld x 9 3; let z := fld x 6 3 == 0#3
  match (fld x 0 6).toNat with
  | 0 => need (n == 0#6 && d == 0#3 && z) .rsv (.ok (.acqa st r))
  | 1 => need (n == 0#6 && d == 0#3 && z) .rsv (.ok (.rela st r))
  | 2 => need (r == 0#6 && z) .rsv (.ok (.ardt st n d))
  | 3 => need (r == 0#6 && d == 0#3 && z) .rsv (.ok (.azero st n))
  | _ => .error .func

/-- RNS, major 0x2F (03 Table 3.27). -/
def decRns (st : Stall) (x : BitVec 24) : Decoded :=
  let n := fld x 18 6; let r := fld x 12 6; let d := fld x 9 3; let z := fld x 6 3 == 0#3
  match (fld x 0 6).toNat with
  | 0 => need (r == 0#6 && z) .rsv (.ok (.rfwd st n d)) | 1 => need (r == 0#6 && z) .rsv (.ok (.rrevI64 st n d))
  | 2 => need (r == 0#6 && z) .rsv (.ok (.rrevI32 st n d)) | 3 => need (d == 0#3 && z) .rsv (.ok (.rchk st n r))
  | 4 => need (n == 0#6 && d == 0#3 && z) .rsv (.ok (.rodrd st r))
  | 5 => need (n == 0#6 && d == 0#3 && z) .rsv (.ok (.roddeg st r))
  | _ => .error .func

/-- THR, major 0x30 (03 Table 3.29). -/
def decThr (st : Stall) (x : BitVec 24) : Decoded :=
  let r := fld x 18 6; let y := fld x 12 6; let e := fld x 6 6
  match (fld x 0 6).toNat with
  | 0 => need (e == 0#6) .rsv (need (y != 63#6) .value (.ok (.spawn st r y)))
  | 1 => need (r == 0#6 && y == 0#6 && e == 0#6) .rsv (.ok (.exit st))
  | 2 => need (e == 0#6) .rsv (.ok (.launch st r y)) | 3 => need (e == 0#6) .rsv (.ok (.migr st r y))
  | 4 => need (y == 0#6) .rsv (.ok (.waitq st r e)) | 5 => need (r == 0#6 && e == 0#6) .rsv (.ok (.tgstart st y))
  | 6 => need (y == 0#6 && e == 0#6) .rsv (.ok (.tgclk st r))
  | _ => .error .func

/-- SYNC, major 0x31 (03 Table 3.29). -/
def decSync (st : Stall) (x : BitVec 24) : Decoded :=
  let r := fld x 18 6; let y := fld x 12 6; let e := fld x 6 6
  let withScope (ok : Scope → Bool) (mk : Scope → Instr) : Decoded :=
    match Scope.ofCode (fld x 0 3) with
    | some c => need (ok c) .value (.ok (mk c))
    | none => .error .value
  match (fld x 3 3).toNat with
  | 0 => need (r == 0#6 && y == 0#6) .rsv (withScope scopeBar (fun c => .bar st e c))
  | 1 => need (r == 0#6 && y == 0#6 && e == 0#6) .rsv (withScope scopeFence (fun c => .fence st c))
  | 2 => need (r == 0#6 && y == 0#6 && e == 0#6) .rsv (withScope scopeBar (fun c => .bara st c))
  | 3 => need (r == 0#6 && y == 0#6) .rsv (withScope scopeBar (fun c => .barw st e c))
  | 4 => withScope scopeFence (fun c => .qput st r y e c)
  | 5 => withScope scopeFence (fun c => .qget st r y e c)
  | _ => .error .func

/-- LBL, major 0x32 (03 Table 3.30). -/
def decLbl (st : Stall) (x : BitVec 24) : Decoded :=
  let d := fld x 18 6; let a := fld x 12 6; let b := fld x 6 6
  match (fld x 0 6).toNat with
  | 0 => need (b == 0#6) .rsv (.ok (.lrd st d a))
  | 1 => need (prefOk a && b == 0#6) .rsv (need (!prefNeg a) .value (.ok (.lrdp st d (prefNum a))))
  | 2 => need (fld x 17 1 == 0#1 && b == 0#6) .rsv (.ok (.lrdv st d (fld x 12 5)))
  | 3 => need (fld x 15 3 == 0#3 && b == 0#6) .rsv (.ok (.lrdk st d (fld x 12 3)))
  | 4 => need (fld x 15 3 == 0#3 && b == 0#6) .rsv (.ok (.lrdt st d (fld x 12 3)))
  | 5 => need (b == 0#6) .rsv (.ok (.lrdb st d a)) | 6 => need (b == 0#6) .rsv (.ok (.lrdg st d a))
  | 7 => need (d == 0#6 && b == 0#6) .rsv (.ok (.ljoin st a)) | 8 => need (b == 0#6) .rsv (.ok (.gset st d a))
  | 9 => .ok (.rel st d a b)
  | _ => .error .func

/-- ENG, major 0x34 (03 Table 3.28). -/
def decEng (st : Stall) (x : BitVec 24) : Decoded :=
  let r := fld x 18 6; let y := fld x 12 6; let z := fld x 6 6
  match (fld x 0 6).toNat with
  | 0 => .ok (.btour st r y z) | 1 => need (y == 0#6) .rsv (.ok (.bwait st r z))
  | 2 => need (y == 0#6 && z == 0#6) .rsv (.ok (.bpass st r)) | 3 => need (z == 0#6) .rsv (.ok (.btag st r y))
  | 4 => .ok (.copy st r y z) | 5 => .ok (.mcast st r y z) | 6 => need (y == 0#6) .rsv (.ok (.join st r z))
  | 7 => need (z == 0#6) .rsv (.ok (.poll st r y)) | 8 => need (z == 0#6) .rsv (.ok (.bbset st r y))
  | 9 => need (y == 0#6) .rsv (.ok (.bbwait st r z))
  | _ => .error .func

/-- HINT, major 0x3F (03 Table 3.31). A prefix must carry STALL = 0 (03 R81, reason 5, checked after the others). -/
def decHint (st : Stall) (x : BitVec 24) : Decoded :=
  let p := fld x 0 18; let z := st == 0#2
  match (fld x 18 6).toNat with
  | 0 => need (p == 0#18) .rsv (.ok (.nop st))
  | 1 => need (fld x 16 2 == 0#2) .rsv (.ok (.sig st (fld x 0 16)))
  | 2 => match (fld x 16 2).toNat with
    | 0 => .ok (.schedTrip st (fld x 0 16))
    | 1 => need (fld x 1 15 == 0#15) .rsv (.ok (.schedBias st (fld x 0 1 == 1#1)))
    | _ => .error .value
  | 4 | 5 | 6 | 7 => need z .chain (.ok (.limm (fld x 0 20)))
  | 8 => need (fld x 3 15 == 0#15) .rsv
      (match RMode.ofCode (fld x 0 3) with
       | some m => need z .chain (.ok (.rnd m))
       | none => .error .value)
  | 9 => need (p == 0#18) .rsv (need z .chain (.ok .sround))
  | 10 => need (fld x 5 13 == 0#13) .rsv
      (match SpPat.ofCode (fld x 0 2) with
       | some q => need z .chain (.ok (.spar (fld x 2 3) q))
       | none => .error .value)
  | 11 => need (fld x 1 17 == 0#17) .rsv (need z .chain (.ok (.itinOpts (fld x 0 1 == 1#1))))
  | n => if n < 48 then .error .func else .ok (.reservedHint st (fld x 18 4) p)

/-- The decoder: the instruction of a word, or the reason for which R87 calls it illegal (03 Table 3.16). -/
def decode (w : InstrWord) : Decoded :=
  let st : Stall := w.extractLsb' 24 2; let x : BitVec 24 := w.extractLsb' 0 24
  match (w.extractLsb' 26 6).toNat with
  | 1 => decInt st x | 2 => decCmp st x | 3 => decPrd st x
  | 4 => .ok (.addi st (fld x 18 6) (fld x 12 6) (fld x 0 12))
  | 5 => .ok (.andi st (fld x 18 6) (fld x 12 6) (fld x 0 12))
  | 6 => .ok (.ori st (fld x 18 6) (fld x 12 6) (fld x 0 12))
  | 7 => .ok (.xori st (fld x 18 6) (fld x 12 6) (fld x 0 12))
  | 8 => decShi st x
  | 9 => .ok (.cmpi st (ICond.ofCode (fld x 21 3)) (fld x 18 3) (fld x 12 6) (fld x 0 12))
  | 10 => .ok (.cmpin st (ICond.ofCode (fld x 21 3)) (fld x 18 3) (fld x 12 6) (fld x 0 12))
  | 11 => .ok (.lea st (fld x 18 6) (fld x 0 18)) | 12 => .ok (.movi st (fld x 18 6) (fld x 0 18))
  | 13 => decSel st x
  | 16 => .ok (.br st (fld x 21 3) (fld x 20 1 == 1#1) (fld x 0 20))
  | 17 => .ok (.call st (fld x 21 3) (fld x 20 1 == 1#1) (fld x 0 20))
  | 18 => .ok (if fld x 17 1 == 0#1 then .brnz st (fld x 18 6) (fld x 0 17) else .brz st (fld x 18 6) (fld x 0 17))
  | 19 => decJmp st x | 20 => decCrm st x | 21 => decSys st x
  | 24 => decLd st x | 25 => decSt false st x | 26 => decLda st x | 27 => decStl st x | 28 => decFe st x
  | 29 => decSt true st x | 30 => decAtom st x
  | 32 => decVi st x | 33 => decVl st x | 34 => decVf st x | 35 => decVcmpi st x | 36 => decVcmpf st x
  | 37 => decVx st x | 38 => decVred st x | 39 => decVsm st x | 40 => decVcvt st x | 41 => decVscl st x
  | 42 => decVmem false st x | 43 => decVmem true st x | 44 => decTmem st x | 45 => decMma st x
  | 46 => decAcc st x | 47 => decRns st x | 48 => decThr st x | 49 => decSync st x | 50 => decLbl st x
  | 52 => decEng st x | 63 => decHint st x
  | _ => .error .major

/-- The instruction of a word when the decoder accepts it. -/
def decode? (w : InstrWord) : Option Instr :=
  match decode w with
  | .ok i => some i
  | .error _ => none

/-- The four bytes of a word as they stand in memory, the lowest address first (03 R54). -/
def wordBytes (w : InstrWord) : List Byte :=
  [w.extractLsb' 0 8, w.extractLsb' 8 8, w.extractLsb' 16 8, w.extractLsb' 24 8]

/-- The word of four bytes, the lowest address first (03 R54). -/
def bytesWord : List Byte → InstrWord
  | [a, b, c, d] => BitVec.ofNat 32 (a.toNat + b.toNat * 2 ^ 8 + c.toNat * 2 ^ 16 + d.toNat * 2 ^ 24)
  | _ => 0#32

/-- The instruction the decoder reads from an instruction whose bits are `w`, numbered as the opcode table numbers
them; every bit from `nbits` up is zero. -/
def decodeTableWord (nbits w : Nat) : Option Instr :=
  decode? (bytesWord (wordBytes (BitVec.ofNat 32 (w % 2 ^ nbits))))

end Sys2Proof
end

