-- ==== Sys2Proof/Machine/Operands.lean ====
section
/-! DEFINITION. What a word says about its operands before it runs: the registers it reads and writes (02 R47, R49), the
prefixes it accepts (03 Table 3.32), the immediates a limm prefix widens (03 R82), and the codes of causes and scopes. -/

namespace Sys2Proof.Machine

/-! ### Registers named -/

/-- The predicates p1 to p7 (04 R104). -/
def predWord : List Dest := [.p 1, .p 2, .p 3, .p 4, .p 5, .p 6, .p 7]

/-- What migr copies (09 R222). -/
def migCopy : List Dest := predWord ++ (numsFrom 1 24).map fun n => Dest.s (BitVec.ofNat 6 n)

/-- A tile shape register counts with its tile (02 R39; DEDUCED, log 20). -/
def crTouch (c : BitVec 12) : List Dest :=
  if c.toNat / 8 = 2 then [.t (BitVec.ofNat 3 c.toNat)] else []

/-- The tiles a matrix word reads; `mx` adds the scale registers (14 R337). -/
def mmaReads (mx : Bool) (a : TReg) (b : BSrc) : List Dest :=
  [.t a] ++ (if mx then [.t (a ^^^ 4)] else []) ++
  match b with
  | .tile t => [.t t] ++ if mx then [.t (t ^^^ 4)] else []
  | .slot _ => []

/-- The banks of an accumulator of `k` banks (14 R324). -/
def banksOf (n : Bank) (k : Nat) : List Dest :=
  ((numsFrom n.toNat k).filter (· < 64)).map fun b => Dest.bank (BitVec.ofNat 6 b)

/-- The registers a word reads and the registers it writes. -/
def touch : Instr → List Dest × List Dest
  | .add _ d a b | .sub _ d a b | .mul _ d a b | .mulhI64 _ d a b | .mulhN64 _ d a b | .divI64 _ d a b
  | .divN64 _ d a b | .remI64 _ d a b | .remN64 _ d a b | .and _ d a b | .or _ d a b | .xor _ d a b
  | .andn _ d a b | .orn _ d a b | .xnor _ d a b | .sll _ d a b | .srl _ d a b | .sra _ d a b | .rol _ d a b
  | .ror _ d a b | .minI64 _ d a b | .maxI64 _ d a b | .minN64 _ d a b | .maxN64 _ d a b | .bextN _ d a b
  | .bextI _ d a b | .clmul _ d a b | .clmulh _ d a b | .sh1add _ d a b | .sh2add _ d a b | .sh3add _ d a b
  | .sh4add _ d a b | .aadd _ d a b _ | .aand _ d a b _ | .aor _ d a b _ | .axor _ d a b _ | .aminI _ d a b _
  | .amaxI _ d a b _ | .aminN _ d a b _ | .amaxN _ d a b _ | .aswap _ d a b _ | .saddF64 _ d a b
  | .saddF32 _ d a b | .rel _ d a b => ([.s a, .s b], [.s d])
  | .popc _ d a | .clz _ d a | .ctz _ d a | .rev8 _ d a | .addi _ d a _ | .andi _ d a _ | .ori _ d a _
  | .xori _ d a _ | .slli _ d a _ | .srli _ d a _ | .srai _ d a _ | .roli _ d a _ | .rori _ d a _
  | .jalr _ d a | .ld _ d a _ _ | .lda _ d a _ _ | .ldfeTake _ d a _ | .ldfePeek _ d a _ | .fetst _ d a
  | .sreadF64 _ d a | .sreadF32 _ d a | .lrd _ d a | .lrdb _ d a | .lrdg _ d a | .gset _ d a => ([.s a], [.s d])
  | .bins _ d a b | .acas _ d a b _ => ([.s a, .s b, .s d], [.s d])
  | .cmp _ p a b _ _ => ([.s a, .s b], [.p p])
  | .cmpi _ _ p a _ | .cmpin _ _ p a _ => ([.s a], [.p p])
  | .pand _ d _ a _ b | .por _ d _ a _ b | .pxor _ d _ a _ b => ([.p a, .p b], [.p d])
  | .pmov _ d _ a => ([.p a], [.p d])
  | .mfpw _ d => (predWord, [.s d])
  | .mtpw _ a => ([.s a], predWord)
  | .sel _ d a b _ c => ([.s a, .s b, .p c], [.s d])
  | .lea _ d _ | .movi _ d _ => ([], [.s d])
  | .br _ p _ _ | .call _ p _ _ => ([.p p], [])
  | .brnz _ r _ | .brz _ r _ => ([.s r], [])
  | .jr _ a | .feclr _ a | .ljoin _ a => ([.s a], [])
  | .mfcr _ x c => (crTouch c, [.s x])
  | .mtcr _ x c | .mtcrs _ x c | .mtcrc _ x c => ([.s x], crTouch c)
  | .st _ d a _ _ | .pst _ d a _ _ | .stl _ d a _ _ | .stfeFill _ d a _ | .stfeForce _ d a => ([.s d, .s a], [])
  | .sstore _ a b => ([.s a, .s b, .s (b + 1), .s (b + 2), .s (b + 3)], [])
  | .vaddI _ d a b k _ | .vsubI _ d a b k _ | .vmulI _ d a b k _ | .vmulh _ d a b k _ | .vminI _ d a b k _
  | .vmaxI _ d a b k _ | .vadds _ d a b k _ | .vsubs _ d a b k _ | .vand _ d a b k _ | .vor _ d a b k _
  | .vxor _ d a b k _ | .vandn _ d a b k _ | .vsll _ d a b k _ | .vsrl _ d a b k _ | .vsra _ d a b k _
  | .vrol _ d a b k _ | .vror _ d a b k _ | .vaddF _ d a b k _ | .vsubF _ d a b k _ | .vmulF _ d a b k _
  | .vminF _ d a b k _ | .vmaxF _ d a b k _ | .vdiv _ d a b k _ | .vsel _ d a b k | .vclmulLo32 _ d a b k
  | .vclmulHi32 _ d a b k | .vclmulLo64 _ d a b k | .vclmulHi64 _ d a b k | .vscale _ d a b k _
  | .vmxsc _ d a b k _ | .vmxq _ d a b k _ | .vmxdq _ d a b k _ => ([.v a, .v b, .k k], [.v d])
  | .vpopc _ d a k _ | .vclz _ d a k _ | .vnegL _ d a k _ | .vabsL _ d a k _ | .vabsF _ d a k _
  | .vnegF _ d a k _ | .vsqrt _ d a k _ | .vradd _ d a k _ | .vrmin _ d a k _ | .vrmax _ d a k _
  | .vcvt _ d a _ k _ | .vgexp _ d a k _ => ([.v a, .k k], [.v d])
  | .vfma _ d a b k _ | .vfms _ d a b k _ | .vfnma _ d a b k _ => ([.v a, .v b, .v d, .k k], [.v d])
  | .vcmpInt _ d a b k _ _ | .vcmpFloat _ d a b k _ _ => ([.v a, .v b, .k k], [.k d])
  | .vmov _ d a => ([.v a], [.v d])
  | .vperm32 _ d a b | .vperm64 _ d a b => ([.v a, .v b], [.v d])
  | .kand _ d a b | .kor _ d a b | .kxor _ d a b => ([.k a, .k b], [.k d])
  | .knot _ d a | .kmov _ d a => ([.k a], [.k d])
  | .vbcast32 _ d a k | .vbcast64 _ d a k | .vld _ d a _ k _ => ([.s a, .k k], [.v d])
  | .vins32 _ d a _ | .vins64 _ d a _ => ([.s a, .v d], [.v d])
  | .vext32 _ d a _ | .vext64 _ d a _ => ([.v d], [.s a])
  | .vst _ d a k _ => ([.s a, .v d, .k k], [])
  | .tld _ d a b => ([.s a, .s b], [.t d])
  | .tst _ d a b => ([.s a, .s b, .t d], [])
  | .tzero _ d => ([], [.t d])
  | .tmov _ d a => ([.t a], [.t d])
  | .tshape _ d a => ([.s a], [.t d])
  | .tgshape _ d a => ([.t d], [.s a])
  | .mmaF64 _ n a b _ => (mmaReads false a b, banksOf n 1)
  | .mmaF32 _ n a b _ => (mmaReads false a b, banksOf n 1)
  | .mmaBf16 _ n a b _ => (mmaReads false a b, banksOf n 2)
  | .mmaF16 _ n a b _ => (mmaReads false a b, banksOf n 2)
  | .mmaB8 _ n a b _ => (mmaReads false a b, banksOf n 2)
  | .mmaMxe4m3 _ n a b _ => (mmaReads true a b, banksOf n 2)
  | .mmaMxe5m2 _ n a b _ => (mmaReads true a b, banksOf n 2)
  | .rmmaI8 _ n a b _ => (mmaReads false a b, banksOf n 6)
  | .rmmaI16 _ n a b _ => (mmaReads false a b, banksOf n 6)
  | .acqa _ x | .join _ x _ => ([.s x], [.s x])
  | .rela _ x | .roddeg _ x | .waitq _ x _ | .bwait _ x _ | .bpass _ x | .bbwait _ x _ => ([.s x], [])
  | .ardt _ n d => ([.bank n], [.t d])
  | .rrevI64 _ n d | .rrevI32 _ n d => (banksOf n 6, [.t d])
  | .azero _ n => ([], [.bank n])
  | .rfwd _ n d => ([.t d], banksOf n 6)
  | .rchk _ n x => (banksOf n 6, [.s x])
  | .rodrd _ x | .tgclk _ x => ([], [.s x])
  | .spawn _ x y => ([.s x, .s y, .s (y + 1)], [.s x])
  | .launch _ x y | .qget _ x y _ _ | .palloc _ x y | .poll _ x y => ([.s y], [.s x])
  | .migr _ x y => ([.s y] ++ migCopy, [.s x])
  | .tgstart _ y | .hsave _ y | .hrest _ y | .csave _ y | .crest _ y | .pcommit _ y | .pfree _ y
  | .swtrap _ y => ([.s y], [])
  | .qput _ x y _ _ | .btag _ x y | .bbset _ x y => ([.s x, .s y], [])
  | .lrdp _ d a => ([.p a], [.s d])
  | .lrdv _ d a => ([.v a], [.s d])
  | .lrdk _ d a => ([.k a], [.s d])
  | .lrdt _ d a => ([.t a], [.s d])
  | .btour _ x y z | .copy _ x y z | .mcast _ x y z => ([.s x, .s y, .s z], [])
  | .exit _ | .bar _ _ _ | .fence _ _ | .bara _ _ | .barw _ _ _ | .rten _ | .tret _ | .nop _ | .sig _ _
  | .schedTrip _ _ | .schedBias _ _ | .limm _ | .rnd _ | .sround | .spar _ _ | .itinOpts _
  | .reservedHint _ _ _ => ([], [])
  | .resultWrite _ | .divideResult _ | .vectorDivideResult _ | .parkWake _ | .waitExpired _
  | .takePendingEvent _ | .deliver _ _ _ | .combine _ _ _ | .perform _ | .withdrawal _ | .complete _
  | .fork _ | .engineStep _ | .engineStartOffset _ | .finish _ | .ship _ | .migrantResident _ _
  | .matrixCommandStart _ | .matrixCommandComplete _ | .freeze _ _ _ | .pauseNotice _ | .pauseResume _
  | .timingLag _ _ | .timedGroupStart _ | .tgstartBoundExpiry _ | .groupDeal _ _ | .launchAging _
  | .launchCompletion _ | .barrierComplete _ | .beadArrival _ | .beadLanded _ | .holdExpiry _
  | .beadDeparture _ _ _ | .followOnEntry _ | .copyFollowOn _ | .copySlotFill _ | .pfreeAppend _
  | .cswCtlReq _ _ | .preemptTimeout _ _ | .drainLimit _ _ | .switchedOut _ _ | .cswCtlRes _ _
  | .uncorrectableError _ | .scrubEnd _ | .hang _ _ | .intReq _ _ _ | .intReqArrival _ | .vfRun _
  | .vfDeschedule _ | .vfPause _ | .vfReset _ | .mbox _ _ | .inboundRead _ _ _ _ | .inboundWrite _ _ _ _
  | .budgetEpoch _ | .linkNarrow _ | .linkWiden _ | .quartzSlew _ | .checkpoint | .powerGood _
  | .startTimerExpiry | .discoveryFlit _ _ _ | .discoveryTimeout | .bootOk | .cfgReq _ _ _ | .coreKill _ _
  | .coreSvc _ | .rodFailSet _ _ | .principalRegister _ | .principalDeregister _ | .scopeSet _ _
  | .xlatInvPage _ _ | .xlatInvAll _ | .xlatInvStage2 _ _ | .depVal _ | .registerWrite _ _ _ _ | .supplyDroop
  | .powerThrottle | .hbmScrub _ _ _ | .illegalOp _ _ | .fetchFault | .powerLoss | .sagEnd | .backUnderCap
  | .checkpointRestore => ([], [])

/-- A register of Table 2.2 (02 R38). -/
def isVecDest : Dest → Bool
  | .v _ | .k _ | .t _ | .bank _ => true
  | .none | .s _ | .p _ => false

/-- A word that names state of Table 2.2 (02 R38, 06 R149, 14 R321). -/
def namesVec (i : Instr) : Bool :=
  (touch i).1.any isVecDest || (touch i).2.any isVecDest ||
  match i with
  | .acqa _ _ | .rela _ _ | .spar _ _ => true
  | .mfcr _ _ c | .mtcr _ _ c | .mtcrs _ _ c | .mtcrc _ _ c => decide (c = 0x018)
  | _ => false

/-- An engine word that a migrant may not issue (15 R380). -/
def engineOnly : Instr → Bool
  | .btour _ _ _ _ | .bwait _ _ _ | .bpass _ _ | .btag _ _ _ | .copy _ _ _ _ | .mcast _ _ _ _ | .bbset _ _ _
  | .bbwait _ _ _ => true
  | _ => false

/-- UNIT.ABSENT of step 7 (03 R87). -/
def absentFor (k : Kind) (i : Instr) : Bool :=
  match k with
  | .compute => false
  | .control => namesVec i
  | .migrant => namesVec i || engineOnly i

/-- The lowest of s25 to s62 that a word names (08 R205). -/
def migReg (i : Instr) : Option Nat :=
  let l := ((touch i).1 ++ (touch i).2).filterMap fun d =>
    match d with
    | .s r => if 25 ≤ r.toNat ∧ r.toNat ≤ 62 then some r.toNat else none
    | _ => none
  match l with
  | [] => none
  | x :: l => some (l.foldl min x)

/-- The register class and number of Table 2.9. -/
def destCode : Dest → Nat × Nat
  | .none => (0, 0)
  | .s r => (0, r.toNat)
  | .p n => (1, n.toNat)
  | .v r => (2, r.toNat)
  | .k n => (3, n.toNat)
  | .t n => (4, n.toNat)
  | .bank b => (5, b.toNat)

/-- The stall count of a word (03 R53). -/
def stallOf (i : Instr) : Nat := (encode i).toNat / 2 ^ 24 % 4

/-! ### Prefixes -/

/-- A word of the limm row of Table 3.32. -/
def takesLimm : Instr → Bool
  | .addi _ _ _ _ | .andi _ _ _ _ | .ori _ _ _ _ | .xori _ _ _ _ | .cmpi _ _ _ _ _ | .cmpin _ _ _ _ _ | .lea _ _ _
  | .movi _ _ _ | .ld _ _ _ _ _ | .st _ _ _ _ _ | .pst _ _ _ _ _ | .br _ _ _ _ | .call _ _ _ _ | .brnz _ _ _
  | .brz _ _ _ | .vld _ _ _ _ _ _ | .vst _ _ _ _ _ => true
  | _ => false

/-- A word of the rnd and sround row of Table 3.32. -/
def takesRnd : Instr → Bool
  | .vaddF _ _ _ _ _ _ | .vsubF _ _ _ _ _ _ | .vmulF _ _ _ _ _ _ | .vfma _ _ _ _ _ _ | .vfms _ _ _ _ _ _
  | .vfnma _ _ _ _ _ _ | .vminF _ _ _ _ _ _ | .vmaxF _ _ _ _ _ _ | .vabsF _ _ _ _ _ | .vnegF _ _ _ _ _
  | .vdiv _ _ _ _ _ _ | .vsqrt _ _ _ _ _ | .vcvt _ _ _ _ _ _ | .vscale _ _ _ _ _ _ | .vgexp _ _ _ _ _
  | .vmxsc _ _ _ _ _ _ | .vmxq _ _ _ _ _ _ | .vmxdq _ _ _ _ _ _
  | .mmaF64 _ _ _ _ _ | .mmaF32 _ _ _ _ _ | .mmaBf16 _ _ _ _ _ | .mmaF16 _ _ _ _ _ | .mmaB8 _ _ _ _ _
  | .mmaMxe4m3 _ _ _ _ _ | .mmaMxe5m2 _ _ _ _ _ | .ardt _ _ _ => true
  | .vradd _ _ _ _ (.flt _) | .vrmin _ _ _ _ (.flt _) | .vrmax _ _ _ _ (.flt _) => true
  | _ => false

/-- A word of the spar row of Table 3.32. -/
def takesSpar : Instr → Bool
  | .mmaBf16 _ _ _ _ _ | .mmaF16 _ _ _ _ _ | .mmaB8 _ _ _ _ _ | .mmaMxe4m3 _ _ _ _ _ | .mmaMxe5m2 _ _ _ _ _ => true
  | _ => false

/-- A word of the itin row of Table 3.32. -/
def takesItin : Instr → Bool
  | .btour _ _ _ _ => true
  | _ => false

/-- A prefix hint (03 Table 3.31). -/
def isPrefix : Instr → Bool
  | .limm _ | .rnd _ | .sround | .spar _ _ | .itinOpts _ => true
  | _ => false

/-- A matrix command (14 R330). -/
def isCommand : Instr → Bool
  | .mmaF64 _ _ _ _ _ | .mmaF32 _ _ _ _ _ | .mmaBf16 _ _ _ _ _ | .mmaF16 _ _ _ _ _ | .mmaB8 _ _ _ _ _
  | .mmaMxe4m3 _ _ _ _ _ | .mmaMxe5m2 _ _ _ _ _ | .rmmaI8 _ _ _ _ _ | .rmmaI16 _ _ _ _ _ => true
  | _ => false

/-- A control-transfer word (20 R423). -/
def isTransfer : Instr → Bool
  | .br _ _ _ _ | .call _ _ _ _ | .brnz _ _ _ | .brz _ _ _ | .jr _ _ | .jalr _ _ _ => true
  | _ => false

/-- Whether a word that is not a prefix may follow the chain (03 R81). -/
def chainOk (c : Option Chain) (i : Instr) : Bool :=
  match c with
  | none => true
  | some c =>
    (c.limm.isNone || takesLimm i) && (c.rnd.isNone || takesRnd i) && (!c.sround || takesRnd i) &&
    (c.spar.isNone || takesSpar i) && (c.itin.isNone || takesItin i)

/-- The chain after one more prefix; none when the prefix may not stand there (03 R81). -/
def chainAdd (c : Chain) : Instr → Option Chain
  | .limm l => if c.limm.isSome then none else some { c with limm := some l }
  | .rnd m => if c.rnd.isSome || c.sround then none else some { c with rnd := some m }
  | .sround => if c.rnd.isSome || c.sround then none else some { c with sround := true }
  | .spar t p => if c.spar.isSome then none else some { c with spar := some (t, p) }
  | .itinOpts n => if c.itin.isSome then none else some { c with itin := some n }
  | _ => none

/-- The limm field of a chain. -/
def limmOf (c : Option Chain) : Option (BitVec 20) := c.bind (·.limm)

/-- A signed immediate, widened by a limm prefix (03 R82). -/
def immS (c : Option Chain) {w : Nat} (i : BitVec w) : Int :=
  match limmOf c with
  | some h => (h ++ i).toInt
  | none => i.toInt

/-- A zero-extended immediate, widened by a limm prefix (03 R82). -/
def immZ (c : Option Chain) {w : Nat} (i : BitVec w) : Nat :=
  match limmOf c with
  | some h => (h ++ i).toNat
  | none => i.toNat

/-! ### Codes -/

/-- The cause codes (20 Table 20.1). -/
def causeCode : Cause → BitVec 16
  | .illegalOp => 0x0001 | .unitAbsent => 0x0002 | .stallShort => 0x0003 | .crValue => 0x0004 | .jumpTarget => 0x0005
  | .privOp => 0x0006 | .migReg => 0x0007 | .swTrap => 0x0008 | .scopeCap => 0x0009
  | .fmtTag => 0x0101 | .fmtShape => 0x0102 | .fmtAcc => 0x0103 | .fmtSparse => 0x0104 | .fpExc => 0x0105
  | .accBank => 0x0106 | .accHeld => 0x0107
  | .memCanon => 0x0201 | .pageMiss => 0x0202 | .pageFormat => 0x0203 | .pagePerm => 0x0204 | .memWorld => 0x0205
  | .pageUncommit => 0x0206 | .memAlign => 0x0207 | .memPa => 0x0208 | .memPart => 0x0209 | .memResv => 0x020A
  | .feSpace => 0x020B | .memSumcell => 0x020C | .memWidth => 0x020D | .atomSpace => 0x020E | .labelStore => 0x020F
  | .memPoison => 0x0210 | .pstRefused => 0x0211 | .poolArg => 0x0212 | .partOut => 0x0213
  | .thrCtx => 0x0301 | .barOrder => 0x0302 | .queueDesc => 0x0303 | .tgArg => 0x0304 | .waitExpired => 0x0305
  | .timingLag => 0x0306
  | .unitDown => 0x0401 | .rnsOvf => 0x0402 | .rodLocated => 0x0403 | .rodUnstable => 0x0404
  | .engArg => 0x0501 | .engHandle => 0x0502 | .engBusy => 0x0503 | .schedTag => 0x0504 | .schedEmpty => 0x0505
  | .schedMissed => 0x0506 | .schedPass => 0x0507 | .tourDrain => 0x0508 | .engOrphan => 0x0509
  | .sigMismatch => 0x0601 | .preempt => 0x0602 | .resume => 0x0603 | .killNote => 0x0604 | .hang => 0x0605

/-- Scope codes (03 Table 3.2). -/
def scopeCode : Scope → Nat
  | .lane => 0 | .core => 1 | .quad => 2 | .die => 3 | .pkg => 4 | .pod => 5 | .sys => 6

/-- Reason codes of ILLEGAL.OP (03 R87). -/
def reasonCode : IllReason → Nat
  | .major => 1 | .func => 2 | .rsv => 3 | .value => 4 | .chain => 5 | .crn => 6

/-- Rounding mode codes (02 Table 2.5). -/
def rmCode : RMode → Nat
  | .rne => 0 | .rtz => 1 | .rup => 2 | .rdn => 3 | .rna => 4

/-- The rounding mode of FPC.RM. A write of codes 5 to 7 takes CR.VALUE (02 R42); a restored context may hold one, and then rounds to
nearest even (DESIGN CHOICE, log 79). -/
def rmOf (n : Nat) : RMode :=
  match n with
  | 1 => .rtz
  | 2 => .rup
  | 3 => .rdn
  | 4 => .rna
  | _ => .rne

/-- Kind codes of a context record (20 Table 20.4). -/
def kindCode : Kind → Nat
  | .control => 0 | .compute => 1 | .migrant => 2

/-- The length in cycles of a wait limit; none when unbounded (03 R58). -/
def limitOf (e : BitVec 6) : Option Nat := if e = 63 then none else some (2 ^ e.toNat)

end Sys2Proof.Machine
end

