-- ==== Sys2Proof/Machine/Flags.lean ====
section
/-! DEFINITION. FPC: its fields, how a word posts flags and the label that goes with them (02 Table 2.5, 04 R118, 05 R139,
R142), and how a word rounds. -/

namespace Sys2Proof.Machine

/-! ### FPC (02 Table 2.5) -/

/-- Bits [lo + w − 1 : lo] of FPC. -/
def Thread.fpcField (th : Thread) (lo w : Nat) : Nat := fieldAt th.fpc.toNat lo w
/-- The rounding mode. -/
def Thread.rm (th : Thread) : RMode := rmOf (th.fpcField 0 3)
/-- Trap enables, in the order of the flags. -/
def Thread.fpEnable (th : Thread) : Flags := BitVec.ofNat 5 (th.fpcField 3 5)
/-- Residue overflow traps. -/
def Thread.ovt (th : Thread) : Bool := th.fpc.getLsbD 8
/-- A located rod failure traps. -/
def Thread.rmt (th : Thread) : Bool := th.fpc.getLsbD 9
/-- The stochastic-rounding counter. -/
def Thread.srcnt (th : Thread) : Nat := th.fpcField 18 22
/-- The stochastic-rounding seed. -/
def Thread.srseed (th : Thread) : Nat := th.fpcField 40 24

/-- Flags posted with the label of the result that raised them (04 R118, 05 R139). -/
def Thread.post (th : Thread) (fl : Flags) (l : Label) : Thread :=
  if fl = 0 then th else { th with fpc := th.fpc ||| (fl.setWidth 64 <<< 12), ctxl := th.ctxl ||| l }

/-- RNSF set (04 R118). -/
def Thread.postRnsf (th : Thread) (l : Label) : Thread :=
  { th with fpc := th.fpc ||| 0x20000#64, ctxl := th.ctxl ||| l }

/-- SRCNT advanced by one, modulo 2^22 (05 R142). -/
def Thread.srStep (th : Thread) : Thread :=
  let n := th.srseed * 2 ^ 40 + (th.srcnt + 1) % 2 ^ 22 * 2 ^ 18 + th.fpc.toNat % 2 ^ 18
  { th with fpc := BitVec.ofNat 64 n }

/-- How the word at the PC rounds: its prefix, or FPC.RM (05 R135, R141). -/
def Thread.rnd (th : Thread) : Rnd where
  mode := ((th.chain.bind (·.rnd)).getD th.rm)
  draw := fun idx =>
    if (th.chain.map (·.sround)).getD false then some (srBits th.srseed th.srcnt th.pc idx) else none

end Sys2Proof.Machine
end

