-- ==== Sys2Proof/Machine/Regs.lean ====
section
/-! DEFINITION. The registers of a thread: the one place that reads and writes each of them, with the hard-wired ones
(02 Tables 2.1, 2.2; 08 R205), and fixed-latency results on their way (02 R46 to R50). -/

namespace Sys2Proof.Machine

/-- A scalar register that reads zero and ignores writes: s0, and s63 in a migrant (02 Table 2.1, 08 R205). -/
def Thread.wiredS (th : Thread) (r : SReg) : Bool := decide (r = 0) || (decide (th.kind = .migrant) && decide (r = 63))

/-- Whether a write of a register is discarded. -/
def Thread.wired (th : Thread) (d : Dest) : Bool := match d with | .s r => th.wiredS r | _ => false

/-- A scalar register. -/
def Thread.sreg (th : Thread) (r : SReg) : SVal := if th.wiredS r then ⟨0, 0⟩ else th.s.get r.toFin

/-- The value of a scalar register. -/
def Thread.sv (th : Thread) (r : SReg) : Word := (th.sreg r).val
/-- The label of a scalar register. -/
def Thread.sl (th : Thread) (r : SReg) : Label := (th.sreg r).lab

/-- A predicate (02 Table 2.1). -/
def Thread.preg (th : Thread) (n : PReg) : PVal := if n = 0 then ⟨true, 0⟩ else th.p.get n.toFin
/-- Its sense-adjusted value (03 Table 3.1). -/
def Thread.pv (th : Thread) (sn : Bool) (n : PReg) : Bool := (th.preg n).val != sn
/-- Its label. -/
def Thread.pl (th : Thread) (n : PReg) : Label := (th.preg n).lab

/-- A vector register. -/
def Thread.vreg (th : Thread) (r : VReg) : VVal := th.v.get r.toFin
/-- A lane mask (02 Table 2.2). -/
def Thread.kreg (th : Thread) (n : KReg) : KVal := if n = 0 then ⟨0xFFFF, 0⟩ else th.k.get n.toFin
/-- A tile register. -/
def Thread.treg (th : Thread) (n : TReg) : TVal := th.t.get n.toFin
/-- A tile's shape register. -/
def Thread.tsreg (th : Thread) (n : TReg) : BitVec 32 := th.ts.get n.toFin

/-- An earlier fixed-latency write to a register does not take place any more, nor that of a scheduled access (02 R49, 08
R211). -/
def Thread.cancel (th : Thread) (d : Dest) : Thread :=
  { th with
    pend := th.pend.map fun w => if w.dest = d then { w with dest := .none, val := .none } else w
    sched := th.sched.map fun (x : Sched) => { x with dests := x.dests.map fun e => if e = d then .none else e } }

/-- Writes a scalar register; a hard-wired one discards the write. -/
def Thread.putRawS (th : Thread) (r : SReg) (x : SVal) : Thread :=
  if th.wiredS r then th else { th with s := th.s.set r.toNat x r.isLt }
/-- Writes a predicate; p0 discards the write. -/
def Thread.putRawP (th : Thread) (n : PReg) (x : PVal) : Thread :=
  if n = 0 then th else { th with p := th.p.set n.toNat x n.isLt }
/-- Writes a vector register. -/
def Thread.putRawV (th : Thread) (r : VReg) (x : VVal) : Thread := { th with v := th.v.set r.toNat x r.isLt }
/-- Writes a lane mask; k0 discards the write. -/
def Thread.putRawK (th : Thread) (n : KReg) (x : KVal) : Thread :=
  if n = 0 then th else { th with k := th.k.set n.toNat x n.isLt }
/-- Writes a tile register. -/
def Thread.putRawT (th : Thread) (n : TReg) (x : TVal) : Thread := { th with t := th.t.set n.toNat x n.isLt }
/-- Writes a shape register. -/
def Thread.putTS (th : Thread) (n : TReg) (x : BitVec 32) : Thread := { th with ts := th.ts.set n.toNat x n.isLt }

/-- Put of a scalar register by a word (02 Table 2.11, R49). -/
def Thread.putS (th : Thread) (r : SReg) (x : Word) (l : Label) : Thread := (th.cancel (.s r)).putRawS r ⟨x, l⟩
/-- Put of a predicate. -/
def Thread.putP (th : Thread) (n : PReg) (x : Bool) (l : Label) : Thread := (th.cancel (.p n)).putRawP n ⟨x, l⟩
/-- Put of a vector register, with its tag. -/
def Thread.putV (th : Thread) (r : VReg) (x : VBits) (g : Tag) (l : Label) : Thread :=
  (th.cancel (.v r)).putRawV r ⟨x, g, l⟩
/-- Put of a lane mask. -/
def Thread.putK (th : Thread) (n : KReg) (x : BitVec 16) (l : Label) : Thread := (th.cancel (.k n)).putRawK n ⟨x, l⟩
/-- The shape that a pending tmov still gives a tile whose bytes a later word writes (02 R49). -/
def Thread.settleShape (th : Thread) (n : TReg) : Thread :=
  match th.pend.find? fun w => decide (w.dest = .t n) with
  | some w => match w.val with
    | .t _ sh => th.putTS n sh
    | _ => th
  | none => th
/-- Put of a tile register. -/
def Thread.putT (th : Thread) (n : TReg) (x : TileBits) (l : Label) : Thread :=
  ((th.settleShape n).cancel (.t n)).putRawT n ⟨x, l⟩
/-- A word that is to write a register later claims it: what earlier words would still write there is discarded (02 R49). -/
def Thread.claim (th : Thread) (d : Dest) : Thread :=
  match d with
  | .t n => (th.settleShape n).cancel d
  | _ => th.cancel d
/-- Put of a shape register; a pending tmov still writes the tile's bytes (02 R39, R49). -/
def Thread.putShape (th : Thread) (n : TReg) (x : BitVec 32) : Thread :=
  let keep (w : PendWrite) : PendWrite :=
    match decide (w.dest = .t n), w.val with
    | true, .t y _ => { w with val := .t y x }
    | _, _ => w
  { (th.putTS n x) with pend := th.pend.map keep }

/-- CTXL widened. -/
def Thread.widen (th : Thread) (l : Label) : Thread := { th with ctxl := th.ctxl ||| l }

/-- The predicate word (02 Table 2.1). -/
def Thread.predWord (th : Thread) : BitVec 8 :=
  BitVec.ofNat 8 ((nums 8).foldl (fun a n => a + b2n (th.preg (BitVec.ofNat 3 n)).val * 2 ^ n) 0)

/-! ### Fixed-latency results (02 R46 to R50) -/

/-- A result written when it is due, and its flags posted. -/
def Thread.applyPend (th : Thread) (w : PendWrite) : Thread :=
  let th := match w.dest, w.val with
    | .s r, .s x => th.putRawS r x
    | .v r, .v x => th.putRawV r x
    | .k n, .k x => th.putRawK n x
    | .t n, .t x sh => (th.putRawT n x).putTS n sh
    | _, _ => th
  th.post w.flags w.flab

/-- Every result due by rotation `rot` written. -/
def Thread.settle (th : Thread) (rot : Nat) : Thread :=
  let th' := { th with pend := th.pend.filter fun w => decide (rot < w.due) }
  (th.pend.filter fun w => decide (w.due ≤ rot)).foldl Thread.applyPend th'

/-- Every result written (02 R50). -/
def Thread.flush (th : Thread) : Thread := th.pend.foldl Thread.applyPend { th with pend := [] }

/-- A result of latency `l` of the word at the PC (02 R46, R49). -/
def Thread.later (th : Thread) (i : Instr) (rot l : Nat) (d : Dest) (x : RegVal) (fl : Flags) (flab : Label) : Thread :=
  let th := th.cancel d
  { th with pend := th.pend ++ [⟨d, x, rot + l, fl, flab, th.pc, BitVec.ofNat 2 (stallOf i)⟩] }

/-- The latest rotation in which a pending result is due. -/
def Thread.lastDue (th : Thread) : Nat := th.pend.foldl (fun a w => max a w.due) 0

/-- The latest rotation in which a scheduled access is due (08 R211). -/
def Thread.schedDue (th : Thread) : Nat := th.sched.foldl (fun a x => max a x.due) 0

/-! ### The flint (20 R423, R424) -/

/-- One bit of Fold. -/
def foldBit (s : BitVec 16) (b : Bool) : BitVec 16 :=
  let f := s.getLsbD 15 != b
  let s := s <<< 1
  if f then s ^^^ 0x1021 else s

/-- Fold of the low `n` bits of a word, the highest first. -/
def foldBits (s : BitVec 16) (w : InstrWord) : Nat → BitVec 16
  | 0 => s
  | n + 1 => foldBits (foldBit s (w.getLsbD n)) w n

/-- Fold(S, w). -/
def foldWord (s : BitVec 16) (w : InstrWord) : BitVec 16 := foldBits s w 32

end Sys2Proof.Machine
end

