-- ==== Sys2Proof/Machine/Ops.lean ====
section
/-! DEFINITION. The operations every meaning is made of: events delivered to threads, the end of a thread, taking a trap
and returning from one, parking, and the issue of a word from its checks to its retirement (02 R44 to R51; 03 R81 to R88;
08 R182, R183; 20 R408 to R430). -/

namespace Sys2Proof.Machine

/-! ### What a thread is and where it stands -/

/-- TSTAT.TMODE (02 Table 2.4): 0 untimed, 1 running, 2 frozen, 3 paused. -/
def State.tmode (s : State) (tid : Nat) (th : Thread) : Nat :=
  match th.timed.bind (nget s.tgroups ·) with
  | none => 0
  | some g =>
    if !g.started then 0
    else if s.rot < (s.pcore (coreOf tid) th.part).frozenTo then 2
    else match g.pausedFrom with
      | some r => if r ≤ s.rot then 3 else 1
      | none => 1

/-- A thread in timed mode (08 R211). -/
def State.isTimed (s : State) (tid : Nat) (th : Thread) : Bool := decide (s.tmode tid th ≠ 0)

/-- TSTAT (02 Table 2.4). -/
def State.tstat (s : State) (tid : Nat) (th : Thread) : Word :=
  BitVec.ofNat 64 (slotOf tid * 2 ^ 13 + b2n th.world * 2 ^ 12 + b2n (decide (th.kind = .migrant)) * 2 ^ 11 +
    b2n (decide (th.kind = .control)) * 2 ^ 10 + s.tmode tid th * 2 ^ 8 + b2n th.te * 2 + b2n th.sbc)

/-- A context as a thread starts with it (02 Table 2.7), in the given place. -/
def Thread.fresh (gen : Nat) (kind : Kind) (part : Nat) (pc : Word) (ctxl : Label) (world : Bool) (rot : Nat) :
    Thread where
  gen := gen
  kind := kind
  part := part
  pc := pc
  s := Vector.replicate 64 ⟨0, 0⟩
  p := Vector.replicate 8 ⟨false, 0⟩
  v := Vector.replicate 32 ⟨0, 0, 0⟩
  k := Vector.replicate 8 ⟨0, 0⟩
  t := Vector.replicate 8 ⟨0, 0⟩
  ts := Vector.replicate 8 0
  ctxl := ctxl
  world := world
  te := true
  sbc := false
  fpc := 0
  tepc := 0
  tcause := 0
  tinfo0 := 0
  tinfo1 := 0
  tsave := 0
  tsig := 0
  flint := 0xFFFF
  lastBad := none
  xfer := none
  abown := 0
  barPend := 0
  accWin := 0
  depSel := 0
  grpId := 0
  grpN := 0
  strId := 0
  strN := 0
  arg := 0
  slotsM := 1
  launch := none
  timed := none
  pend := []
  sched := []
  nextRot := rot
  park := none
  again := none
  retry := none
  chain := none
  pendSet := []
  preempt := false
  handling := none
  hostDirty := []

/-- The matrix commands of a slot that have not posted (14 R331). -/
def cmdsOf (c : Core) (slot : Nat) : List MxCmd :=
  ((c.mxRun.toList ++ c.mxDone).map (·.cmd) ++ c.mxQueue).filter fun m => m.slot = slot

/-- The matrix commands of a thread that have not posted. -/
def State.cmds (s : State) (tid : Nat) : List MxCmd := cmdsOf (s.core (coreOf tid)) (slotOf tid)

/-- The banks of registers named. -/
def bankMask (l : List Dest) : Word :=
  l.foldl (fun a d => match d with | .bank b => a ||| (1#64 <<< b.toNat) | _ => a) 0

/-- The tiles of registers named. -/
def tileMask (l : List Dest) : BitVec 8 :=
  l.foldl (fun a d => match d with | .t n => a ||| (1#8 <<< n.toNat) | _ => a) 0

/-- The registers that a word reads and writes where it stands: a spar prefix adds its mask (14 R335), and ardt reads the
second bank of an accumulator of 32 rows and columns (14 Table 14.2). -/
def Thread.touches (th : Thread) (c : Core) (i : Instr) : List Dest × List Dest :=
  let (rd, wr) := touch i
  let mask : List Dest := match takesSpar i, th.chain.bind (·.spar) with
    | true, some (t, _) => [.t t]
    | _, _ => []
  let second : List Dest := match i with
    | .ardt _ n _ => if ((nget c.banks n.toNat).map (·.kind)) = some 3 && decide (n.toNat < 63) then [.bank (n + 1)] else []
    | _ => []
  (rd ++ mask ++ second, wr)

/-- What a word reads and writes for the check of early accesses: rela writes the banks of its mask as well (14 R327, R331). -/
def Thread.early (th : Thread) (i : Instr) (rw : List Dest × List Dest) : List Dest × List Dest :=
  match i with
  | .rela _ x => (rw.1, rw.2 ++ ((nums 64).filter fun b => (th.sv x).getLsbD b).map fun b => .bank (BitVec.ofNat 6 b))
  | _ => rw

/-- A presence mask register that equals another operand of its word (14 R335). -/
def Thread.sparClash (th : Thread) (i : Instr) : Bool :=
  match th.chain.bind (·.spar) with
  | some (t, _) => takesSpar i && isCommand i && (touch i).1.contains (.t t)
  | none => false

/-- Tiles a command reads (14 R331): A, B, scales and presence masks. -/
def cmdTiles (c : MxCmd) : List Dest :=
  (touch c.instr).1 ++ (match c.spar with | some (t, _) => [Dest.t t] | none => [])

/-- Whether a command stands in the way of a word that touches these banks or writes these tiles. -/
def cmdMeets (mask : Word) (tiles : BitVec 8) (c : MxCmd) : Bool :=
  decide (bankMask (touch c.instr).2 &&& mask ≠ 0) || decide (tileMask (cmdTiles c) &&& tiles ≠ 0)

/-- Whether an unfinished command of the thread stands in the way. One of a timed thread does not: an early word finds the
previous value (02 R48, 14 R331). -/
def State.busy (s : State) (tid : Nat) (mask : Word) (tiles : BitVec 8) : Bool :=
  ((s.cmds tid).filter fun c => c.due.isNone).any (cmdMeets mask tiles)

/-- A command of a timed thread that is not yet due loses the banks that a later word writes (02 R49, 14 R331). -/
def MxCmd.lose (slot rot : Nat) (mask : Word) (c : MxCmd) : MxCmd :=
  match c.due with
  | some n => if c.slot = slot ∧ rot < n then { c with lost := c.lost ||| mask } else c
  | none => c

/-- A later word writes banks: what earlier commands of the slot would still write there is discarded (02 R49). -/
def dropDue (c : Core) (slot rot : Nat) (mask : Word) : Core :=
  let run (r : MxRun) : MxRun := { r with cmd := r.cmd.lose slot rot mask }
  { c with mxRun := c.mxRun.map run, mxDone := c.mxDone.map run, mxQueue := c.mxQueue.map (MxCmd.lose slot rot mask) }

/-- A timed thread that parks, traps or freezes waits for its fixed-latency operations: its matrix commands that are not yet due
write as they complete, and no access to their registers is early any more (02 R50). -/
def MxCmd.undue (slot rot : Nat) (c : MxCmd) : MxCmd :=
  match c.due with
  | some n => if c.slot = slot ∧ rot < n then { c with due := none } else c
  | none => c

/-- The matrix commands of a thread that are not yet due are due no more (02 R50). -/
def State.freeCmds (s : State) (tid : Nat) : State :=
  if (s.cmds tid).any fun c => c.due.isSome then
    s.modCore (coreOf tid) fun c =>
      let f := MxCmd.undue (slotOf tid) s.rot
      let run (r : MxRun) : MxRun := { r with cmd := f r.cmd }
      { c with mxRun := c.mxRun.map run, mxDone := c.mxDone.map run, mxQueue := c.mxQueue.map f }
  else s

/-- A park that holds an access back behind earlier scheduled ones: the word has issued (12 R296). -/
def Park.held (p : Park) : Bool := match p.cond with | .held _ => true | _ => false

/-- The word as a 64-bit value. -/
def wordOf (i : Instr) : Word := (encode i).setWidth 64

/-- The PC a precise trap records: that of the chain's first prefix (03 R85). -/
def Thread.trapPc (th : Thread) : Word := match th.chain with | some c => c.first | none => th.pc

/-- The slots whose turns are a thread's: its own, and for a control thread those lent to it (08 R179). -/
def State.turns (s : State) (tid : Nat) : List Nat :=
  match s.thread? tid with
  | some th =>
    if th.kind = .control then
      slotOf tid :: (slotsOf (s.pdie (dieOf (coreOf tid)) th.part).smask).filter fun k =>
        decide (k ≠ slotOf tid) && (s.thread? (tidOf (coreOf tid) k)).isNone &&
          !((s.core (coreOf tid)).scrubs.any fun x => decide (x.1 = k))
    else [slotOf tid]
  | none => [slotOf tid]

/-- The first rotation in which a turn of the thread comes, from the present cycle on (03 R59). -/
def State.ownRot (s : State) (tid : Nat) : Nat :=
  if (s.turns tid).any fun k => decide (s.cycle % 8 ≤ k) then s.rot else s.rot + 1

/-- The wait-table entries of a partition's pool on a core, and those in use (08 R175, R182). -/
def State.entryFree (s : State) (tid : Nat) (part : Nat) : Bool :=
  let used := (s.threads.filter fun (t, th) =>
    decide (coreOf t = coreOf tid) && decide (th.part = part) &&
    (match th.park with | some p => p.entry | none => false)).length
  decide (used < 8 * (slotsOf (s.pdie (dieOf (coreOf tid)) part).smask).length)

/-! ### Events -/

/-- An event delivered to a thread's pending set (20 R411). -/
def State.deliverTo (s : State) (tid : Nat) (e : PendEvent) : State :=
  s.modThread tid fun th =>
    if th.pendSet.length < Config.pendingMax then { th with pendSet := th.pendSet ++ [e] } else th

/-- The place of a partition's control thread on a core. -/
def State.ctrlTid (s : State) (core part : Nat) : Nat := tidOf core (ctrlSlot (s.pdie (dieOf core) part))

/-- KILL.LOG (20 Table 20.3). -/
def killLog (p : PCore) : Word :=
  BitVec.ofNat 64 (p.killCount.toNat * 2 ^ 32 + p.killSlot.toNat * 2 ^ 8 + p.killReason.toNat)

/-! ### The end of a thread (09 R220; 20 R427) -/

/-- The visit in a bead slot ends with an outcome (0 visited, 1 missed, 2 skipped, 3 missed without a revisit); the bead
departs under 14 R338. -/
def State.endVisit (s : State) (eng : Option Nat) (outcome : Nat) : State :=
  match eng with
  | none => s
  | some e =>
    match nget s.engines e with
    | none => s
    | some g =>
      if g.kind = .tour then { s with engines := nset s.engines e { g with ended := some outcome } } else s

/-- What a bound thread's end does to one bead slot (15 Table 15.6, R370). -/
def State.slotHolderEnds (s : State) (core part n : Nat) : State :=
  let b := vget (s.pcore core part).bslots n
  let there := decide (b.state = 1) || decide (b.state = 2)
  let s := if there then s.endVisit b.eng 2 else s
  let b' := { b with bound := false, dead := true, state := if there then 0 else b.state, leaving := there || b.leaving }
  s.modPCore core part fun p => { p with bslots := vset p.bslots n b' }

/-- Every bead slot bound to a thread that ends. -/
def State.slotsEnd (s : State) (core part slot : Nat) : State :=
  (nums 16).foldl (fun s n =>
    let b := vget (s.pcore core part).bslots n
    if b.bound && decide (b.holder.toNat = slot) then s.slotHolderEnds core part n else s) s

/-- A strand leaves its group (08 R200, R202), or a migrant its launch. -/
def State.leaveLaunch (s : State) (tid : Nat) (th : Thread) (killed : Bool) : State :=
  match th.launch with
  | none => s
  | some l =>
    match nget s.launches l with
    | none => s
    | some x =>
      let x := if killed then { x with killed := true, gone := x.gone ++ [(tid, th.gen)] } else x
      let x :=
        if th.kind = .migrant then { x with migrants := x.migrants - 1 }
        else { x with running := x.running.map fun (g : Group) =>
          if tid ∈ g.tids then
            { g with tids := g.tids.filter (· ≠ tid), ended := g.ended ++ [coreOf tid], killed := g.killed || killed }
          else g }
      { s with launches := nset s.launches l x }

/-- An arrival at a timed start is withdrawn, and a start that was fixed does not take place (09 R238). -/
def State.leaveTimed (s : State) (tid : Nat) (th : Thread) : State :=
  match th.timed with
  | none => s
  | some g =>
    match nget s.tgroups g with
    | none => s
    | some x =>
      let here := x.arrived.any fun a => decide (a.1 = tid)
      { s with tgroups := nset s.tgroups g { x with
          arrived := x.arrived.filter fun a => a.1 ≠ tid
          nextT0 := if here then none else x.nextT0 } }

/-- The core and bead slot of a tour's stop. -/
def stopPlace (g : Engine) : Option (Nat × Nat) :=
  match g.todoStops with
  | [] => none
  | (i, _) :: _ => (g.stops[i]?).map fun x => (x.core, x.slot)

/-- One bead slot as the partition's PHASE becomes 2: a visit there ends as missed, with no revisit (15 R369). -/
def State.drainSlot (s : State) (core part n : Nat) : State :=
  let b := vget (s.pcore core part).bslots n
  if b.state = 1 || b.state = 2 then
    (s.endVisit b.eng 3).modPCore core part fun p =>
      { p with bslots := vset p.bslots n { b with state := 4, leaving := true } }
  else s

/-- The last slot of a partition that is switched out is vacant: PHASE 2 (20 R428, 15 R369). -/
def State.drainStart (s : State) (core part : Nat) : State :=
  let s := s.modPCore core part fun p => { p with phase := 2, phase2At := s.cycle }
  let s := (nums 16).foldl (fun s n => s.drainSlot core part n) s
  { s with engines := s.engines.map fun (k, (g : Engine)) =>
      (k, if g.kind = .tour && g.part = part && g.pos = .waiting && ((stopPlace g).map (·.1)) = some core then
        { g with ended := some 2 } else g) }

/-- Whether a core still holds a compute thread or a migrant of a partition that the switch has sent PREEMPT to. -/
def State.occupied (s : State) (core part : Nat) : Bool :=
  s.threads.any fun (t, th) => decide (coreOf t = core) && decide (th.part = part) && decide (th.kind ≠ .control) && th.preempt

/-- PHASE 1 ends when no compute thread and no migrant that the switch began with is left on the core. -/
def State.vacantCheck (s : State) (core part : Nat) : State :=
  if (s.pcore core part).phase = 1 && !s.occupied core part then s.drainStart core part else s

/-- A thread that ends counts as arrived at every barrier: it is no longer waited for (09 R223). -/
def State.leaveBarriers (s : State) (tid : Nat) : State :=
  { s with barriers := s.barriers.map fun (k, (b : Barrier)) => (k, { b with arrived := b.arrived.filter (· ≠ tid) }) }

/-- A slot that is empty from now on is free from the next rotation on (08 R181). -/
def State.noteFreed (s : State) (core slot : Nat) : State :=
  s.modCore core fun c =>
    { c with freed := (slot, s.rot) :: c.freed.filter fun x => decide (s.rot ≤ x.2 + 1) && decide (x.1 ≠ slot) }

/-- Whether a slot has become free in the present rotation. -/
def State.justFreed (s : State) (core slot : Nat) : Bool := (s.core core).freed.contains (slot, s.rot)

/-- A thread's end, by exit or by a kill: its slot is empty, its bead slots are dead, its launch has lost it. -/
def State.endThread (s : State) (tid : Nat) (th : Thread) (killed : Bool) : State :=
  ((((((s.delThread tid).noteFreed (coreOf tid) (slotOf tid)).slotsEnd (coreOf tid) th.part (slotOf tid)).leaveLaunch tid th killed).leaveTimed tid
    th).leaveBarriers tid).vacantCheck (coreOf tid) th.part

/-- A waiter leaves the wait list it stands in (12 R289). -/
def State.dropWaiter (s : State) (tid gen : Nat) : State :=
  { s with waiters := s.waiters.filter fun m => !isOwner tid gen m.owner || (match m.req with | .pool _ _ _ => true | _ => false) }

/-- The waiting word of a thread is withdrawn at its home, or dropped when the home only keeps it (09 R234, 13 R308). -/
def State.withdrawWait (s : State) (tid : Nat) (th : Thread) : State :=
  match th.park.bind (·.at_) with
  | none => s.dropWaiter tid th.gen
  | some (home, pl, pa) =>
    if home = .core (coreOf tid) then s.dropWaiter tid th.gen
    else s.send (.core (coreOf tid)) home pl (.withdraw (.thread tid th.gen) pa)

/-- The matrix work of a killed thread's slot is discarded (14 R332). -/
def dropMatrix (c : Core) (slot : Nat) : Core :=
  { c with
    mxQueue := c.mxQueue.filter fun m => m.slot ≠ slot
    mxDone := c.mxDone.filter fun m => m.cmd.slot ≠ slot
    mxRun := c.mxRun.map fun (r : MxRun) => if r.cmd.slot = slot then { r with cmd := { r.cmd with slot := 8 } } else r }

/-- The banks of a mask zeroed and free (11 R254). -/
def dropBanks (c : Core) (mask : Word) : Core :=
  { c with banks := c.banks.filter fun b => !mask.getLsbD b.1 }

/-- A kill of one thread (20 R427), without its consequence for the core. -/
def State.killOne (s : State) (tid reason : Nat) : State :=
  match s.thread? tid with
  | none => s
  | some th =>
    let core := coreOf tid
    let slot := slotOf tid
    let s := s.withdrawWait tid th
    let s := s.endThread tid th true
    let s := s.modCore core fun c =>
      let c := dropBanks (dropMatrix c slot) th.abown
      let counts := decide (reason = 1) || decide (reason = 2) || decide (reason = 7)
      { c with
        scrubs := c.scrubs ++ [(slot, s.cycle)]
        kills := if counts then c.kills + 1 else c.kills
        journal := c.journal.map fun (j : JEntry) =>
          if j.tid = tid ∧ j.gen = th.gen then { j with dead := true } else j }
    let s := s.modPCore core th.part fun p =>
      { p with killCount := p.killCount + 1, killSlot := BitVec.ofNat 3 slot, killReason := BitVec.ofNat 8 reason }
    s.deliverTo (s.ctrlTid core th.part)
      ⟨0x0604, 2, killLog (s.pcore core th.part), BitVec.ofNat 64 (core % 1024), 0⟩

/-- A core leaves service: its live threads are killed with reason 8 (20 R431). -/
def State.outOfService (s : State) (core : Nat) : State :=
  if (s.core core).outOfSvc then s
  else (nums 8).foldl (fun s k => s.killOne (tidOf core k) 8) (s.modCore core fun c => { c with outOfSvc := true })

/-- A kill; four of reason 1, 2 or 7 take the core out of service (20 R427, R431). -/
def State.kill (s : State) (tid reason : Nat) : State :=
  let s := s.killOne tid reason
  if 4 ≤ (s.core (coreOf tid)).kills.toNat then s.outOfService (coreOf tid) else s

/-! ### Taking a trap, returning from one (20 R410 to R415) -/

/-- Entry into the handler once everything before it has completed (20 R410). `next` is the rotation of its first word. -/
def State.enterTrap (s : State) (tid : Nat) (th : Thread) (code : BitVec 16) (cls : BitVec 8) (i0 i1 : Word)
    (lab : Label) (pc : Word) (next : Nat) : State :=
  if !th.te && (decide (cls = 0) || decide (cls = 3)) then (s.setThread tid th).kill tid 5
  else s.setThread tid { th with
    tcause := th.ctxl ++ 0#8 ++ cls ++ 0#16 ++ code
    tepc := pc
    tinfo0 := i0
    tinfo1 := i1
    tsig := th.flint
    flint := 0xFFFF
    te := false
    ctxl := th.ctxl ||| lab
    pc := (s.pp th.part).trapVec
    xfer := match th.xfer with | some (_, t) => if t = pc then none else th.xfer | none => none
    chain := none
    park := none
    again := none
    retry := none
    handling := th.handling.map (· + 1)
    nextRot := next }

/-- TakeTrap (20 R410): fixed-latency results are written, and the entry waits for the thread's matrix queue (14 R332)
and its scheduled accesses (13 R299). -/
def State.takeTrap (s : State) (tid : Nat) (th : Thread) (code : BitVec 16) (cls : BitVec 8) (i0 i1 : Word)
    (lab : Label) (pc : Word) (next : Nat) : State :=
  let th := th.flush
  if (s.cmds tid).isEmpty && th.sched.isEmpty then s.enterTrap tid th code cls i0 i1 lab pc next
  else (s.freeCmds tid).setThread tid { th with
    nextRot := next
    again := none
    retry := none
    park := some ⟨.nop 0, .trapEntry code cls i0 i1 lab pc, s.cycle, 63, false, none, none, none, 0, 0, 0, 0, []⟩ }

/-- A precise trap of the word at the PC (20 R408). -/
def State.preciseTrap (s : State) (tid : Nat) (th : Thread) (c : Cause) (i0 i1 : Word) (lab : Label) (next : Nat) : State :=
  s.takeTrap tid th (causeCode c) 0 i0 i1 lab th.trapPc next

/-- The return of tret to TEPC, in one step (20 R415). -/
def Thread.trapReturn (th : Thread) : Thread :=
  { th with
    ctxl := th.ctxl ||| th.tcause.extractLsb' 48 16
    flint := th.tsig
    te := true
    pc := th.tepc
    handling := th.handling.bind fun n => if n ≤ 1 then none else some (n - 1) }

/-! ### Retirement (02 R45; 20 R424) -/

/-- Whether the chain carries sround and the word draws from SRCNT as it retires; a matrix command advances SRCNT when it
completes (05 R142). -/
def Thread.drawsNow (th : Thread) (i : Instr) : Bool :=
  (match th.chain with | some c => c.sround | none => false) && !isCommand i

/-- The word retires: the flint folds it and its chain, SRCNT advances under sround, and the PC goes to the next word. -/
def Thread.retire (th : Thread) (i : Instr) : Thread :=
  let th := if th.drawsNow i then th.srStep else th
  let ws := match th.chain with | some c => c.words | none => []
  let f := if isTransfer i then 0xFFFF else match i with
    | .sig _ _ => 0xFFFF
    | _ => foldWord (ws.foldl foldWord th.flint) (encode i)
  { th with flint := f, pc := th.pc + 4, chain := none, park := none, again := none, retry := none }

/-! ### The issue of a word -/

/-- What a word does. -/
inductive Res where
  /-- It has its effect and retires. -/
  | done (th : Thread) (s : State)
  /-- It retires and goes to an address. -/
  | jump (th : Thread) (s : State) (target : Word)
  /-- It takes a precise trap; the label is that of the location the information names (18 R393). -/
  | trap (th : Thread) (s : State) (c : Cause) (i0 i1 : Word) (lab : Label)
  /-- A mismatch is detected: at the word itself, which retires first, or before it (20 R425). -/
  | detected (th : Thread) (s : State) (after : Bool) (i0 i1 : Word)
  /-- It parks its thread. -/
  | park (th : Thread) (s : State) (p : Park)
  /-- It is issued again at the next turn, for want of a wait-table entry for the park given (08 R183). -/
  | retry (th : Thread) (s : State) (p : Park)
  /-- It has set the PC and the flint itself (tret, crest). -/
  | moved (th : Thread) (s : State)
  /-- The thread is gone from its slot. -/
  | gone (s : State)

/-- The cycle of the first attempt of the word, for limits (02 R51, 08 R183). -/
def Thread.firstTry (th : Thread) (s : State) : Nat :=
  match th.again with
  | some a => a.first
  | none => (th.retry.map (·.first)).getD s.cycle

/-- The phase in which a word goes on; 0 when it issues. -/
def Thread.phase (th : Thread) : Nat := match th.again with | some a => a.phase | none => 0

/-- The effect of a word on the machine. `resumed` when its park has ended: its stall count is then counted from
waking (03 R59). -/
def State.conclude (s₀ : State) (i : Instr) (tid : Nat) (resumed : Bool) (r : Res) : State :=
  let next := s₀.rot + (if resumed then 0 else 1) + stallOf i
  match r with
  | .done th s => s.setThread tid { th.retire i with nextRot := next }
  | .jump th s g => s.setThread tid { th.retire i with pc := g, nextRot := next, xfer := some (th.pc, g) }
  | .trap th s c i0 i1 lab => s.preciseTrap tid th c i0 i1 lab (s₀.rot + 1)
  | .detected th s after i0 i1 =>
    let th' := if after then th.retire i else th
    (s.modPCore (coreOf tid) th.part fun p => { p with
      flintMism := p.flintMism + 1
      flintRep := if i1.getLsbD 32 then p.flintRep + 1 else p.flintRep }).takeTrap tid th' 0x0601 3 i0 i1 0 th'.pc
        (s₀.rot + 1)
  | .park th s p => (if p.held then s else s.freeCmds tid).setThread tid
      { (if p.held then th else th.flush) with park := some p, again := none, retry := none, nextRot := s₀.rot + 1 }
  | .retry th s p =>
    (s.setThread tid { th with retry := some p, again := none, nextRot := s₀.rot + 1 }).modPCore
      (coreOf tid) th.part fun p => { p with waitRetry := p.waitRetry + 1 }
  | .moved th s => s.setThread tid { th with
      chain := none, park := none, again := none, retry := none, nextRot := next }
  | .gone s => s

/-- ILLEGAL.OP (03 R88). -/
def illegal (th : Thread) (s : State) (w : InstrWord) (r : IllReason) : Res :=
  .trap th s .illegalOp (BitVec.ofNat 64 (reasonCode r * 2 ^ 32) ||| w.setWidth 64) th.pc 0

/-- A producer whose result is not yet readable: its register, the rotation it is due in, its PC and stall count. -/
structure Producer where
  dest : Dest
  due : Nat
  pc : Word
  stall : Nat
  deriving DecidableEq, Repr

/-- The producers of a thread's registers (02 R47, 08 R211, 14 R331). -/
def producers (th : Thread) (cmds : List MxCmd) : List Producer :=
  th.pend.map (fun w => ⟨w.dest, w.due, w.pc, w.stall.toNat⟩) ++
  (th.sched.map fun a => a.dests.map fun d => Producer.mk d a.due a.pc a.stall.toNat).flatten ++
  (cmds.map fun c => match c.due with
    | some n => (touch c.instr).2.map fun d => Producer.mk d n c.pc (stallOf c.instr)
    | none => []).flatten

/-- The first early read or write of a word that reads and writes the given registers (02 R47, R49). -/
def earlyAt (th : Thread) (cmds : List MxCmd) (rw : List Dest × List Dest) (rot : Nat) : Option Producer :=
  let (rd, wr) := rw
  let reads := (producers th cmds).filter fun p => decide (rot < p.due)
  let tiles := (cmds.map fun c => match c.due with
    | some n => (cmdTiles c).map fun d => Producer.mk d n c.pc (stallOf c.instr)
    | none => []).flatten.filter fun p => decide (rot < p.due) && wr.contains p.dest
  ((rd ++ wr).filterMap fun d => reads.find? fun p => decide (p.dest = d) && decide (d ≠ .none)).head?.or tiles.head?

/-- STALL.SHORT (02 Table 2.9). -/
def stallShort (th : Thread) (s : State) (p : Producer) (rot : Nat) : Res :=
  let (c, n) := destCode p.dest
  .trap th s .stallShort p.pc
    (BitVec.ofNat 64 (c * 2 ^ 14 + n * 2 ^ 8 + p.stall * 2 ^ 4 + min (p.due - rot) 3)) 0

/-- The bytes that the earlier phases of a word have read. -/
def Thread.readSoFar (th : Thread) : List Byte := match th.again with | some a => a.data | none => []

/-- The labels of the locations that the earlier phases of a word have read. -/
def Thread.labSoFar (th : Thread) : Label := match th.again with | some a => a.lab | none => 0

/-- A word that waits, with no limit and no wait-table entry, before it goes on in the phase it has reached. -/
def parkOn (th : Thread) (s : State) (i : Instr) (c : Cond) : Res :=
  .park th s ⟨i, c, th.firstTry s, 63, false, none, none, none, 0, 0, th.labSoFar, th.phase, th.readSoFar⟩

/-- Whether the address a transfer was re-evaluated to is not that of the next word (20 R424). -/
def Thread.strayed (th : Thread) : Option Word :=
  match th.xfer with
  | some (p, t) => if t = th.pc then none else some p
  | none => none

/-- The checks of a fetched word from step 6 on (03 R87), after the one value check that needs its prefix (14 R335); then
its effect. -/
def checked (i : Instr) (tid : Nat) (th : Thread) (s : State) (body : Thread → State → Res) : Res :=
  if th.sparClash i then illegal th s (encode i) .value
  else if !chainOk th.chain i then illegal th s (encode i) .chain
  else if absentFor th.kind i then .trap th s .unitAbsent (wordOf i) 0 0
  else match (if th.kind = .migrant then migReg i else none) with
  | some n => .trap th s .migReg (wordOf i) (BitVec.ofNat 64 n) 0
  | none =>
    let rw := th.touches (s.core (coreOf tid)) i
    match (if th.sbc then earlyAt th (s.cmds tid) (th.early i rw) s.rot else none) with
    | some p => stallShort th s p s.rot
    | none =>
      let mask := bankMask (rw.1 ++ rw.2)
      let tiles := tileMask rw.2
      if s.busy tid mask tiles then parkOn th s i (.banks mask tiles)
      else body th s

/-- A mismatched transfer, detected before the word that follows it (20 R425). -/
def strayedRes (th : Thread) (s : State) (p : Word) : Res :=
  .detected { th with xfer := none, lastBad := some p } s false p
    (th.flint.setWidth 64 ||| (if th.lastBad = some p then 1#64 <<< 32 else 0))

/-- A thread whose last transfer has gone where it should: nothing of it is left to check. -/
def Thread.landed (th : Thread) : Thread := { th with xfer := none }

/-- The first thing a word does: a mismatched transfer before it is detected; else its checks and its effect. -/
def firstIssue (i : Instr) (tid : Nat) (th : Thread) (s : State) (body : Thread → State → Res) : Res :=
  match th.strayed with
  | some p => strayedRes th s p
  | none => checked i tid th.landed s body

/-- The issue of a word by the current thread: its checks, its effect, its retirement. A word whose park has ended goes
on from there without the checks. -/
def issue (i : Instr) (s : State) (body : Thread → State → Res) : Host.Outcome State Fault Refusal :=
  match s.thread? s.cur with
  | none => .fault .noThread
  | some th =>
    let th := th.settle s.rot
    .next (s.conclude i s.cur th.again.isSome
      (if th.again.isSome then body th s else firstIssue i s.cur th s body))

/-- The issue of a prefix hint (03 R81, R83, R84); like any word it may find the transfer before it mismatched, and one that may not
join its chain is refused. spar names a tile register, which a control thread and a migrant do not have (02 R38, 03 R87 step
7). -/
def issuePrefix (i : Instr) (s : State) : Host.Outcome State Fault Refusal :=
  match s.thread? s.cur with
  | none => .fault .noThread
  | some th =>
    let th := th.settle s.rot
    let c := th.chain.getD ⟨th.pc, [], none, none, false, none, none⟩
    match th.strayed with
    | some p => .next (s.conclude i s.cur false (strayedRes th s p))
    | none =>
      match chainAdd c i with
      | some c =>
        if absentFor th.kind i then .next (s.conclude i s.cur false (.trap { th with xfer := none } s .unitAbsent (wordOf i) 0 0))
        else .next (s.setThread s.cur { th with
          chain := some { c with words := c.words ++ [encode i] }, pc := th.pc + 4, nextRot := s.rot + 1, xfer := none })
      | none => .next (s.conclude i s.cur false (illegal th s (encode i) .chain))

end Sys2Proof.Machine
end

