-- ==== Sys2Proof/Machine/Access.lean ====
section
/-! DEFINITION. Translation and the checks of an access (11 R262 to R268), and the store rule (18 R395, R396). -/

namespace Sys2Proof.Machine

/-! ### Failures -/

/-- A failed access: its cause, its information, and the label of the location the information names (18 R393). -/
structure XFail where
  cause : Cause
  i0 : Word
  i1 : Word
  lab : Label
  deriving DecidableEq, Repr

/-- The information of Table 11.9. -/
def accInfo (addr level stage kind : Nat) : Word :=
  BitVec.ofNat 64 (addr / 4096 * 4096 + level * 32 + stage * 8 + kind)

/-- A failure with the information of Table 11.9. -/
def xf (c : Cause) (va : Word) (addr level stage kind : Nat) (lab : Label) : XFail :=
  ⟨c, va, accInfo addr level stage kind, lab⟩

/-- MEM.POISON and PART.OUT carry a code in TINFO1[11:8] (20 Table 20.1). -/
def physCode : Cause → Nat
  | .memPoison => 1
  | .partOut => 2
  | _ => 0

/-- The information of a physical check (11 Table 11.9). -/
def physInfo (c : Cause) (pa kind : Nat) : Word := BitVec.ofNat 64 (pa / 4096 * 4096 + physCode c * 256 + 7 * 32 + 24 + kind)

/-- A failed physical check. -/
def xphys (c : Cause) (va : Word) (pa kind : Nat) (lab : Label) : XFail := ⟨c, va, physInfo c pa kind, lab⟩

/-- The label of a location: the block label in space 1, the mapping's label elsewhere (11 R252). A table entry has no
mapping, so its label is its block label or empty (log 19). -/
def State.labelAt (s : State) (pa : Nat) (mlab : Label) : Label := if spaceOf pa = 1 then s.blockLabel pa else mlab

/-- PAGE.MISS or PAGE.FORMAT, which names the entry at `addr` (11 Table 11.9): CTXL widens by that location's label
(18 R393). -/
def xent (s : State) (c : Cause) (va : Word) (addr level stage kind : Nat) : XFail :=
  xf c va addr level stage kind (s.labelAt addr 0)

/-! ### Page tables (11 R264, R265) -/

/-- A table entry as the walker found it: its physical address, the stage-2 leaf that maps its table with the PA of that
leaf, its level and its 128 bits. -/
structure Ent where
  phys : Nat
  via : Option (Nat × Nat)
  level : Nat
  e : Nat
  deriving DecidableEq, Repr

/-- The index that a level takes from an address. -/
def idxAt (a level : Nat) : Nat := if level = 4 then fieldAt a 48 8 else fieldAt a (12 + 9 * level) 9
/-- The bytes that a leaf maps. -/
def leafSize (level e : Nat) : Nat :=
  if level = 2 then 2 ^ 30 else if level = 1 then 2 ^ 21 else if bitAt e 8 then 2 ^ 16 else 2 ^ 12
/-- PA of an entry. -/
def entPa (e : Nat) : Nat := fieldAt e 12 40 * 4096
/-- RP and PKG. -/
def entRp (e : Nat) : Option Nat := if bitAt e 60 then some (fieldAt e 52 8) else none
/-- LABEL. -/
def entLab (e : Nat) : Label := BitVec.ofNat 16 (fieldAt e 64 16)

/-- The rules of a leaf; PA of a sparse page is ignored. -/
def goodLeaf (level e : Nat) : Bool :=
  decide (e / 2 ^ 80 = 0) && decide (fieldAt e 61 3 = 0) && decide (fieldAt e 10 2 = 0) &&
  (bitAt e 60 || decide (fieldAt e 52 8 = 0)) && decide (level ≤ 2) && (!bitAt e 8 || decide (level = 0)) &&
  (!bitAt e 6 || decide (entPa e % leafSize level e = 0)) && !(bitAt e 2 && bitAt e 3)

/-- The rules of a table entry. -/
def goodTable (level e : Nat) : Bool := decide (level ≠ 0) && decide (e / 2 ^ 52 = 0) && decide (fieldAt e 2 11 = 0)

/-- Whether tables may lie at an address: it has a home, and is no device register; one among those is reported as a table
with no home (DESIGN CHOICE, log 18). -/
def State.tableAt (s : State) (pa : Nat) : Bool := (s.home pa).isSome && !isDevReg pa

/-- One entry of a table. `map` gives an entry's physical address (11 R265); `bad` is reported for one with no home. -/
def readEnt (s : State) (map : Nat → Except XFail (Nat × Option (Nat × Nat))) (stage kind : Nat) (va : Word) (a level table : Nat)
    (bad : Nat × Nat) : Except XFail Ent :=
  match map (table + 16 * idxAt a level) with
  | .error f => .error f
  | .ok (p, via) =>
    if !s.tableAt p then .error (xent s .pageFormat va bad.1 bad.2 stage kind)
    else
      if s.isPoisoned p 16 then .error (xphys .memPoison va 0 kind 0)
      else
        let e := s.num p 16
        if !bitAt e 0 then .error (xent s .pageMiss va p level stage kind)
        else .ok ⟨p, via, level, e⟩

/-- A leaf that follows its rules. -/
def asLeaf (s : State) (stage kind : Nat) (va : Word) (x : Ent) : Except XFail Ent :=
  if bitAt x.e 1 && goodLeaf x.level x.e then .ok x else .error (xent s .pageFormat va x.phys x.level stage kind)

/-- The walk from a level down. -/
def walk (s : State) (map : Nat → Except XFail (Nat × Option (Nat × Nat))) (stage kind : Nat) (va : Word) (a : Nat) :
    Nat → Nat → Nat × Nat → Except XFail Ent
  | 0, table, bad =>
    match readEnt s map stage kind va a 0 table bad with
    | .error f => .error f
    | .ok x => asLeaf s stage kind va x
  | l + 1, table, bad =>
    match readEnt s map stage kind va a (l + 1) table bad with
    | .error f => .error f
    | .ok x =>
      if bitAt x.e 1 then asLeaf s stage kind va x
      else if !goodTable x.level x.e then .error (xent s .pageFormat va x.phys x.level stage kind)
      else walk s map stage kind va a l (fieldAt x.e 13 39 * 8192) (x.phys, l + 1)

/-- The root of a translation register. -/
def rootOf (r : Word) : Nat := fieldAt r.toNat 12 40 * 4096

/-- The stage-2 leaf of an intermediate address (11 R265). -/
def stage2 (s : State) (p : PPkg) (kind : Nat) (va : Word) (ipa : Nat) : Except XFail Ent :=
  if 2 ^ 56 ≤ ipa then .error (xent s .pageMiss va (rootOf p.s2 + 16 * idxAt ipa 4) 4 2 kind)
  else match walk s (fun t => .ok (t, none)) 2 kind va ipa 4 (rootOf p.s2) (rootOf p.s2, 4) with
  | .error f => .error f
  | .ok x =>
    if entLab x.e = 0 && !bitAt x.e 5 && !bitAt x.e 7 && bitAt x.e 6 then .ok x
    else .error (xent s .pageFormat va x.phys x.level 2 kind)

/-- The address that a stage-2 leaf gives. -/
def stage2Pa (x : Ent) (ipa : Nat) : Nat := entPa x.e + ipa % leafSize x.level x.e

/-- Whether stage 2 is on. -/
def s2On (p : PPkg) : Bool := p.s2.getLsbD 0

/-- How the address of a stage-1 table's entry becomes physical: through the stage-2 leaf of that entry (11 R265). A table in
another package counts as one with no home. -/
def tableMap (s : State) (p : PPkg) (kind : Nat) (va : Word) (t : Nat) :
    Except XFail (Nat × Option (Nat × Nat)) :=
  if !s2On p then .ok (t, none)
  else match stage2 s p kind va t with
  | .error f => .error f
  | .ok x => .ok (if bitAt x.e 60 then 2 ^ 52 else stage2Pa x t, some (x.phys, entPa x.e))

/-- The stage-1 leaf of a virtual address. -/
def stage1 (s : State) (p : PPkg) (kind : Nat) (va : Word) : Except XFail Ent :=
  if !p.s1.getLsbD 0 then .error (xf .pageMiss va 0 7 0 kind 0)
  else walk s (tableMap s p kind va) 1 kind va va.toNat 4 (rootOf p.s1) (rootOf p.s1, 4)

/-- A mapping with a stage-2 leaf applied to the address `ipa` that stage 1 gave. -/
def withStage2 (l : Leaf) (va : Word) (ipa : Nat) (y : Ent) : Leaf :=
  let g := min l.size (leafSize y.level y.e)
  { l with
    base := va.toNat - va.toNat % g
    size := g
    pa := stage2Pa y ipa - va.toNat % g
    w := l.w1 && bitAt y.e 2
    x := l.x1 && bitAt y.e 3
    world := l.world1 || bitAt y.e 4
    rp := entRp y.e
    entry2 := some (y.phys, y.level, ipa / 4096)
    pa2 := entPa y.e
    d2 := bitAt y.e 9 }

/-- The mapping that the page tables give a virtual address. -/
def pageLeaf (s : State) (p : PPkg) (kind : Nat) (va : Word) : Except XFail Leaf :=
  match stage1 s p kind va with
  | .error f => .error f
  | .ok x =>
    let size := leafSize x.level x.e
    let off := va.toNat % size
    let cm := bitAt x.e 6
    let l : Leaf := {
      base := va.toNat - off, size := size, size1 := size, pa := if cm then entPa x.e else 0
      w := bitAt x.e 2, x := bitAt x.e 3, world := bitAt x.e 4, cm := cm, sc := bitAt x.e 5, mx := bitAt x.e 7
      rp := entRp x.e, lab := entLab x.e, entry := x.phys, via := x.via, level := x.level, entry2 := none
      pa1 := entPa x.e, pa2 := 0
      w1 := bitAt x.e 2, x1 := bitAt x.e 3, world1 := bitAt x.e 4, d1 := bitAt x.e 9, d2 := true }
    if !s2On p then .ok l
    else if fieldAt x.e 52 9 ≠ 0 then .error (xent s .pageFormat va x.phys x.level 1 kind)
    else if !cm then .ok l
    else match stage2 s p kind va (entPa x.e + off) with
      | .error f => .error f
      | .ok y => .ok (withStage2 l va (entPa x.e + off) y)

/-! ### Range entries (11 R263) -/

/-- A range entry read from the table. -/
def rangeAt (s : State) (a : Nat) : RangeEnt where
  base := s.num a 8
  limit := s.num (a + 8) 8
  offset := s.num (a + 16) 8
  attr := BitVec.ofNat 32 (s.num (a + 24) 4)
  lab := BitVec.ofNat 16 (s.num (a + 28) 2)
  rsv := decide (s.num (a + 30) 2 ≠ 0) || bitAt (s.num (a + 24) 4) 7 || decide (s.num (a + 26) 2 ≠ 0)
  addr := a

/-- First address of the range table. -/
def rngBase (p : PPkg) : Nat := fieldAt p.rng.toNat 6 46 * 64
/-- The addresses of the range entries in use. -/
def rngAddrs (p : PPkg) : List Nat := (nums (p.rng.toNat % 64)).map fun i => rngBase p + 32 * i

/-- A broken range entry. -/
def badRange (r : RangeEnt) : Bool :=
  decide (r.base % 4096 ≠ 0) || decide (r.limit % 4096 ≠ 0) || decide (2 ^ 56 ≤ r.base) || decide (2 ^ 56 ≤ r.limit) ||
  (r.attr.getLsbD 1 && r.attr.getLsbD 2) || r.rsv

/-- Whether a virtual address hits a range entry. -/
def hitsRange (va : Word) (r : RangeEnt) : Bool :=
  r.attr.getLsbD 0 && decide (r.base ≤ va.toNat) && decide (va.toNat < r.limit)

/-- The mapping that a range entry gives a virtual address. -/
def rangeLeaf (s : State) (p : PPkg) (kind : Nat) (va : Word) (r : RangeEnt) : Except XFail Leaf :=
  let a := r.attr
  let pa := (va.toNat + r.offset) % 2 ^ 64
  let rp := if a.getLsbD 6 then some (fieldAt a.toNat 8 8) else none
  let l : Leaf := {
    base := va.toNat, size := 1, size1 := 1, pa := pa, w := a.getLsbD 1, x := a.getLsbD 2, world := a.getLsbD 3, cm := true
    sc := a.getLsbD 4, mx := a.getLsbD 5, rp := rp, lab := r.lab, entry := r.addr, via := none, level := 7
    entry2 := none, pa1 := 0, pa2 := 0, w1 := a.getLsbD 1, x1 := a.getLsbD 2, world1 := a.getLsbD 3, d1 := true, d2 := true }
  if badRange r then .error (xent s .pageFormat va r.addr 7 0 kind)
  else if !s2On p then .ok l
  else if a.getLsbD 6 || decide (fieldAt a.toNat 8 8 ≠ 0) then .error (xent s .pageFormat va r.addr 7 0 kind)
  else match stage2 s p kind va pa with
    | .error f => .error f
    | .ok y => .ok (withStage2 l va pa y)

/-! ### Translation with the caches of a core (11 R258, R270) -/

/-- For whom an access is made: whose caches, partition, world, TSTAT.TE, and whether a thread makes it. -/
structure Who where
  core : Nat
  part : Nat
  world : Bool
  te : Bool
  thread : Bool
  deriving DecidableEq, Repr

/-- The access of a thread. -/
def whoIs (tid : Nat) (th : Thread) : Who := ⟨coreOf tid, th.part, th.world, th.te, true⟩

/-- The range cache filled at its first use; an entry with no home breaks every access (11 R264). -/
def State.loadRanges (s : State) (w : Who) (va : Word) (kind : Nat) : Except XFail (State × List RangeEnt) :=
  match (s.pcore w.core w.part).rcache with
  | some l => .ok (s, l)
  | none =>
    let p := s.pp w.part
    if (rngAddrs p).any fun a => !s.tableAt a then .error (xent s .pageFormat va (rngBase p) 7 0 kind)
    else if (rngAddrs p).any fun a => s.isPoisoned a 32 then .error (xphys .memPoison va 0 kind 0)
    else
      let l := (rngAddrs p).map (rangeAt s)
      .ok (s.modPCore w.core w.part fun c => { c with rcache := some l }, l)

/-- Whether a cached mapping covers an address. -/
def covers (va : Word) (l : Leaf) : Bool := decide (l.base ≤ va.toNat) && decide (va.toNat < l.base + l.size)

/-- Whether a write through a cached mapping that is not yet dirty still finds every entry in which it may set D with V = 1
and the same PA: those of both stages, and the stage-2 leaf that maps the stage-1 table; else the walk starts again
(11 R266). -/
def stillThere (s : State) (l : Leaf) : Bool :=
  let here (a pa : Nat) : Bool := let e := s.num a 16; bitAt e 0 && decide (entPa e = pa)
  here l.entry l.pa1 && (match l.entry2 with
    | some (a, _, _) => here a l.pa2
    | none => true) && (match l.via with
    | some (a, pa) => here a pa
    | none => true)

/-- A walked mapping put in the translation cache. A sparse page is never cached (13 R316). -/
def State.cacheLeaf (s : State) (w : Who) (va : Word) (l : Leaf) : State :=
  s.modPCore w.core w.part fun c => { c with
    tlb := (if l.cm then [l] else []) ++ c.tlb.filter fun x => !covers va x }

/-- The mapping of an address through the page tables: an old cached one or the present one, as the free value
chooses, where they differ (11 R270). -/
def State.pageOf (s : State) (w : Who) (va : Word) (kind : Nat) : State × Except XFail Leaf :=
  let now := pageLeaf s (s.pp w.part) kind va
  let fresh := match now with
    | .ok l => (s.cacheLeaf w va l, now)
    | .error _ => (s, now)
  match (s.pcore w.core w.part).tlb.find? (covers va) with
  | none => fresh
  | some l =>
    if now = .ok l then (s, now)
    else if (decide (kind = 1) || decide (kind = 2)) && !(l.d1 && l.d2) && !stillThere s l then fresh
    else if Config.useCached s.freeCtr then ({ s with freeCtr := s.freeCtr + 1 }, .ok l)
    else ({ fresh.1 with freeCtr := s.freeCtr + 1 }, now)

/-- Translation: the range entries first, then the page tables (11 R267). -/
def State.translate (s : State) (w : Who) (va : Word) (kind : Nat) : State × Except XFail Leaf :=
  if 2 ^ 56 ≤ va.toNat then (s, .error ⟨.memCanon, va, BitVec.ofNat 64 kind, 0⟩)
  else match s.loadRanges w va kind with
  | .error f => (s, .error f)
  | .ok (s, l) =>
    match l.find? (hitsRange va) with
    | some r => (s, rangeLeaf s (s.pp w.part) kind va r)
    | none => s.pageOf w va kind

/-- The physical address of a mapping; of a sparse page, 0. -/
def leafPa (l : Leaf) (va : Word) : Nat := if l.cm then l.pa + (va.toNat - l.base) else 0

/-! ### Checks (11 R267) -/

/-- What an access asks of the checks. -/
structure Want where
  /-- Access kind of Table 11.9. -/
  kind : Nat
  size : Nat
  /-- A full/empty access (R251). -/
  fe : Bool := false
  /-- A sum-cell form (R312). -/
  sum : Bool := false
  /-- ld, lda, vld or tld of a thread: it may read a bead slot (15 R366). -/
  slotRead : Bool := false
  /-- A 64-bit scalar load or store: a device register accepts it (R302). -/
  word : Bool := false
  /-- An integer atomic, and whether the host window takes it (R311). -/
  atom : Option Bool := none
  /-- A vst whose KM is not 0 (22 R440). -/
  masked : Bool := false
  deriving DecidableEq, Repr

/-- A checked piece of an access. -/
structure Place where
  va : Word
  pa : Nat
  leaf : Leaf
  home : Node
  /-- Its home is the issuing core's own local store (13 R298). -/
  here : Bool
  /-- An egress location (18 R395). -/
  egress : Bool
  deriving DecidableEq, Repr

/-- A write, for permissions. -/
def isWrite (kind : Nat) : Bool := decide (kind = 1) || decide (kind = 2)

/-- Level and stage of a mapping's stage-1 leaf or range entry. -/
def leafPlace (l : Leaf) : Nat × Nat := if l.level = 7 then (7, 0) else (l.level, 1)
/-- Level and stage of the mapping that decides: stage 1 when it does, else stage 2 (11 R268). -/
def decided (l : Leaf) (first : Bool) : Nat × Nat :=
  if first then leafPlace l else match l.entry2 with
    | some (_, n, _) => (n, 2)
    | none => leafPlace l

/-- PAGE.PERM and MEM.WORLD, which name the location, whose label is given, and, where the leaf's commitment counts,
PAGE.UNCOMMIT, which names the leaf as well, whose location's label is given too (18 R393). -/
def leafFail (w : Who) (kind : Nat) (va : Word) (l : Leaf) (lab : Label) (uncommit : Option Label) : Option XFail :=
  if isWrite kind && !l.w then
    let (n, st) := decided l (!l.w1)
    some (xf .pagePerm va (leafPa l va) n st kind lab)
  else if decide (kind = 3) && !l.x then
    let (n, st) := decided l (!l.x1)
    some (xf .pagePerm va (leafPa l va) n st kind lab)
  else if l.world && !w.world then
    let (n, st) := decided l l.world1
    some (xf .memWorld va (leafPa l va) n st kind lab)
  else if l.cm then none
  else uncommit.map fun e => xf .pageUncommit va l.entry l.level 1 kind (l.lab ||| e)

/-- Whether a mapping leads to another package (22 R444). -/
def State.away (s : State) (l : Leaf) : Bool := match l.rp with | some k => decide (k ≠ s.fixed.pkgId.toNat) | none => false

/-- The label of the location that a leaf maps an address to; a leaf with CM = 0 maps it to none, and its own label
stands (11 R252, R271; 18 R393). -/
def State.leafLabel (s : State) (l : Leaf) (va : Word) : Label :=
  if l.cm && !s.away l && (s.home (leafPa l va)).isSome then s.labelAt (leafPa l va) l.lab else l.lab

/-- The reduction window of a line: its format code (22 R440). -/
def State.redFmt (s : State) (part pa : Nat) (sc : Bool) : Option Nat :=
  if sc || decide (spaceOf pa = 3) then none
  else (((s.pp part).redWin.toList.filter fun r =>
      let n := r.toNat
      decide (1 ≤ fieldAt n 8 4) && decide (fieldAt n 8 4 ≤ 4) && decide (fieldAt n 12 40 * 4096 ≤ pa) &&
      decide (pa < fieldAt n 12 40 * 4096 + n % 256 * 4096)).head?).map fun r => fieldAt r.toNat 8 4

/-- Bank ownership and reserved areas (11 R246, R250). -/
def placeFail (s : State) (w : Who) (q : Want) (l : Leaf) (pa : Nat) : Option Cause :=
  if spaceOf pa ≠ 1 then none
  else
    let c := coreOfPa pa
    let off := pa % 2 ^ 19
    let d := s.pdie (dieOf c) w.part
    if !ownsOff d off then some .memPart
    else match areaOf d off with
      | .plain => none
      | .bead _ => if q.slotRead && w.thread && decide (c = w.core) && l.rp.isNone then none else some .memResv
      | .migrant => some .memResv
      | .save => if w.thread && decide (c = w.core) && !w.te && l.rp.isNone then none else some .memResv

/-- The last physical checks: what a device register accepts, full/empty space, sum cells, widths, host atomics (11 R251,
R261; 13 R302, R311; 22 R440). A fetch from a page or range with SC = 1 passes: R261 does not name fetches among the
accesses that take MEM.SUMCELL (DESIGN CHOICE, log 22). -/
def spaceFail (s : State) (w : Who) (q : Want) (l : Leaf) (va : Word) (pa : Nat) : Option Cause :=
  if isDevReg pa && !q.word then some .memWidth
  else if q.fe && decide (spaceOf pa ≠ 1) then some .feSpace
  else if (if q.sum then !l.sc || decide (va.toNat % 32 ≠ 0) || isHostWin pa else l.sc && (q.fe || isWrite q.kind)) then
    some .memSumcell
  else if q.masked && !s.away l && (s.redFmt w.part pa l.sc).isSome then some .memWidth
  else if isHostWin pa && decide (q.atom = some false) then some .atomSpace
  else none

/-- The physical checks, in order, and the home. No other package is reached without Delfort ports (00 R2, 22 R444). -/
def physFail (s : State) (w : Who) (q : Want) (l : Leaf) (va : Word) (pa : Nat) : Option Cause :=
  if !q.sum && decide (va.toNat % min q.size 64 ≠ 0) then some .memAlign
  else if l.rp.isSome && !s.isModule then some .memPa
  else if s.away l then spaceFail s w q l va pa
  else if (s.home pa).isNone then some .memPa
  else (placeFail s w q l pa).or (spaceFail s w q l va pa)

/-- Every check of one piece but its D bits and labels (11 R267). -/
def State.check (s : State) (w : Who) (q : Want) (va : Word) : State × Except XFail Place :=
  match s.translate w va q.kind with
  | (s, .error f) => (s, .error f)
  | (s, .ok l) =>
    match leafFail w q.kind va l (s.leafLabel l va) (some (s.labelAt l.entry 0)) with
    | some f => (s, .error f)
    | none =>
      let pa := leafPa l va
      match physFail s w q l va pa with
      | some c => (s, .error (xphys c va pa q.kind (s.leafLabel l va)))
      | none =>
        let home := if s.away l then Node.port (l.rp.getD 0) else (s.home pa).getD (.host 0)
        (s, .ok ⟨va, pa, l, home, l.rp.isNone && decide (home = .core w.core), l.rp.isSome || isHostWin pa⟩)

/-- Bit 9 of an entry set. -/
def State.dirtyEnt (s : State) (a : Nat) : State :=
  let e := s.num a 16
  if bitAt e 9 then s else s.putNum a 16 (e + 2 ^ 9)

/-- D set in the leaf, at both stages, before a write through it (11 R266). Setting the D of a stage-1 entry sets that of the
stage-2 leaf which maps its table, and asks for no W there: R266 calls it a write and names no check of it (DESIGN CHOICE,
log 18). -/
def State.setDirty (s : State) (w : Who) (p : Place) : State :=
  let l := p.leaf
  if l.level = 7 then (match l.entry2 with
    | some (a, _, _) => s.dirtyEnt a
    | none => s)
  else
    let s := if l.d1 then s else match l.via with
      | some v => (s.dirtyEnt v.1).dirtyEnt l.entry
      | none => s.dirtyEnt l.entry
    let s := if l.d2 then s else match l.entry2 with
      | some (a, _, _) => s.dirtyEnt a
      | none => s
    if l.d1 && l.d2 then s else s.modPCore w.core w.part fun c =>
      { c with tlb := c.tlb.map fun (x : Leaf) => if x = l then { x with d1 := true, d2 := true } else x }

/-- D set for every piece of a write. -/
def State.setDirties (s : State) (w : Who) (kind : Nat) (l : List Place) : State :=
  if isWrite kind then l.foldl (fun s p => s.setDirty w p) s else s

/-- The checks of every piece, an address and a size, in order; the first failure ends them. -/
def State.checkAll (s : State) (w : Who) (q : Want) : List (Word × Nat) → State × Except XFail (List Place)
  | [] => (s, .ok [])
  | (va, n) :: l =>
    match s.check w { q with size := n } va with
    | (s, .error f) => (s, .error f)
    | (s, .ok p) =>
      match s.checkAll w q l with
      | (s, .error f) => (s, .error f)
      | (s, .ok ps) => (s, .ok (p :: ps))

/-! ### The store rule (18 R395, R396) -/

/-- A partition's owner set. -/
def State.owner (s : State) (part : Nat) : Label :=
  if (s.pp part).ownV then 1#16 <<< (s.pp part).own.toNat else 0

/-- Whether a label is a subset of another. -/
def fits (l m : Label) : Bool := decide (l &&& ~~~m = 0)

/-- What the store rule says of a write. -/
inductive Rule where
  | pass
  /-- The block label widens. -/
  | widen
  | fail (egress : Bool)
  deriving DecidableEq, Repr

/-- The store rule. -/
def storeRule (s : State) (part : Nat) (lv loc : Label) (pa : Nat) (mx egress : Bool) : Rule :=
  if egress && !fits lv (s.owner part) then .fail true
  else if fits lv loc then .pass
  else if decide (spaceOf pa = 1) && mx then .widen
  else .fail false

/-- The information of LABEL.STORE. -/
def storeInfo (lv loc : Label) (egress home : Bool) : Word :=
  BitVec.ofNat 64 (lv.toNat + loc.toNat * 2 ^ 16 + b2n egress * 2 ^ 32 + b2n home * 2 ^ 33)

/-- Whether the issuing core makes the check (13 R300). -/
def checkedHere (p : Place) : Bool := p.here || decide (spaceOf p.pa ≠ 1)

/-- The label check of one piece at the issuing core. -/
def State.labelFail (s : State) (part : Nat) (lv : Label) (p : Place) : Option XFail :=
  let loc := s.labelAt p.pa p.leaf.lab
  if checkedHere p then
    match storeRule s part lv loc p.pa p.leaf.mx p.egress with
    | .fail e => some ⟨.labelStore, p.va, storeInfo lv loc e false, loc⟩
    | _ => none
  else if p.egress && !fits lv (s.owner part) then some ⟨.labelStore, p.va, storeInfo lv loc true false, loc⟩
  else none

end Sys2Proof.Machine
end

