-- ==== Sys2Proof/Machine/Homes.lean ====
section
/-! DEFINITION. What a home does for one piece of an access: reads, writes, atomics, full/empty words, sum cells, reduction
windows, ring queues, completion objects and byte barriers (11 R256 to R260; 12 R279, R289, R290; 13 R300 to R312;
09 R230 to R234; 15 R376 to R379; 22 R440 to R442). -/

namespace Sys2Proof.Machine

/-! ### Answers -/

/-- An answer on its way to its source. -/
structure Out where
  dst : Node
  owner : Owner
  idx : Nat
  r : Resp
  deriving DecidableEq, Repr

/-- A performed piece. -/
def answer (bytes : List Byte) (lab : Label) (fl : Flags) : Resp := ⟨true, bytes, lab, fl, .memPa, 0, false⟩

/-- A refusal (13 R301). -/
def refusal (c : Cause) (i1 : Word) (lab : Label) : Resp := ⟨false, [], lab, 0, c, i1, false⟩

/-- The flags of the roundings on the way in which the first source's write took part (22 R441, R443). -/
def flagsOnWay : Req → Flags
  | .redAdd _ _ fl => fl
  | _ => 0

/-- The answers to every source of a message, each with the flags of the roundings in which its write took part (22 R441,
R443). A refusal names the address of the access. -/
def outsOf (m : Msg) (r : Resp) : List Out :=
  let r := if r.ok || !r.bytes.isEmpty then r else { r with bytes := toBytes 8 m.va.toNat }
  let own (fl : Flags) : Resp := if r.ok then { r with flags := r.flags ||| fl } else r
  ⟨m.src, m.owner, m.idx, own (flagsOnWay m.req)⟩ :: m.others.map fun (n, o, i, fl) => ⟨n, o, i, own fl⟩

/-- The access kind of Table 11.9. -/
def reqKind : Req → Nat
  | .read _ | .label | .objState _ | .bbwait => 0
  | .fe op _ => match op with
    | .take => 2
    | .peek | .tst => 0
    | .fill | .force | .clr => 1
  | .write _ | .bbset _ | .mcast _ _ _ => 1
  | .atomic _ _ _ _ | .sumAdd _ _ | .redAdd _ _ _ | .qput _ _ | .qget | .dep _ _ _ | .pool _ _ _ => 2

/-- The bytes a request covers. -/
def reqLen : Req → Nat
  | .read n => n
  | .write l => l.length
  | .mcast l _ _ => l.length
  | .atomic _ w _ _ => match w with | .w32 => 4 | .w64 => 8
  | .sumAdd _ _ => 32
  | .redAdd _ _ _ | .qput _ _ | .qget => 64
  | .objState _ => 1
  | .fe _ _ | .label | .bbset _ | .bbwait | .dep _ _ _ | .pool _ _ _ => 8

/-- A request that returns data, for the rule of inbound reads (18 R397). -/
def isReading (r : Req) : Bool := match r with
  | .read _ | .label | .objState _ | .bbwait | .atomic _ _ _ _ | .qget => true
  | .fe op _ => match op with
    | .take | .peek | .tst => true
    | .fill | .force | .clr => false
  | _ => false

/-! ### Poison (20 R426) -/

/-- A store that writes the whole poisoned unit and nothing else, or stfe.force: it clears the poison. -/
def clears (pa : Nat) : Req → Bool
  | .write l => decide (l.length = (if spaceOf pa = 1 then 8 else 64)) && l.all (·.isSome)
  | .fe .force _ => true
  | _ => false

/-! ### Sum cells (11 R259, R260) -/

/-- m × 2^(−k) to the nearest integer, ties to even, and whether it was exact. -/
def rneShift (m k : Nat) : Nat × Bool :=
  let q := m / 2 ^ k
  let r := 2 * (m % 2 ^ k)
  (if decide (2 ^ k < r) || (decide (r = 2 ^ k) && decide (q % 2 = 1)) then q + 1 else q, decide (r = 0))

/-- The addend and the flags of an FP value (R260). -/
def sumTerm (f : Fmt) (x : Nat) : BitVec 248 × BitVec 5 :=
  match numOf f x with
  | .nan _ _ => (0, 0b00100)
  | .inf false => (0, 0b01000)
  | .inf true => (0, 0b10000)
  | .fin neg m e =>
    let k := e + 120
    let (n, exact) := if 0 ≤ k then (m * 2 ^ k.toNat, true) else rneShift m (-k).toNat
    let fl : BitVec 5 := if exact then 0 else 1
    let v : Int := if neg then -(n : Int) else n
    if v < -(2 ^ 247 : Nat) ∨ (2 ^ 247 : Nat) ≤ v then (0, fl ||| 2) else (BitVec.ofInt 248 v, fl)

/-- A cell after one add. -/
def sumAdded (cell : Nat) (d : BitVec 248) (fl : BitVec 5) : Nat :=
  let st := cell / 2 ^ 248 % 256
  (cell + d.toNat) % 2 ^ 248 + (st ||| fl.toNat) * 2 ^ 248

/-- sread: the cell's value rounded, with the flags of the rounding (13 R312). -/
def sumValue (f : Fmt) (m : RMode) (cell : Nat) : Nat × Flags :=
  let st := cell / 2 ^ 248
  if bitAt st 2 || (bitAt st 3 && bitAt st 4) then (f.nanc, 0)
  else if bitAt st 3 then (signCode f false (f.infc.getD 0), 0)
  else if bitAt st 4 then (signCode f true (f.infc.getD 0), 0)
  else
    let v := intOf true 248 (cell % 2 ^ 248)
    roundDy f ⟨m, fun _ => none⟩ 0 false v (-120)

/-! ### Reduction windows (22 R441, R442) -/

/-- Round to nearest even without draws. -/
def rneOnly : Rnd := ⟨.rne, fun _ => none⟩

/-- A finite value rounded with the exponent unbounded above: its sign, its code and whether it is inexact or tiny. -/
def roundOpen (f : Fmt) (neg : Bool) (m : Nat) (e : Int) : Nat × Flags :=
  if m = 0 then (0, 0)
  else
    let x : Int := Nat.log2 m + e
    let emin : Int := 1 - f.bias
    let q0 := x - f.t
    let q := max q0 (emin - f.t)
    let (n, inexact) := roundAt rneOnly 0 neg m e false q
    let (n0, _) := roundAt rneOnly 0 neg m e false q0
    let tiny := decide (q0 < emin - f.t) && !(decide (q0 + 1 = emin - f.t) && decide (n0 = 2 ^ (f.t + 1)))
    ((q - (emin - f.t)).toNat * 2 ^ f.t + n,
      (if inexact then fInexact else 0) ||| (if tiny && inexact then fUnderflow else 0))

/-- The sum of two elements of MX blocks, each with the exponent of its scale: a NaN, an infinity, or an exact value. -/
def mxPair (a b : Num) (da db : Int) : Num × Flags :=
  let sig := if isSig a || isSig b then fInvalid else 0
  if isNan a || isNan b then (.nan false none, sig)
  else match a, b with
    | .inf n, .inf n' => if n = n' then (.inf n, 0) else (.nan false none, fInvalid)
    | .inf n, _ => (.inf n, 0)
    | _, .inf n => (.inf n, 0)
    | .fin n m e, .fin n' m' e' =>
      let (v, x) := dyAdd ((if n then -(m : Int) else m), e + da) ((if n' then -(m' : Int) else m'), e' + db)
      (.fin (if v = 0 then n && n' else decide (v < 0)) v.natAbs x, 0)
    | _, _ => (.nan false none, 0)

/-- A combined element with the block's exponent raised by `up`: its code, whether it is too large, and its flags. -/
def mxElem (f : Fmt) (up : Int) (x : Num) : Nat × Bool × Flags :=
  match x with
  | .nan _ _ => (f.nanc, false, 0)
  | .inf n => (signCode f n (f.infc.getD f.maxc), false, 0)
  | .fin n m e =>
    let (c, fl) := roundOpen f n m (e - up)
    if f.maxc < c then (signCode f n (f.infc.getD f.maxc), true, fOverflow ||| fInexact)
    else (signCode f n c, false, fl)

/-- The union of the flags of combined elements. -/
def mxFlags (l : List (Nat × Bool × Flags)) : Flags := l.foldl (fun a x => a ||| x.2.2) 0

/-- Two MX blocks combined (22 R442). -/
def mxCombine (f : Fmt) (a b : List Nat) : List Nat × Flags :=
  let sa := a.getD 32 0
  let sb := b.getD 32 0
  let tail := List.replicate 31 0
  if sa = 0xFF || sb = 0xFF then (List.replicate 32 f.nanc ++ [0xFF] ++ tail, 0)
  else
    let sc := max sa sb
    let sums := (nums 32).map fun i =>
      mxPair (numOf f (a.getD i 0)) (numOf f (b.getD i 0)) ((sa : Int) - sc) ((sb : Int) - sc)
    let inv : Flags := sums.foldl (fun x y => x ||| y.2) 0
    let r := sums.map fun x => mxElem f 0 x.1
    let r2 := sums.map fun x => mxElem f 1 x.1
    if r.any (·.2.1) && decide (sc < 254) && !r2.any (·.2.1) then
      (r2.map (·.1) ++ [sc + 1] ++ tail, inv ||| mxFlags r2)
    else (r.map (·.1) ++ [sc] ++ tail, inv ||| mxFlags r)

/-- The elements of a line. -/
def lineElems (w : Nat) (l : List Byte) : List Nat :=
  (nums (64 / w)).map fun i => fromBytes ((l.drop (i * w)).take w)

/-- Two lines of an element format added. -/
def lineAdd (f : Fmt) (a b : List Byte) : List Byte × Flags :=
  let w := f.width / 8
  let r := ((lineElems w a).zip (lineElems w b)).map fun (x, y) => fAdd f rneOnly 0 x y
  ((r.map fun x => toBytes w x.1).flatten, r.foldl (fun z x => z ||| x.2) 0)

/-- Two lines of a window combined (22 Table 22.2). -/
def redCombine (fmt : Nat) (a b : List Byte) : List Byte × Flags :=
  if fmt = 1 then lineAdd fp32 a b
  else if fmt = 2 then lineAdd bf16 a b
  else
    let (r, fl) := mxCombine (if fmt = 3 then e4m3 else e5m2) (a.map (·.toNat)) (b.map (·.toNat))
    (r.map (BitVec.ofNat 8), fl)

/-! ### Ring queues (09 R230, R231) -/

/-- A ring descriptor. -/
structure Ring where
  base : Word
  caplog : Nat
  head : Nat
  tail : Nat
  deriving DecidableEq, Repr

/-- The check of a descriptor: its reason, or the ring. Of several faults the lowest reason is reported, and a BASE
that is not canonical is reported as a misaligned one (DESIGN CHOICE, log 66). -/
def ringAt (s : State) (pa : Nat) : Except Nat Ring :=
  let base := s.num pa 8
  let caplog := s.num (pa + 8) 1
  let zero := decide (s.num (pa + 9) 7 = 0) && decide (s.num (pa + 0x14) 4 = 0) && decide (s.num (pa + 0x1C) 36 = 0)
  if 20 < caplog then .error 2
  else if !zero then .error 3
  else if decide (base % 8 ≠ 0) || decide (2 ^ 56 ≤ base) then .error 4
  else .ok ⟨BitVec.ofNat 64 base, caplog, s.num (pa + 0x10) 4, s.num (pa + 0x18) 4⟩

/-- Elements in a ring. -/
def Ring.count (d : Ring) : Nat := (d.tail + 2 ^ 32 - d.head) % 2 ^ 32
/-- The virtual address of an element. -/
def Ring.slotOf (d : Ring) (i : Nat) : Word := d.base + BitVec.ofNat 64 (8 * (i % 2 ^ d.caplog))

/-- A refusal with the trap information of a failed check. -/
def refuseX (f : XFail) : Resp := ⟨false, toBytes 8 f.i0.toNat, f.lab, 0, f.cause, f.i1, false⟩

/-- For whom a home translates an element's address. -/
def elemWho (m : Msg) : Who := ⟨(match m.src with | .core c => c | _ => 0), m.part, m.world, true, false⟩

/-! ### Writes under the store rule -/

/-- The value label of a message: the owner set of its partition when it enters from outside (18 R397). -/
def State.lvOf (s : State) (m : Msg) : Label := if m.inbound then s.owner m.part else m.lv

/-- A write under the store rule at its home, with value label `lv` (18 R395). -/
def State.ruled (s : State) (m : Msg) (lv : Label) (f : State → State × Resp) : State × Option Resp :=
  let loc := s.labelAt m.pa m.mlab
  match storeRule s m.part lv loc m.pa m.mx false with
  | .fail e => (s, some (refusal .labelStore (storeInfo lv loc e true) loc))
  | .pass => let (s, r) := f s; (s, some r)
  | .widen => let (s, r) := f s; (s.setBlockLabel m.pa (loc ||| lv), some r)

/-! ### Atomics (13 R309) -/

/-- Width of an atomic in bytes. -/
def awBytes : AWid → Nat
  | .w32 => 4 | .w64 => 8

/-- The new value of an atomic. -/
def atomNew (op : AtomOp) (n : Nat) (m b x : Nat) : Nat :=
  let w := 8 * n
  let sm := intOf true w m
  let sb := intOf true w b
  match op with
  | .add => (m + b) % 2 ^ w
  | .and => m &&& b
  | .or => m ||| b
  | .xor => m ^^^ b
  | .minI => if sm ≤ sb then m else b
  | .maxI => if sm ≤ sb then b else m
  | .minN => min m b
  | .maxN => max m b
  | .swap => b
  | .cas => if m = x then b else m

/-! ### Performing one request -/

/-- A full/empty operation whose condition holds (12 R289); none while it does not. -/
def State.feOp (s : State) (m : Msg) (op : FeOp) (x : Word) : State × Option Resp :=
  let full := s.isFull m.pa
  let loc := s.labelAt m.pa m.mlab
  let word := s.bytes m.pa 8
  match op with
  | .take => if full then (s.setFull m.pa false, some (answer word loc 0)) else (s, none)
  | .peek => if full then (s, some (answer word loc 0)) else (s, none)
  | .fill =>
    if full then (s, none)
    else s.ruled m (s.lvOf m) fun s => ((s.putNum m.pa 8 x.toNat).setFull m.pa true, answer [] loc 0)
  | .force => s.ruled m (s.lvOf m) fun s =>
      (((s.putNum m.pa 8 x.toNat).setFull m.pa true).unpoison m.pa, answer [] loc 0)
  | .clr => ((s.setFull m.pa false).setBlockLabel m.pa (loc ||| s.lvOf m), some (answer [] loc 0))
  | .tst => (s, some (answer (toBytes 8 (b2n full)) loc 0))

/-- What refuses the access of a ring's element after its checks: another package, where nothing answers (22 R444), and poison
that the access does not clear (13 R301, 20 R426). -/
def State.elemRefused (s : State) (p : Place) (kind : Nat) (req : Req) : Option Resp :=
  let el := s.labelAt p.pa p.leaf.lab
  if s.away p.leaf then some (refuseX (xphys .memPa p.va p.pa kind el))
  else if s.isPoisoned p.pa 8 && !clears p.pa req then some (refuseX (xphys .memPoison p.va p.pa kind el))
  else none

/-- A refused inbound read is counted (18 R397). -/
def State.denied (s : State) (part : Nat) : State := s.modPP part fun p => { p with denied := p.denied + 1 }

/-- A refused request counted, when it is an inbound read (18 R397). -/
def State.refusedRead (s : State) (m : Msg) : State := if m.inbound && isReading m.req then s.denied m.part else s

/-- A rel that wrote is counted (18 R404). -/
def State.released (s : State) (part : Nat) : State := s.modPP part fun p => { p with released := p.released + 1 }

/-- A put in a ring, or a take from it (09 R231); none while it must wait. A take answers with the element and the label
of its location. QUEUE.DESC names the descriptor, so CTXL widens by its label (DEDUCED from 20 R410, log 66). An element whose mapping loops back through a port is accessed under the partition's owner set (18 R397, 22
R444). -/
def State.ringOp (s : State) (m : Msg) (put : Option (Word × Label)) : State × Option Resp :=
  let loc := s.labelAt m.pa m.mlab
  match ringAt s m.pa with
  | .error r => (s, some (refuseX ⟨.queueDesc, m.va, BitVec.ofNat 64 r, loc⟩))
  | .ok d =>
    match put with
    | some (x, l) =>
      if d.count < 2 ^ d.caplog then
        match s.check (elemWho m) { kind := 1, size := 8 } (d.slotOf d.tail) with
        | (s, .error f) => (s, some (refuseX f))
        | (s, .ok p) =>
          let el := s.labelAt p.pa p.leaf.lab
          let word : Req := .write ((toBytes 8 x.toNat).map some)
          let lv := if p.leaf.rp.isSome then s.owner m.part else l
          let go (s : State) : State × Option Resp :=
            let s := (s.setDirty (elemWho m) p).putNum p.pa 8 x.toNat
            let s := if clears p.pa word then s.unpoison p.pa else s
            (s.putNum (m.pa + 0x18) 4 ((d.tail + 1) % 2 ^ 32), some (answer [] loc 0))
          if p.egress && !fits l (s.owner m.part) then (s, some (refuseX ⟨.labelStore, p.va, storeInfo l el true true, el⟩))
          else match s.elemRefused p 1 word with
          | some r => (s, some r)
          | none =>
            match storeRule s m.part lv el p.pa p.leaf.mx p.egress with
            | .fail e => (s, some (refuseX ⟨.labelStore, p.va, storeInfo lv el e true, el⟩))
            | .pass => go s
            | .widen => go (s.setBlockLabel p.pa (el ||| lv))
      else (s, none)
    | none =>
      if 0 < d.count then
        match s.check (elemWho m) { kind := 0, size := 8 } (d.slotOf d.head) with
        | (s, .error f) => (s, some (refuseX f))
        | (s, .ok p) =>
          let el := s.labelAt p.pa p.leaf.lab
          match s.elemRefused p 0 (.read 8) with
          | some r => (if p.leaf.rp.isSome && !s.away p.leaf then s.denied m.part else s, some r)
          | none =>
            if p.leaf.rp.isSome && !fits el (s.owner m.part) then
              (s.denied m.part, some (refuseX ⟨.labelStore, p.va, storeInfo el (s.owner m.part) true true, el⟩))
            else
              (s.putNum (m.pa + 0x10) 4 ((d.head + 1) % 2 ^ 32), some (answer (s.bytes p.pa 8 ++ toBytes 2 el.toNat) loc 0))
      else (s, none)

/-- A byte barrier's word: COUNT and TARGET (15 R377). -/
def bbOf (x : Nat) : Nat × Nat := (x % 2 ^ 32, x / 2 ^ 32)

/-- What a memory home does for a request whose checks at the home have passed; none when its condition does not
hold. -/
def State.performReq (s : State) (m : Msg) : State × Option Resp :=
  let loc := s.labelAt m.pa m.mlab
  let lv := s.lvOf m
  match m.req with
  | .read n => (s, some (answer (s.bytes m.pa n) loc 0))
  | .write l => s.ruled m lv fun s =>
      let s := s.putBytes m.pa l
      (if clears m.pa m.req then s.unpoison m.pa else s, answer [] loc 0)
  | .atomic op w b x =>
    let n := awBytes w
    let old := s.num m.pa n
    let new := atomNew op n old (b.toNat % 2 ^ (8 * n)) (x.toNat % 2 ^ (8 * n))
    s.ruled m (lv ||| loc) fun s => (if new = old then s else s.putNum m.pa n new, answer (toBytes n old) loc 0)
  | .fe op x => s.feOp m op x
  | .sumAdd d fl => s.ruled m lv fun s => (s.putNum m.pa 32 (sumAdded (s.num m.pa 32) d fl), answer [] loc 0)
  | .redAdd l fmt _ => s.ruled m lv fun s =>
      let (r, f) := redCombine fmt (s.bytes m.pa 64) l
      (s.putBytes m.pa (r.map some), answer [] (loc ||| lv) f)
  | .qput x vl => s.ringOp m (some (x, vl))
  | .qget => s.ringOp m none
  | .label => (s, some (answer (toBytes 8 loc.toNat) loc 0))
  | .objState wait =>
    let st := s.num m.pa 1
    if wait && decide (st = 1) then (s, none) else (s, some (answer (toBytes 8 st) loc 0))
  | .bbset t => s.ruled m lv fun s => (s.putNum m.pa 8 (t.toNat * 2 ^ 32), answer [] loc 0)
  | .bbwait =>
    let (c, t) := bbOf (s.num m.pa 8)
    if t ≤ c then (s, some (answer [] loc 0)) else (s, none)
  | .mcast l bar _ => s.ruled m lv fun s =>
      let s := s.putBytes m.pa (l.map some)
      (match bar with
        | none => s
        | some b =>
          let (c, t) := bbOf (s.num b 8)
          (s.putNum b 8 (min (c + l.length) (2 ^ 32 - 1) + t * 2 ^ 32)).setBlockLabel b (s.blockLabel b ||| lv),
        answer [] loc 0)
  | .dep _ _ _ | .pool _ _ _ => (s, some (answer [] 0 0))

/-- A byte barrier that a multicast piece would count in, and that is poisoned (20 R426). -/
def State.barPoisoned (s : State) (m : Msg) : Option Nat :=
  match m.req with
  | .mcast _ (some b) _ => if s.isPoisoned b 8 then some b else none
  | _ => none

/-- What a memory home does for a request: the refusals of 13 R301 and 18 R397, then the request. -/
def State.performMem (s : State) (m : Msg) : State × Option Resp :=
  let loc := s.labelAt m.pa m.mlab
  if m.inbound && isReading m.req && !fits loc (s.owner m.part) then
    (s.denied m.part, some (refusal .labelStore (storeInfo loc (s.owner m.part) true true) loc))
  else if s.isPoisoned m.pa (reqLen m.req) && !clears m.pa m.req then
    (s.refusedRead m, some (refusal .memPoison (physInfo .memPoison m.pa (reqKind m.req)) loc))
  else match s.barPoisoned m with
  | some b => (s, some (refusal .memPoison (physInfo .memPoison b 2) (s.blockLabel b)))
  | none => s.performReq m

/-! ### Waiters (12 R289, 09 R233, 15 R378, R379) -/

/-- The class of a waiting request: 0 full/empty, 1 queue, 2 the rest. -/
def waitClass : Req → Nat
  | .fe _ _ => 0
  | .qput _ _ | .qget => 1
  | _ => 2

/-- Whether a performed request may release a waiter. -/
def mayRelease (m w : Msg) : Bool :=
  decide (w.dst = m.dst) &&
  (if waitClass w.req = 2 then decide (reqKind m.req ≠ 0) else decide (waitClass m.req = waitClass w.req) && decide (w.pa = m.pa))

/-- The oldest waiter that may be released and whose condition holds, performed; and the rest of the list. -/
def firstReady (s : State) (m : Msg) : List Msg → Option (State × Msg × Resp × List Msg)
  | [] => none
  | w :: l =>
    match (if mayRelease m w then s.performMem w else (s, none)) with
    | (s', some r) => some (s', w, r, l)
    | (_, none) =>
      match firstReady s m l with
      | some (s', w', r, l') => some (s', w', r, w :: l')
      | none => none

/-- Every waiter that a performed request releases, oldest first (12 R289). -/
def releaseAll (m : Msg) : Nat → State → State × List Out
  | 0, s => (s, [])
  | n + 1, s =>
    match firstReady s m s.waiters with
    | none => (s, [])
    | some (s', w, r, l) =>
      let (s'', o) := releaseAll m n { s' with waiters := l }
      (s'', outsOf w r ++ o)

/-- A memory request performed with everything it releases; a request whose condition is false joins the wait list. -/
def State.performWith (s : State) (m : Msg) : State × Option Resp × List Out :=
  match s.performMem m with
  | (s, none) => ({ s with waiters := s.waiters ++ [m] }, none, [])
  | (s, some r) =>
    let (s, o) := releaseAll m s.waiters.length s
    (s, some r, o)

/-- Answers placed in the channels back to their sources (12 R277). -/
def State.sendOuts (s : State) (home : Node) (l : List Out) : State :=
  l.foldl (fun s o => s.send home o.dst .p (.resp o.dst o.owner o.idx o.r)) s

/-- What a withdrawal reports: the full/empty bit, TAIL and HEAD, or nothing (13 R307; 09 Table 9.3). -/
def withdrawnInfo (s : State) (m : Msg) : List Byte :=
  match m.req with
  | .fe _ _ => [BitVec.ofNat 8 (b2n (s.isFull m.pa))]
  | .qput _ _ | .qget => toBytes 8 (s.num (m.pa + 0x18) 4 * 2 ^ 32 + s.num (m.pa + 0x10) 4)
  | _ => []

/-- A withdrawal taken by a home: the waiter leaves the list, when it still stands there (13 R308, 09 R234). -/
def State.withdrawAt (s : State) (home : Node) (o : Owner) : State :=
  match s.waiters.find? fun w => decide (w.owner = o) && decide (w.dst = home) with
  | none => s
  | some w =>
    ({ s with waiters := s.waiters.filter fun x => !(decide (x.owner = o) && decide (x.dst = home)) }).sendOuts home
      [⟨w.src, o, w.idx, { answer (withdrawnInfo s w) (s.labelAt w.pa w.mlab) 0 with withdrawn := true }⟩]

end Sys2Proof.Machine
end

