-- ==== Sys2Proof/Machine/System.lean ====
section
/-! DEFINITION. The registers of partitions, cores, dies and the package, the device-register window, and what a write
through it does: principals, partitions, the context switch, functions and interrupts (08 R173; 11 R249, R262, R270;
18 R388, R389; 20 R428, R429; 22 R447 to R449; 23 R456 to R459). -/

namespace Sys2Proof.Machine

/-! ### Values of registers -/

/-- PARTn.CFG (08 Table 8.1). -/
def State.partCfg (s : State) (d n : Nat) : Word :=
  let p := s.pdie d n
  BitVec.ofNat 64 (b2n p.v * 2 ^ 31 + p.smask.toNat * 2 ^ 16 + b2n p.migh * 2 ^ 8 + n)

/-- PARTn.MEM (11 Table 11.4). -/
def State.partMem (s : State) (d n : Nat) : Word :=
  let p := s.pdie d n
  BitVec.ofNat 64 (p.savea * 2 ^ 26 + p.bslots * 2 ^ 16 + p.nbank * 2 ^ 8 + p.lbank)

/-- PART.OWN (18 Table 18.1). -/
def State.partOwn (s : State) (n : Nat) : Word :=
  BitVec.ofNat 64 (b2n (s.pp n).ownV * 16 + (s.pp n).own.toNat)

/-- GATE.POL (18 Table 18.1). -/
def State.gatePol (s : State) (n : Nat) : Word :=
  BitVec.ofNat 64 (sumOver (nums 16) fun e => b2n (vget (s.pp n).policies e).isSome * 2 ^ e)

/-- GATE.CNT (18 Table 18.1). -/
def State.gateCnt (s : State) (n : Nat) : Word := (s.pp n).denied ++ (s.pp n).released

/-- CSW.CTL (20 Table 20.3). -/
def State.cswCtl (s : State) (core n : Nat) : Word :=
  BitVec.ofNat 64 ((s.pcore core n).drain.toNat * 2 ^ 16 + (s.pcore core n).phase.toNat)

/-- Records held by the spill buffer. -/
def spillCount (p : PCore) : Nat := p.spill.length + p.spillMig.length

/-- SPILL.N (20 Table 20.3). -/
def State.spillN (s : State) (core n : Nat) : Word :=
  let p := s.pcore core n
  BitVec.ofNat 64 (b2n p.spillOvf * 2 ^ 32 + spillCount p)

/-- FLINT.CNT (20 Table 20.3). -/
def State.flintCnt (s : State) (core n : Nat) : Word := (s.pcore core n).flintRep ++ (s.pcore core n).flintMism

/-- SCOPE.CTL (12 Table 12.6); CAP and DEM are what SCOPE.SET copied to every core. -/
def State.scopeCtl (s : State) (core n : Nat) : Word :=
  BitVec.ofNat 64 (b2n (s.pcore core n).dmtd * 2 ^ 16 + b2n (s.pp n).scopeDem * 2 ^ 8 + (s.pp n).scopeCap.toNat)

/-- ROD.FAIL (14 Table 14.9). -/
def State.rodFailReg (s : State) (core : Nat) : Word :=
  BitVec.ofNat 64 (b2n (s.core core).rodOff * 2 ^ 8 + (s.core core).rodFail.toNat)

/-- BSLOTn (15 Table 15.5). -/
def State.bslotReg (s : State) (core n i : Nat) : Word :=
  if (s.pdie (dieOf core) n).bslots ≤ i then 0
  else
    let b := vget (s.pcore core n).bslots i
    BitVec.ofNat 64 (b.lim.toNat * 2 ^ 40 + b.holder.toNat * 2 ^ 37 + b2n b.bound * 2 ^ 36 + b2n b.dead * 2 ^ 35 +
      b.state.toNat * 2 ^ 32 + b.tag.toNat * 2 ^ 16 + b.etag.toNat)

/-- POOL.IDX (11 Table 11.6). -/
def State.poolIdx (s : State) (d n : Nat) : Word := (s.pdie d n).poolTail ++ (s.pdie d n).poolHead

/-- LOST.CNT (20 Table 20.3). -/
def State.lostCnt (s : State) (d n : Nat) : Word := (s.pdie d n).lostRefuse ++ (s.pdie d n).lostStatus

/-- LINK.ST (22 Table 22.1). -/
def State.linkSt (s : State) (d : Nat) : Word :=
  BitVec.ofNat 64 ((s.die d).narrow.toNat * 2 ^ 32 + (s.die d).links.toList.foldl (fun a x => max a x.toNat) 0)

/-- BOOT.STAT (23 Table 23.2). -/
def State.bootStat (s : State) : Word :=
  BitVec.ofNat 64 (s.fixed.failN.toNat * 2 ^ 8 + s.fixed.reason.toNat * 2 ^ 4 + s.bootMode.toNat)

/-- CFG.STAT (23 Table 23.2). -/
def State.cfgStat (s : State) (d : Nat) : Word :=
  BitVec.ofNat 64 (b2n (s.die d).cfgBusy * 2 ^ 8 + (s.die d).cfgPart.toNat * 2 ^ 4 + (s.die d).cfgRes.toNat)

/-- VF.CTL (22 Table 22.4). -/
def State.vfCtl (s : State) (n : Nat) : Word :=
  BitVec.ofNat 64 ((s.pp n).vfGen.toNat * 2 ^ 28 + (s.pp n).vfState.toNat)

/-- SCOPE.SET (22 Table 22.4). -/
def State.scopeSetReg (s : State) (n : Nat) : Word :=
  BitVec.ofNat 64 (b2n (s.pp n).scopeDem * 2 ^ 8 + (s.pp n).scopeCap.toNat)

/-- The field of `v` in bits [hi : lo], in its place. -/
def keepBits (v : Word) (hi lo : Nat) : Word := BitVec.ofNat 64 (fieldAt v.toNat lo (hi + 1 - lo) * 2 ^ lo)

/-! ### Reading the window (23 R456) -/

/-- The registers of a partition on a core (23 Table 23.5). -/
def coreWindow (s : State) (core n q : Nat) : Word :=
  if q = 0 then s.cswCtl core n
  else if q = 8 then (s.pcore core n).spillBase
  else if q = 0x10 then s.spillN core n
  else if q = 0x18 then killLog (s.pcore core n)
  else if q = 0x20 then s.flintCnt core n
  else if q = 0x28 then s.scopeCtl core n
  else 0

/-- The block of a partition at 0x800 (11 Table 11.6). -/
def xlatWindow (s : State) (d n r : Nat) : Word :=
  if r = 0 then (s.pp n).s1
  else if r = 8 then (s.pp n).s2
  else if r = 0x10 then (s.pp n).rng
  else if r = 0x20 then (s.pdie d n).poolRing
  else if r = 0x28 then s.poolIdx d n
  else if r = 0x30 then s.partMem d n
  else if r = 0x38 then (s.pp n).tensTbl
  else 0

/-- The block of a partition at 0xB00 (23 Table 23.5). -/
def partWindow (s : State) (d n r : Nat) : Word :=
  if r = 0 then (s.pp n).trapVec
  else if r = 8 then (s.pdie d n).ageLim.setWidth 64
  else if r = 0x10 then (s.pdie d n).wdLim
  else if r = 0x18 then (s.pdie d n).wdCnt
  else if r = 0x20 then s.partCfg d n
  else if r = 0x28 then s.partOwn n
  else if r = 0x30 then s.gatePol n
  else if r = 0x38 then s.gateCnt n
  else 0

/-- The registers of a function at 0x1000 (22 Table 22.4). -/
def vfWindow (s : State) (n r : Nat) : Word :=
  if r = 0 then s.vfCtl n
  else if r = 8 then (s.pp n).vfPir
  else if r = 0x10 then (s.pp n).mboxAddr
  else s.scopeSetReg n

/-- A 64-bit word of the window of die `d`; in minimal mode only BOOT.STAT and the firmware store (23 R458). -/
def State.windowRead (s : State) (d off : Nat) : Word :=
  if s.bootMode = 2 then
    if off = 0x300 then s.bootStat
    else if 0x100000 ≤ off ∧ off < 0x1100000 then BitVec.ofNat 64 (fromBytes (Memory.read s.store (off - 0x100000) 8))
    else 0
  else if 0x100 ≤ off ∧ off < 0x200 then (vget (s.die d).hmap ((off - 0x100) / 8)).setWidth 64
  else if off = 0x200 then BitVec.ofNat 64 (liveN (s.die d))
  else if off = 0x300 then s.bootStat
  else if off = 0x310 then (s.die d).droopStr ++ (s.die d).droopEvt
  else if off = 0x318 then s.pwrCap.setWidth 64
  else if off = 0x320 then (s.die d).pwrRot.setWidth 64
  else if 0x340 ≤ off ∧ off < 0x360 then
    ((vget (s.die d).hbmUe ((off - 0x340) / 8)) ++ (vget (s.die d).hbmCe ((off - 0x340) / 8))).setWidth 64
  else if off = 0x3A0 then s.cfgStat d
  else if 0x800 ≤ off ∧ off < 0x900 then xlatWindow s d ((off - 0x800) / 0x40) (off % 0x40)
  else if 0xA00 ≤ off ∧ off < 0xB00 then
    let r := off % 0x40
    let p := s.pp ((off - 0xA00) / 0x40)
    if r < 0x20 then vget p.redWin (r / 8) else if r = 0x20 then p.podCfg else 0
  else if 0xB00 ≤ off ∧ off < 0xC00 then partWindow s d ((off - 0xB00) / 0x40) (off % 0x40)
  else if off = 0xC00 then s.prinMap.setWidth 64
  else if off = 0xC08 then s.fixed.serial
  else if off = 0xC10 then s.fixed.gateBoot
  else if 0xD00 ≤ off ∧ off < 0xF00 then
    (vget s.keys ((off - 0xD00) / 0x20)).extractLsb' (off % 0x20 / 8 * 64) 64
  else if 0x1000 ≤ off ∧ off < 0x1080 then vfWindow s ((off - 0x1000) / 0x20) (off % 0x20)
  else if 0x2000 ≤ off ∧ off < 0x2080 then
    if off % 0x20 < 0x18 then vget (s.pp ((off - 0x2000) / 0x20)).budget (off % 0x20 / 8) else 0
  else if 0x1000000 ≤ off ∧ off < 0x1000000 + 0x400 * liveN (s.die d) then
    let core := d * 1024 + (off - 0x1000000) / 0x400
    let r := off % 0x400
    if r < 0x100 then coreWindow s core (r / 0x40) (r % 0x40)
    else if r = 0x300 then s.rodFailReg core
    else if r = 0x308 then BitVec.ofNat 64 ((s.core core).kills.toNat * 2 ^ 8)
    else 0
  else 0

/-! ### Principals (18 R388) -/

/-- An entry of a policy table freed when its LSET names a principal. -/
def dropPolicy (i : Nat) (p : PPkg) : PPkg :=
  { p with policies := p.policies.map fun e => match e with
    | some (x : Policy) => if x.lset.getLsbD i then none else some x
    | none => none }

/-- A principal is registered. -/
def State.register (s : State) (i : Nat) : State := { s with prinMap := s.prinMap ||| (1#16 <<< i) }

/-- A principal is deregistered, with every policy that names it. -/
def State.deregister (s : State) (i : Nat) : State :=
  { s with prinMap := s.prinMap &&& ~~~(1#16 <<< i), ppkg := s.ppkg.map (dropPolicy i) }

/-- A write of PRIN.MAP. -/
def State.writePrin (s : State) (v : Word) : State :=
  (nums 16).foldl (fun s i => if v.getLsbD i then s.register i else if s.prinMap.getLsbD i then s.deregister i else s) s

/-! ### Every core -/

/-- A change to a partition's part of every core that differs from a core after reset. -/
def State.eachPCore (s : State) (part : Nat) (f : PCore → PCore) : State :=
  { s with cores := s.cores.map fun (k, (c : Core)) => (k, { c with parts := vset c.parts part (f (vget c.parts part)) }) }

/-- An XLAT.INV write: its operation, and whether it is ignored (11 R270). -/
def xlatOp (v : Word) : Option Nat :=
  if v.toNat / 2 ^ 56 ≠ 0 ∨ fieldAt v.toNat 2 10 ≠ 0 ∨ v.toNat % 4 = 3 then none else some (v.toNat % 4)

/-- Whether a cached mapping comes from the stage-1 entry that maps a virtual page, whatever part of it stage 2 lets it
cover. -/
def fromPage (page : Nat) (l : Leaf) : Bool := decide (l.base / l.size1 = page * 4096 / l.size1)

/-- What a core drops for an XLAT.INV write. An operation 2 drops every entry that stage 2 made. -/
def xlatDrop (op page : Nat) (p : PCore) : PCore :=
  let p := { p with icache := [] }
  if op = 0 then { p with tlb := p.tlb.filter fun l => !fromPage page l }
  else if op = 1 then { p with tlb := [], rcache := none }
  else { p with tlb := p.tlb.filter fun l => l.entry2.isNone }

/-- An XLAT.INV write performed. -/
def State.xlatInv (s : State) (part : Nat) (v : Word) : State :=
  match xlatOp v with
  | none => s
  | some op => s.eachPCore part (xlatDrop op (fieldAt v.toNat 12 44))

/-- The partition of an XLAT.INV write. -/
def invPart (m : Msg) : Option Nat :=
  let off := m.pa % 2 ^ 44
  match m.req with
  | .write _ =>
    if isDevReg m.pa && decide (0x800 ≤ off) && decide (off < 0x900) && decide (off % 0x40 = 0x18) then some ((off - 0x800) / 0x40)
    else none
  | _ => none

/-- The sizes of the stage-1 pages through which the cores of a partition may have translated an address of a virtual page. -/
def State.pageSizes (s : State) (part page : Nat) : List Nat :=
  4096 :: s.cores.flatMap fun c => ((vget c.2.parts part).tlb.filter (fromPage page)).map (·.size1)

/-- Whether an address may have been translated through the stage-1 entry that maps a virtual page, of one of these sizes. -/
def throughPage (sizes : List Nat) (page va : Nat) : Bool := sizes.any fun z => decide (va / z = page * 4096 / z)

/-- Whether a request is an access translated for a partition at an address that `hit` accepts. Neither the host nor another
package translates here; a write combined from several has several addresses. -/
def translated (part : Nat) (hit : Nat → Bool) (m : Msg) : Bool :=
  decide (m.part = part) && (hit m.va.toNat || !m.others.isEmpty) &&
  (match m.src with | .host _ | .port _ => false | _ => true)

/-- The lanes of a queue in which an XLAT.INV write of a partition stands. -/
def invLanes (part : Nat) (l : List Item) : List (Node × Plane) :=
  l.filterMap fun x => match x with
    | .req m => if invPart m = some part then some (m.src, m.pl) else none
    | _ => none

/-- Whether a queue holds a request that `f` accepts and that stands behind no XLAT.INV write of the partition: what stands
behind one cannot be performed before it (DESIGN CHOICE, log 54). -/
def stillIn (part : Nat) (f : Msg → Bool) : List (Node × Plane) → List Item → Bool
  | _, [] => false
  | seen, .req m :: l =>
    if invPart m = some part then stillIn part f ((m.src, m.pl) :: seen) l
    else (f m && !seen.contains (m.src, m.pl)) || stillIn part f seen l
  | seen, _ :: l => stillIn part f seen l

/-- No access that `f` accepts is still to be performed (11 R270): none in a channel, at a home, in a wait list or in a spill
buffer. -/
def State.drained (s : State) (part : Nat) (f : Msg → Bool) : Bool :=
  !(s.channels.any fun c => stillIn part f (invLanes part (klist s.arrivals c.1.2.1)) c.2) &&
  !(s.arrivals.any fun a => stillIn part f [] a.2) && !(s.waiters.any f) &&
  !(s.cores.any fun c => c.2.parts.toList.any fun p => stillIn part f [] p.spill)

/-- Whether every access already translated through what an XLAT.INV write drops has been performed (11 R270). -/
def State.invDrained (s : State) (part : Nat) (v : Word) : Bool :=
  match xlatOp v with
  | none => true
  | some op =>
    let page := fieldAt v.toNat 12 44
    let sizes := s.pageSizes part page
    s.drained part (translated part fun va => decide (op ≠ 0) || throughPage sizes page va)

/-- Whether every access translated through a freed page's entry has been performed (11 R272). The operations of a pool unit
are none: they act on the entry itself (DEDUCED, log 54). -/
def State.freeDrained (s : State) (part : Nat) (va : Word) (big : Bool) : Bool :=
  let z := if big then 65536 else 4096
  s.drained part fun m => translated part (fun a => decide (a / z = va.toNat / z)) m &&
    (match m.req with | .pool _ _ _ => false | _ => true)

/-! ### The context switch (20 R428, R429) -/

/-- A request to switch a partition out of a core: PREEMPT to every compute thread and migrant there. -/
def State.cswReq (s : State) (core part : Nat) : State :=
  if (s.pcore core part).phase ≠ 0 then s
  else
    let s := s.modPCore core part fun p => { p with phase := 1, reqAt := s.cycle, vacated := [] }
    let e : PendEvent := ⟨0x0602, 2, s.cswCtl core part, 0, 0⟩
    let s := (nums 8).foldl (fun s k =>
      match s.thread? (tidOf core k) with
      | some th =>
        if th.part = part && th.kind ≠ .control then
          (s.deliverTo (tidOf core k) e).modThread (tidOf core k) fun th => { th with preempt := true }
        else s
      | none => s) s
    s.vacantCheck core part

/-- A spilled record performed as it re-enters (20 R429). -/
def State.performSpilled (s : State) (home : Node) : Item → State
  | .req m =>
    let (s, r, o) := s.performWith m
    match r with
    | some r => (s.sendOuts home (outsOf m r)).sendOuts home o
    | none => s.sendOuts home o
  | .withdraw o _ => s.withdrawAt home o
  | .resp _ _ _ _ | .joined _ | .migrant _ _ _ _ | .bead _ | .int _ _ _ | .notice _ | .pause _ => s

/-- The thread that RESUME starts in a slot: it is the thread that left the slot (21 R436), and keeps what its context
record does not hold. -/
def State.resumed (s : State) (core part slot : Nat) (old : Thread) : Thread :=
  { Thread.fresh old.gen old.kind part (s.pp part).trapVec 0 old.world (s.ownRot (tidOf core slot)) with
    te := false
    tcause := 0x0000000200000603#64
    tinfo0 := BitVec.ofNat 64 slot
    grpId := old.grpId
    grpN := old.grpN
    strId := old.strId
    strN := old.strN
    arg := old.arg
    slotsM := old.slotsM
    launch := old.launch
    timed := old.timed
    preempt := true
    pendSet := old.pendSet
    hostDirty := old.hostDirty }

/-- One vacated slot restarted. -/
def State.resumeSlot (s : State) (core part : Nat) (x : Nat × Thread) : State :=
  s.setThread (tidOf core x.1) (s.resumed core part x.1 x.2)

/-- A stopped copy goes on from its resume offset (15 R375). -/
def reissue (core part : Nat) (g : Engine) : Engine :=
  if g.stopped && g.core = core && g.part = part then
    { g with
      stopped := false
      todo := if g.resumeOff < g.len then [(g.resumeOff, g.src + BitVec.ofNat 64 g.resumeOff, g.len - g.resumeOff)] else []
      written := g.resumeOff
      bytes := g.resumeOff
      bead := []
      blab := g.lab
      ready := [] }
  else g

/-- A request to resume (20 R429). -/
def State.cswRes (s : State) (core part : Nat) : State :=
  let p := s.pcore core part
  if p.phase ≠ 3 then s
  else
    let s := s.modPCore core part fun p => { p with spill := [], migQ := p.migQ ++ p.spillMig, spillMig := [] }
    let s := p.spill.foldl (fun s it => s.performSpilled (.core core) it) s
    let s := s.modPCore core part fun p => { p with phase := 0, vacated := [] }
    let s := p.vacated.foldl (fun s k => s.resumeSlot core part k) s
    { s with engines := s.engines.map fun (k, g) => (k, reissue core part g) }

/-- A write of CSW.CTL (20 Table 20.3); both REQ and RES make it ignored whole. -/
def State.cswWrite (s : State) (core part : Nat) (drain : Option (BitVec 32)) (req res : Bool) : State :=
  if req && res then s
  else
    let s := match drain with
      | some d => s.modPCore core part fun p => { p with drain := d }
      | none => s
    if req then s.cswReq core part else if res then s.cswRes core part else s

/-! ### Functions and interrupts (22 R448, R449, R451) -/

/-- The vectors of a pending-interrupt record, sent in ascending order and cleared. -/
def State.vfFlush (s : State) (n : Nat) : State :=
  let pir := (s.pp n).vfPir.toNat
  let bits := s.num pir 32
  let sent := ((nums 256).filter fun v => bitAt bits v).map fun v => (n, BitVec.ofNat 8 v)
  { (s.putNum pir 32 0) with msix := s.msix ++ sent }

/-- A write of VF.CTL's STATE. Only a GW9-M has functions (00 R2). -/
def State.vfSet (s : State) (n : Nat) (st : BitVec 2) : State :=
  if !s.isModule then s else
  let old := (s.pp n).vfState
  let leaves := old = 3 && st ≠ 3
  let s := s.modPP n fun p => { p with vfState := st, vfGen := if leaves then p.vfGen + 1 else p.vfGen }
  if st = 0 then (if old = 0 then s else s.vfFlush n)
  else if st = 2 then
    (nums s.diesOf).foldl (fun s d =>
      (nums (liveN (s.die d))).foldl (fun s l =>
        if (s.pdie d n).v then s.cswReq (d * 1024 + l) n else s) s) s
  else s

/-- An interrupt request reaches the host-link node (22 R449); a form without one has no function to send it (00 R2). -/
def State.intArrive (s : State) (n : Nat) : State :=
  match (s.pp n).intReqs with
  | [] => s
  | (v, gen) :: l =>
    let p := s.pp n
    let s := s.modPP n fun p => { p with intReqs := l }
    let pir := p.vfPir.toNat
    if !s.isModule then s
    else if gen ≠ p.vfGen || p.vfState = 3 then s.putNum (pir + 36) 4 ((s.num (pir + 36) 4 + 1) % 2 ^ 32)
    else if p.vfState = 0 then { s with msix := s.msix ++ [(n, v)] }
    else
      let a := pir + v.toNat / 8
      (s.putNum a 1 (s.num a 1 ||| 2 ^ (v.toNat % 8))).putNum (pir + 32) 2 p.vfGen.toNat

/-- A write of INT.REQ on a core by a thread whose widened CTXL is given: the request goes to the host-link node of its die on
the K plane (12 Table 12.2). -/
def State.intRequest (s : State) (core n : Nat) (ctxl : Label) (v : BitVec 8) : State :=
  if fits ctxl (s.owner n) then s.send (.core core) (.host (dieOf core)) .k (.int n v (s.pp n).vfGen) else s.denied n

/-! ### Configuring a partition (23 R459; 11 R247) -/

/-- A valid SMASK (08 R174). -/
def smaskOk (m : BitVec 8) : Bool :=
  [(0x03 : BitVec 8), 0x0C, 0x30, 0xC0, 0x0F, 0xF0, 0xFF].contains m

/-- The fields of a CFG.REQn write. -/
structure CfgReq where
  savea : Nat
  bslots : Nat
  ownV : Bool
  own : BitVec 4
  migh : Bool
  smask : BitVec 8
  deriving DecidableEq, Repr

/-- A CFG.REQn write taken apart. -/
def cfgOf (v : Word) : CfgReq :=
  ⟨fieldAt v.toNat 25 6, fieldAt v.toNat 20 5, v.getLsbD 19, v.extractLsb' 15 4, v.getLsbD 8, v.extractLsb' 0 8⟩

/-- Whether the reserved areas leave 32 KiB of a range of so many slots (11 R248). -/
def roomLeft (slots : Nat) (migh : Bool) (bslots savea : Nat) : Bool :=
  decide (32768 + 8192 * bslots + (if migh then 16384 else 0) + 4096 * savea ≤ 65536 * slots)

/-- PARTn.MEM stands once for the package: where the other die configures the partition too, its banks must hold the areas as well
(DEDUCED, log 47). -/
def State.otherFits (s : State) (d n bslots savea : Nat) : Bool :=
  let p := s.pdie (1 - d) n
  !p.v || roomLeft (slotsOf p.smask).length p.migh bslots savea

/-- The result code of a request: 0 when it passes. PARTn.MEM is one register for both dies (11 R262), so its areas must fit in
the partition's range on the other die too, when it exists there (DEDUCED, log 47). -/
def State.cfgCheck (s : State) (d n : Nat) (v : Word) : BitVec 4 :=
  let q := cfgOf v
  let slots := (slotsOf q.smask).length
  if s.bootMode = 2 then 5
  else if v.toNat / 2 ^ 31 ≠ 0 ∨ fieldAt v.toNat 9 6 ≠ 0 ∨ (q.smask ≠ 0 ∧ !smaskOk q.smask) then 1
  else if q.smask ≠ 0 && (nums 4).any fun m => decide (m ≠ n) && (s.pdie d m).v && decide ((s.pdie d m).smask &&& q.smask ≠ 0) then
    2
  else if q.smask ≠ 0 && (decide (16 < q.bslots) || !roomLeft slots q.migh q.bslots q.savea ||
      !s.otherFits d n q.bslots q.savea) then 3
  else if s.threads.any fun (t, th) =>
      decide (dieOf (coreOf t) = d) && decide (th.part = n) && decide (th.kind = .compute) then 4
  else 0

/-- Local-store bytes of a partition on a die: whether an address lies there. -/
def inBanks (d : Nat) (p : PDie) (pa : Nat) : Bool :=
  decide (spaceOf pa = 1) && decide (pa / 2 ^ 44 % 4 = d) && decide (lsBase p ≤ pa % 2 ^ 19) && decide (pa % 2 ^ 19 < lsTop p)

/-- A partition's local store and accumulator banks cleared on every core of a die (11 R247). -/
def State.clearPart (s : State) (d n : Nat) : State :=
  let p := s.pdie d n
  let banks : List Nat := (slotsOf p.smask).flatMap fun k => numsFrom (8 * k) 8
  { s with
    mem := s.mem.filter fun c => !inBanks d p c.1
    full := s.full.filter fun c => !inBanks d p (c.1 * 8)
    blab := s.blab.filter fun c => !inBanks d p (c.1 * 256)
    poison := s.poison.filter fun c => !inBanks d p (c.1 * 8)
    cores := s.cores.map fun (k, (c : Core)) =>
      (k, if dieOf k = d then
        { c with
          banks := c.banks.filter fun b => !banks.contains b.1
          parts := vset c.parts n { (vget c.parts n) with bslots := Vector.replicate 16 BSlot.reset, rcache := none, tlb := [], icache := [] } }
      else c) }

/-- The world of an agent under its key: as firmware has set it, else a free value (18 R398). -/
def State.worldOf (s : State) (key : Nat) : Bool := (nget s.worlds key).getD (Config.secureWorld key)

/-- The key of a die's dispatcher among the worlds. -/
def dispKey (d : Nat) : Nat := 2048 + d
/-- The key of a partition's functions among the worlds. -/
def funKey (n : Nat) : Nat := 4096 + n

/-- The control thread of a core (23 R459, 02 Table 2.7), in the core's world (18 R398). -/
def State.startControl (s : State) (core n : Nat) : State :=
  let tid := s.ctrlTid core n
  (s.setThread tid (Thread.fresh s.serial .control n (s.pp n).trapVec 0 (s.worldOf core) (s.rot + 1))).tick1

/-- The migrants of a partition on a die leave their launches as the partition goes (08 R200): nothing of them is left. -/
def State.dropMigrants (s : State) (d n : Nat) : State :=
  let gone := s.threads.filter fun (t, th) => decide (dieOf (coreOf t) = d) && decide (th.part = n)
  gone.foldl (fun s (t, th) => s.leaveLaunch t th true) { s with
    threads := s.threads.filter fun (t, th) => !(decide (dieOf (coreOf t) = d) && decide (th.part = n)) }

/-- PARTn.MEM written, in the copies of both dies (11 R262). -/
def State.setMem (s : State) (n savea bslots nbank lbank : Nat) : State :=
  let f (p : PDie) : PDie := { p with savea := savea, bslots := bslots, nbank := nbank, lbank := lbank }
  (s.modPDie 0 n f).modPDie 1 n f

/-- A request that passed, applied. PARTn.MEM reads 0 once the partition exists on no die. -/
def State.cfgApply (s : State) (d n : Nat) (q : CfgReq) : State :=
  let s := s.dropMigrants d n
  if q.smask = 0 then
    let s := s.modPDie d n fun p => { p with v := false, smask := 0, migh := false }
    let s := if (s.pdie (1 - d) n).v then s else s.setMem n 0 0 0 0
    s.modPP n fun p => { p with ownV := q.ownV, own := q.own, policies := Vector.replicate 16 none }
  else
    let s := s.modPDie d n fun p => { p with v := true, smask := q.smask, migh := q.migh }
    let s := s.setMem n q.savea q.bslots (2 * (slotsOf q.smask).length) (2 * ((slotsOf q.smask).headD 0))
    let s := s.modPP n fun p => { p with ownV := q.ownV, own := q.own, policies := Vector.replicate 16 none }
    let s := s.clearPart d n
    (nums (liveN (s.die d))).foldl (fun s l => s.startControl (d * 1024 + l) n) s

/-- A request that is being applied is done (23 R459). -/
def State.cfgDone (s : State) (d : Nat) : State :=
  let x := s.die d
  let n := x.cfgPart.toNat
  let r := s.cfgCheck d n x.cfgWord
  let s := if r = 0 then s.cfgApply d n (cfgOf x.cfgWord) else s
  s.modDie d fun x => { x with cfgBusy := false, cfgRes := r }

/-- Whether a write of CFG.REQn is taken. It is ignored while BUSY is 1, on a die that the part does not have (00 R2), and while the package starts: the
cores are held in reset and no firmware serves requests yet (23 R453; DEDUCED, log 47). -/
def State.cfgTakes (s : State) (d : Nat) : Bool := !(s.die d).cfgBusy && decide (d < s.diesOf) && decide (s.bootMode ≠ 0)

/-- A write of CFG.REQn. -/
def State.cfgWrite (s : State) (d n : Nat) (v : Word) : State :=
  if !s.cfgTakes d then s
  else s.modDie d fun x => { x with cfgBusy := true, cfgPart := BitVec.ofNat 4 n, cfgWord := v }

/-! ### Rods -/

/-- Rods marked failed; OFF follows the second mark (14 R347). -/
def markRods (c : Core) (m : BitVec 6) : Core :=
  let f := c.rodFail ||| m
  { c with rodFail := f, rodOff := c.rodOff || decide (2 ≤ sumOver (nums 6) fun r => b2n (f.getLsbD r)) }

/-- The threads of a slot mask killed with reason 8 (23 Table 23.5). -/
def State.coreKill (s : State) (core : Nat) (m : BitVec 8) : State :=
  (slotsOf m).foldl (fun s k => s.kill (tidOf core k) 8) s

/-! ### BOOT.OK and restarting (23 R458) -/

/-- The package after a reset: what nonvolatile store, fuses and the outside hold stays, the host's memory with it. -/
def State.coldStart (s : State) : State :=
  { State.reset with
    fixed := s.fixed
    ppkg := Vector.ofFn fun n => { PPkg.reset with trapVec := vget s.fixed.trapVecs n }
    mem := s.mem.filter fun c => isHostWin c.1
    poison := s.poison.filter fun c => isHostWin (c.1 * 8)
    store := s.store
    sealedImage := s.sealedImage
    serial := s.serial
    freeCtr := s.freeCtr
    inputs := s.inputs
    bootEnv := s.bootEnv
    dies := s.dies.map fun (d : Die) => { Die.reset with hmap := d.hmap } }

/-- The SVN of the firmware image in the module's store (23 R454). -/
def State.imageSvn (s : State) : BitVec 32 := BitVec.ofNat 32 (fromBytes (Memory.read s.store 4 4))

/-- Firmware may raise SVN.MIN to its own SVN once its start is confirmed (23 R454): whether it does is a free value. -/
def State.raiseSvn (s : State) : State :=
  let f := s.fixed
  { s with
    freeCtr := s.freeCtr + 1
    fixed := if Config.raisesSvn s.freeCtr && decide (f.svnMin.toNat < s.imageSvn.toNat) then { f with svnMin := s.imageSvn } else f }

/-- A write of BOOT.OK = 1: it confirms the start, or leaves minimal mode and starts the package again. -/
def State.bootOk (s : State) : State :=
  let f := { s.fixed with started := false, failN := 0 }
  if s.bootMode = 1 then { s with fixed := f }.raiseSvn
  else if s.bootMode = 2 then { (State.coldStart { s with fixed := f }) with stage := 1 }
  else s

/-! ### Writing the window (23 R456, R457) -/

/-- Whether a writer may write the window. Only a GW9-M has a PF0 (00 R2). -/
def State.mayWrite (s : State) : Writer → Bool
  | .firmware => true
  | .pf0 => s.isModule && decide (s.bootMode = 1)
  | .thread secure => secure

/-- A write in the block of a partition at 0x800. Bit 12 of ROOT, which must be zero (11 R262), is kept, and the walk begins at
that address: the spec names no effect of a 1 there (DESIGN CHOICE, log 69). -/
def writeXlat (s : State) (d n r : Nat) (v : Word) : State :=
  if r = 0 then s.modPP n fun p => { p with s1 := keepBits v 51 12 ||| keepBits v 0 0 }
  else if r = 8 then s.modPP n fun p => { p with s2 := keepBits v 51 12 ||| keepBits v 0 0 }
  else if r = 0x10 then
    if 32 < v.toNat % 64 then s else s.modPP n fun p => { p with rng := keepBits v 51 0 }
  else if r = 0x18 then s.xlatInv n v
  else if r = 0x20 then s.modPDie d n fun p => { p with poolRing := keepBits v 51 12 ||| keepBits v 7 0 }
  else if r = 0x28 then s.modPDie d n fun p => { p with poolTail := v.extractLsb' 32 32 }
  else if r = 0x38 then s.modPP n fun p => { p with tensTbl := keepBits v 51 6 ||| keepBits v 4 0 }
  else s

/-- A write in the block of a partition at 0xA00. -/
def writeRed (s : State) (n r : Nat) (v : Word) : State :=
  if r < 0x20 then s.modPP n fun p => { p with redWin := vset p.redWin (r / 8) (keepBits v 51 0) }
  else if r = 0x20 then s.modPP n fun p => { p with podCfg := keepBits v 40 32 ||| keepBits v 15 0 }
  else s

/-- A write in the block of a partition at 0xB00. Firmware's write of TRAP.VEC writes its reset value too, for which the spec
gives no offset of its own (23 R456; DESIGN CHOICE, log 62). -/
def writePart (s : State) (who : Writer) (d n r : Nat) (v : Word) : State :=
  if r = 0 then
    let t := s.modPP n fun p => { p with trapVec := keepBits v 55 2 }
    if who = .firmware then { t with fixed := { t.fixed with trapVecs := vset t.fixed.trapVecs n (keepBits v 55 2) } } else t
  else if r = 8 then s.modPDie d n fun p => { p with ageLim := v.extractLsb' 0 32 }
  else if r = 0x10 then s.modPDie d n fun p => { p with wdLim := v, hangSent := false }
  else s

/-- A write of SCOPE.SET: CAP and DEM on every core (12 R288). -/
def State.scopeSet (s : State) (n : Nat) (v : Word) : State :=
  s.modPP n fun p => { p with scopeDem := v.getLsbD 8, scopeCap := v.extractLsb' 0 3 }

/-- A write of a function's registers. -/
def writeVf (s : State) (n r : Nat) (v : Word) : State :=
  if r = 0 then s.vfSet n (v.extractLsb' 0 2)
  else if r = 8 then s.modPP n fun p => { p with vfPir := keepBits v 51 6 }
  else if r = 0x10 then s.modPP n fun p => { p with mboxAddr := keepBits v 51 3 }
  else s.scopeSet n v

/-- A write of the registers of a partition on a core. -/
def writeCore (s : State) (core n q : Nat) (v : Word) : State :=
  if q = 0 then s.cswWrite core n (some (v.extractLsb' 16 32)) (v.getLsbD 2) (v.getLsbD 3)
  else if q = 8 then s.modPCore core n fun p => { p with spillBase := keepBits v 51 12 ||| keepBits v 4 0 }
  else if q = 0x10 then s.modPCore core n fun p => { p with spillOvf := p.spillOvf && !v.getLsbD 32 }
  else s

/-- A write of a register that the whole core shares. -/
def writeWhole (s : State) (who : Writer) (core r : Nat) (v : Word) : State :=
  if r = 0x300 then (if who = .firmware then s.modCore core fun c => markRods c (v.extractLsb' 0 6) else s)
  else if r = 0x308 then (if who = .firmware && v.getLsbD 0 then s.outOfService core else s)
  else if r = 0x310 then s.coreKill core (v.extractLsb' 0 8)
  else s

/-- A 64-bit write of the window of die `d` by a writer that may write it. -/
def windowPut (s : State) (who : Writer) (d off : Nat) (v : Word) : State :=
  if off = 0x308 then (if v.getLsbD 0 then s.bootOk else s)
  else if off = 0x318 then
    match who with
    | .thread _ => s
    | _ => { s with pwrCap := v.extractLsb' 0 16 }
  else if 0x380 ≤ off ∧ off < 0x3A0 then s.cfgWrite d ((off - 0x380) / 8) v
  else if 0x800 ≤ off ∧ off < 0x900 then writeXlat s d ((off - 0x800) / 0x40) (off % 0x40) v
  else if 0xA00 ≤ off ∧ off < 0xB00 then writeRed s ((off - 0xA00) / 0x40) (off % 0x40) v
  else if 0xB00 ≤ off ∧ off < 0xC00 then writePart s who d ((off - 0xB00) / 0x40) (off % 0x40) v
  else if 0x100 ≤ off ∧ off < 0x200 then
    if who = .firmware then s.modDie d fun x => { x with hmap := vset x.hmap ((off - 0x100) / 8) (v.extractLsb' 0 32) } else s
  else if off = 0xC08 then (if who = .firmware then { s with fixed := { s.fixed with serial := v } } else s)
  else if off = 0xC00 then s.writePrin v
  else if 0xD00 ≤ off ∧ off < 0xF00 then
    let i := (off - 0xD00) / 0x20
    if s.prinMap.getLsbD i then s
    else
      let k := (vget s.keys i).toNat
      let j := off % 0x20 / 8
      let rest := k - fieldAt k (64 * j) 64 * 2 ^ (64 * j)
      { s with keys := vset s.keys i (BitVec.ofNat 256 (rest + v.toNat * 2 ^ (64 * j))) }
  else if 0x1000 ≤ off ∧ off < 0x1080 then writeVf s ((off - 0x1000) / 0x20) (off % 0x20) v
  else if 0x2000 ≤ off ∧ off < 0x2080 then
    if off % 0x20 < 0x18 then
      s.modPP ((off - 0x2000) / 0x20) fun p => { p with budget := vset p.budget (off % 0x20 / 8) v }
    else s
  else if 0x1000000 ≤ off ∧ off < 0x1000000 + 0x400 * liveN (s.die d) then
    let core := d * 1024 + (off - 0x1000000) / 0x400
    let r := off % 0x400
    if r < 0x100 then writeCore s core (r / 0x40) (r % 0x40) v else writeWhole s who core r v
  else s

/-- A write of the window: in minimal mode only PF0 of link 0 reaches BOOT.OK and the firmware store (23 R458). -/
def State.windowWrite (s : State) (who : Writer) (d off : Nat) (v : Word) : State :=
  if s.bootMode = 2 then
    if who = .pf0 && s.isModule && d = 0 then
      if off = 0x308 then (if v.getLsbD 0 then s.bootOk else s)
      else if 0x100000 ≤ off ∧ off < 0x1100000 then
        { s with store := Memory.write s.store (off - 0x100000) ((toBytes 8 v.toNat).map some) }
      else s
    else s
  else if s.mayWrite who then windowPut s who d off v
  else s

end Sys2Proof.Machine
end

