-- ==== Sys2Proof/Machine/Network.lean ====
section
/-! DEFINITION. The moves of messages: what stands at each kind of home, delivery, combining, and what a response does to
a thread or a journal entry (12 R277; 08 R199; 13 R301 to R319; 20 R422, R428; 22 R443, R450). -/

namespace Sys2Proof.Machine

/-! ### Dependence counters (08 R199) -/

/-- A CRM access to DEP.VAL at the dispatcher. -/
def State.performDep (s : State) (d : Nat) (m : Msg) (op : DepOp) (ctr : Nat) (x : Word) : State × Resp :=
  let c := (nget (s.pdie d m.part).deps ctr).getD ⟨0, false, 0⟩
  let old : Word := c.val.setWidth 64 ||| (if c.psn then 1#64 <<< 63 else 0)
  match op with
  | .read => (s, answer (toBytes 8 old.toNat) c.lab 0)
  | _ =>
    let v := match op with
      | .set => old ||| x
      | .clear => old &&& ~~~x
      | _ => x
    (s.modPDie d m.part fun p => { p with deps := nset p.deps ctr ⟨v.extractLsb' 0 32, false, c.lab ||| m.lv⟩ },
      answer [] 0 0)

/-! ### The page pool (11 R271, R272; 13 R316 to R319) -/

/-- The page size of a pool; none when SZ is invalid. -/
def poolSize (p : PDie) : Option Nat :=
  if fieldAt p.poolRing.toNat 6 2 = 0 then some 4096 else if fieldAt p.poolRing.toNat 6 2 = 1 then some 65536 else none
/-- The capacity of a pool: CAPLOG counts up to 20. -/
def poolCap (p : PDie) : Nat := 2 ^ min (p.poolRing.toNat % 64) 20
/-- The pages that a pool holds. -/
def poolCount (p : PDie) : Nat := (p.poolTail - p.poolHead).toNat
/-- The address of a ring entry. -/
def poolEntry (p : PDie) (i : BitVec 32) : Nat := fieldAt p.poolRing.toNat 12 40 * 4096 + 8 * (i.toNat % poolCap p)

/-- The physical address of a 4 KiB page that a pool entry names: through stage 2 when it is on. One that stage 2 does not map, or
maps to another package, counts as one with no home and is discarded (DESIGN CHOICE, log 54). -/
def poolPa (s : State) (part a : Nat) : Option Nat :=
  let p := s.pp part
  if !s2On p then (if (s.home a).isSome then some a else none)
  else match stage2 s p 1 0 a with
    | .error _ => none
    | .ok x => let pa := stage2Pa x a; if !bitAt x.e 60 && (s.home pa).isSome then some pa else none

/-- The 4 KiB frames of a page. -/
def poolFrames (s : State) (part size a : Nat) : List (Option Nat) :=
  (nums (size / 4096)).map fun i => poolPa s part (a + 4096 * i)

/-- A frame filled with zeros. -/
def State.zeroFrame (s : State) (pa : Nat) : State :=
  let inside (a : Nat) : Bool := decide (pa ≤ a) && decide (a < pa + 4096)
  { s with mem := s.mem.filter fun c => !inside c.1, poison := s.poison.filter fun c => !inside (c.1 * 8) }

/-- A refusal of a poisoned location that a pool unit reads or writes in part (20 R426). -/
def poolPoison (s : State) (pa kind : Nat) : Resp := refusal .memPoison (physInfo .memPoison pa kind) (s.labelAt pa 0)

/-- The next good page of a pool: bad entries are discarded (R319), and a poisoned one is refused (20 R426). A ring at an address
with no home is read and written as though it had one (DESIGN CHOICE, log 54). -/
def State.takePage : Nat → State → Nat → Nat → Nat → State × Except Resp (Option Nat)
  | 0, s, _, _, _ => (s, .ok none)
  | n + 1, s, d, part, size =>
    let p := s.pdie d part
    if poolCount p = 0 then (s, .ok none)
    else if s.isPoisoned (poolEntry p p.poolHead) 8 then (s, .error (poolPoison s (poolEntry p p.poolHead) 0))
    else
      let a := s.num (poolEntry p p.poolHead) 8
      let s := s.modPDie d part fun p => { p with poolHead := p.poolHead + 1 }
      let fr := poolFrames s part size a
      if a % size = 0 && fr.all (·.isSome) then (fr.foldl (fun s x => s.zeroFrame (x.getD 0)) s, .ok (some a))
      else State.takePage n (s.modPDie d part fun p => { p with poolBad := p.poolBad + 1 }) d part size

/-- The leaf entries that a page has: 16 for a 64 KiB page. -/
def leafEntries (pa : Nat) (big : Bool) : List Nat :=
  if big then (nums 16).map fun i => pa / 256 * 256 + 16 * i else [pa]

/-- A committed leaf: PA and CM set in every entry. -/
def State.commitLeaf (s : State) (pa : Nat) (big : Bool) (page : Nat) : State :=
  (leafEntries pa big).foldl (fun s a =>
    let e := s.num a 16
    s.putNum a 16 (e - fieldAt e 12 40 * 4096 + fieldAt page 12 40 * 4096 + (if bitAt e 6 then 0 else 64))) s

/-- A freed leaf: CM cleared in every entry. -/
def State.freeLeaf (s : State) (pa : Nat) (big : Bool) : State :=
  (leafEntries pa big).foldl (fun s a => let e := s.num a 16; if bitAt e 6 then s.putNum a 16 (e - 64) else s) s

/-- A refusal with a reason of POOL.ARG. -/
def poolArg (n : Nat) : Resp := refusal .poolArg (BitVec.ofNat 64 n) 0

/-- One operation of a pool unit; none for a pfree that waits for its translations to drain (11 R272). A pfree of a leaf with
CM = 0 changes nothing whatever SZ holds; one with CM = 1 under an invalid SZ takes POOL.ARG, reason 3 (DEDUCED, log 54). -/
def State.performPool (s : State) (d : Nat) (m : Msg) (op : PoolOp) (va : Word) (big : Bool) : State × Option Resp :=
  let p := s.pdie d m.part
  let done := answer [] 0 0
  match op, poolSize p with
  | .alloc _, none => (s, some (answer (toBytes 8 (2 ^ 64 - 1)) 0 0))
  | .alloc r, some z =>
    if poolCount p ≤ r then (s, some (answer (toBytes 8 (2 ^ 64 - 1)) 0 0))
    else match State.takePage (poolCount p) s d m.part z with
      | (s, .ok (some a)) => (s, some (answer (toBytes 8 a) 0 0))
      | (s, .ok none) => (s, some (answer (toBytes 8 (2 ^ 64 - 1)) 0 0))
      | (s, .error r) => (s, some r)
  | .commit, none => (s, some (poolArg 3))
  | .commit, some z =>
    if s.isPoisoned m.pa 16 then (s, some (poolPoison s m.pa 2))
    else if bitAt (s.num m.pa 16) 6 then (s, some done)
    else match State.takePage (poolCount p) s d m.part z with
      | (s, .ok (some a)) => (s.commitLeaf m.pa big a, some done)
      | (s, .ok none) => (s, some (poolArg 4))
      | (s, .error r) => (s, some r)
  | .free _, z =>
    if s.isPoisoned m.pa 16 then (s, some (poolPoison s m.pa 2))
    else if !bitAt (s.num m.pa 16) 6 then (s, some done)
    else if z.isNone then (s, some (poolArg 3))
    else if poolCap p ≤ poolCount p + p.poolRsv then (s, some (poolArg 5))
    else
      let s := s.freeLeaf m.pa big
      let s := s.modPDie d m.part fun p => { p with poolRsv := p.poolRsv + 1 }
      (s.eachPCore m.part (xlatDrop 0 (va.toNat / 4096)), none)

/-- Whether a request is a pfree past its first step. -/
def isFree : Req → Bool
  | .pool (.free _) _ _ => true
  | _ => false

/-- The page that a waiting pfree frees (13 R317). -/
def freedPage (m : Msg) : Nat :=
  match m.req with
  | .pool (.free page) _ _ => page
  | _ => 0

/-- Step 3 of a pfree: the page is appended at TAIL (11 R272). -/
def State.appendPage (s : State) (d : Nat) (m : Msg) : State :=
  let p := s.pdie d m.part
  let a := poolEntry p p.poolTail
  let s := s.putNum a 8 (freedPage m)
  let s := if clears a (.write (List.replicate 8 (some 0))) then s.unpoison a else s
  s.modPDie d m.part fun p => { p with poolTail := p.poolTail + 1, poolRsv := p.poolRsv - 1 }

/-- The pfree of a thread that waits at a pool unit. -/
def State.pfreeOf (s : State) (tid : Nat) : Option Msg :=
  s.waiters.find? fun w => isFree w.req && (match w.owner with | .thread t _ => decide (t = tid) | _ => false)

/-- Step 3 refused: the entry at TAIL is poisoned and a write of 8 bytes does not clear it (20 R426). -/
def State.appendRefused (s : State) (d : Nat) (m : Msg) : Option Resp :=
  let p := s.pdie d m.part
  let a := poolEntry p p.poolTail
  if s.isPoisoned a 8 && !clears a (.write (List.replicate 8 (some 0))) then some (poolPoison s a 1) else none

/-- The freed page of a thread appended and its pfree answered, once its translations have drained. -/
def State.pfreeStep (s : State) (tid : Nat) : Option State :=
  match s.pfreeOf tid with
  | none => none
  | some m =>
    match m.dst with
    | .pool d =>
      if (match m.req with | .pool _ va big => s.freeDrained m.part va big | _ => true) then
        match s.appendRefused d m with
        | some r => some (({ s.modPDie d m.part fun p => { p with poolRsv := p.poolRsv - 1 } with
            waiters := s.waiters.filter (· ≠ m) }).sendOuts m.dst (outsOf m r))
        | none => some (({ s.appendPage d m with waiters := s.waiters.filter (· ≠ m) }).sendOuts m.dst
            (outsOf m (answer [] 0 0)))
      else none
    | _ => none

/-! ### Device registers (23 R456) -/

/-- An access to a device register at its home. One that enters through a port reads it under the label rule of inbound reads
and writes it under the store rule with lv = O (18 R397, 22 R444). -/
def State.performReg (s : State) (m : Msg) : State × Resp :=
  let d := m.pa / 2 ^ 44 % 4
  let off := m.pa % 2 ^ 44
  if m.inbound && isReading m.req && !fits m.mlab (s.owner m.part) then
    (s.denied m.part, refusal .labelStore (storeInfo m.mlab (s.owner m.part) true true) m.mlab)
  else match m.req with
  | .read n => (s, answer (toBytes n (s.windowRead d off).toNat) m.mlab 0)
  | .label => (s, answer (toBytes 8 m.mlab.toNat) m.mlab 0)
  | .write l =>
    if !m.world then (s, refusal .memWorld (physInfo .memWorld m.pa 1) m.mlab)
    else if m.inbound && !fits (s.lvOf m) m.mlab then
      (s, refusal .labelStore (storeInfo (s.lvOf m) m.mlab false true) m.mlab)
    else (s.windowWrite (.thread true) d off (BitVec.ofNat 64 (fromBytes (l.map (·.getD 0)))), answer [] m.mlab 0)
  | _ => (s, refusal .memWidth (physInfo .memWidth m.pa (reqKind m.req)) m.mlab)

/-! ### Spilling (20 R428) -/

/-- The partition whose switched-out banks hold an address, when the message does not come from its control thread
there. -/
def State.spills (s : State) (core : Nat) (m : Msg) : Option Nat :=
  match s.partOfSlot (dieOf core) (m.pa % 2 ^ 19 / 65536) with
  | none => none
  | some p => if (s.pcore core p).phase = 3 && !(m.ctrl && decide (m.src = .core core)) then some p else none

/-- Capacity of a spill buffer in records. -/
def spillCap (p : PCore) : Nat := 2 ^ min (p.spillBase.toNat % 32) 16

/-- Bytes that nothing determines, drawn at the counter of free values. -/
def freeBytes (ctr n : Nat) : List Byte := (nums n).map fun i => (Config.freeWord (ctr + i / 8)).extractLsb' (8 * (i % 8)) 8

/-- A record appended to a spill buffer: the model keeps what it holds, and the 256 bytes at its place have a form that the
spec does not give (20 R428; DESIGN CHOICE, log 67). -/
def State.spillRecord (s : State) (core part : Nat) (f : PCore → PCore) : State :=
  let p := s.pcore core part
  let a := fieldAt p.spillBase.toNat 12 40 * 4096 + 256 * spillCount p
  let s := s.putBytes a ((freeBytes s.freeCtr 256).map some)
  { s with freeCtr := s.freeCtr + 32 }.modPCore core part f

/-- The budget class of a host-window request: 0 reads, 1 writes. -/
def budgetClass (r : Req) : Nat := if reqKind r = 0 then 0 else 1

/-- A host-window request of the package, one that a port loops back among them, counts against a budget at the host-link
node where it waits (22 R450). -/
def budgeted (m : Msg) : Bool :=
  isHostWin m.pa && (match m.dst with | .host _ => true | _ => false) && (match m.src with | .host _ => false | _ => true)

/-- Whether a request is held by a spent budget (22 R450). -/
def State.held (s : State) (m : Msg) : Bool :=
  budgeted m &&
  decide (vget (s.pp m.part).budget (budgetClass m.req) ≠ 0) &&
  decide ((vget (s.pp m.part).budget (budgetClass m.req)).toNat ≤ vget (s.pp m.part).spent (budgetClass m.req))

/-- Whether both clocks are stretched (23 R460). -/
def State.stretched (s : State) : Bool := s.sag || decide (s.cycle < s.sagEnd)

/-- Whether the watchdog of a partition stands still: a droop stretch, a power throttle (08 R177), or a request held by a
budget (20 R432). -/
def State.wdPaused (s : State) (part : Nat) : Bool :=
  s.stretched || s.throttled || s.arrivals.any fun a => a.2.any fun x => match x with
    | .req m => decide (m.part = part) && s.held m
    | _ => false

/-! ### Performing at any home -/

/-- A pfree that waits at its pool unit holds the page it frees (13 R317). -/
def State.holdPage (s : State) (m : Msg) : Msg :=
  match m.req with
  | .pool (.free _) va big => { m with req := .pool (.free (entPa (s.num m.pa 16))) va big }
  | _ => m

/-- An AtomicOp that the host's completer rejects: a refusal (13 R311, R301), with the information of MEM.PA (DESIGN CHOICE,
log 68). -/
def State.hostAtomic (s : State) (m : Msg) : State × Option Resp × List Out :=
  let t := { s with freeCtr := s.freeCtr + 1 }
  if Config.hostRejects s.freeCtr then (t, some (refusal .memPa (physInfo .memPa m.pa 2) (s.labelAt m.pa m.mlab)), [])
  else t.performWith m

/-- A request performed at its home: its answer, unless it waits or is spilled, and the answers it releases. -/
def State.performAt (s : State) (m : Msg) : State × Option Resp × List Out :=
  match m.dst with
  | .port _ => (s, some (refusal .memPa (physInfo .memPa m.pa (reqKind m.req)) m.mlab), [])
  | .disp d =>
    match m.req with
    | .dep op ctr x => let (s, r) := s.performDep d m op ctr x; (s, some r, [])
    | _ => (s, some (answer [] 0 0), [])
  | .pool d =>
    match m.req with
    | .pool op va big =>
      match s.performPool d m op va big with
      | (s, some r) => (s, some r, [])
      | (s, none) => ({ s with waiters := s.waiters ++ [s.holdPage m] }, none, [])
    | _ => (s, some (answer [] 0 0), [])
  | .core c =>
    match s.spills c m with
    | none => s.performWith m
    | some p =>
      let x := s.pcore c p
      if spillCount x < spillCap x then
        (s.spillRecord c p fun x => { x with spill := x.spill ++ [.req m] }, none, [])
      else
        ((s.modPCore c p fun x => { x with spillOvf := true }).refusedRead m,
          some (refusal .partOut (physInfo .partOut m.pa (reqKind m.req)) (s.labelAt m.pa m.mlab)), [])
  | .hbm _ | .tier _ =>
    let d := min (nodeDie m.dst) 1
    (if s.wdPaused m.part then s else s.modPDie d m.part fun p => { p with wdCnt := p.wdCnt + 1 }).performWith m
  | .host _ =>
    if isDevReg m.pa then (let (s, r) := s.performReg m; (s, some r, []))
    else match m.req with
      | .atomic .. => s.hostAtomic m
      | _ => s.performWith m

/-! ### Which message a home performs next (12 R277, 22 R450, 11 R270) -/

/-- Whether a pfree of the same pool is still in its second step: a pool unit performs one operation at a time (13 R319). -/
def State.poolBusy (s : State) (m : Msg) : Bool :=
  (match m.req with | .pool _ _ _ => true | _ => false) &&
  s.waiters.any fun w => isFree w.req && decide (w.dst = m.dst) && decide (w.part = m.part)

/-- Whether a home may perform an item now. -/
def State.ready (s : State) : Item → Bool
  | .req m => !s.held m && !s.poolBusy m && (match m.req, invPart m with
    | .write l, some p => s.invDrained p (BitVec.ofNat 64 (fromBytes (l.map (·.getD 0))))
    | _, _ => true)
  | _ => true

/-- Whether an item that may not be performed yet holds a later one behind it: at a host-link node a request holds the requests of
its partition and budget class (22 R450), elsewhere those of its channel (12 R274), and anywhere the withdrawal of its own
wait (09 R234). -/
def holdsBack (x y : Item) : Bool :=
  match x, y with
  | .req m, .req n =>
    if budgeted m then budgeted n && decide (m.part = n.part) && decide (budgetClass m.req = budgetClass n.req)
    else !budgeted n && decide (m.src = n.src) && decide (m.pl = n.pl)
  | .req m, .withdraw o _ => decide (m.owner = o)
  | _, _ => false

/-- The first item that may be performed and that no earlier item holds, and the queue without it. -/
def pickItem (s : State) : List Item → List Item → Option (Item × List Item)
  | _, [] => none
  | seen, x :: l =>
    if s.ready x && !seen.any (holdsBack · x) then some (x, l)
    else match pickItem s (x :: seen) l with
      | some (y, r) => some (y, x :: r)
      | none => none

/-- A budget spent by a host-window request. -/
def State.spend (s : State) (m : Msg) : State :=
  if budgeted m then
    s.modPP m.part fun p =>
      { p with spent := vset p.spent (budgetClass m.req) (vget p.spent (budgetClass m.req) + 1) }
  else s

/-- A Perform move at a home. -/
def State.performHead (s : State) (home : Node) : Option State :=
  match pickItem s [] (klist s.arrivals home) with
  | some (.req m, l) =>
    let s := ({ s with arrivals := kputList s.arrivals home l }).spend m
    let (s, r, o) := s.performAt m
    let s := match r with
      | some r => s.sendOuts home (outsOf m r)
      | none => s
    some (s.sendOuts home o)
  | _ => none

/-- A withdrawal that finds the spill buffer full: the waiter leaves the list and its word is refused with PART.OUT (20 R428;
DESIGN CHOICE, log 67). -/
def State.refuseWithdraw (s : State) (home : Node) (o : Owner) : State :=
  match s.waiters.find? fun w => decide (w.owner = o) && decide (w.dst = home) with
  | none => s
  | some w => ({ s with waiters := s.waiters.filter fun x => !(decide (x.owner = o) && decide (x.dst = home)) }).sendOuts home
      (outsOf w (refusal .partOut (physInfo .partOut w.pa (reqKind w.req)) (s.labelAt w.pa w.mlab)))

/-- A withdrawal taken at the head of a home's arrival queue. -/
def State.withdrawHead (s : State) (home : Node) : Option State :=
  match pickItem s [] (klist s.arrivals home) with
  | some (.withdraw o pa, l) =>
    let s := { s with arrivals := kputList s.arrivals home l }
    match home with
    | .core c =>
      match s.partOfSlot (dieOf c) (pa % 2 ^ 19 / 65536) with
      | some p =>
        if (s.pcore c p).phase = 3 then
          if spillCount (s.pcore c p) < spillCap (s.pcore c p) then
            some (s.spillRecord c p fun x => { x with spill := x.spill ++ [.withdraw o pa] })
          else some ((s.modPCore c p fun x => { x with spillOvf := true }).refuseWithdraw home o)
        else some (s.withdrawAt home o)
      | none => some (s.withdrawAt home o)
    | _ => some (s.withdrawAt home o)
  | _ => none

/-! ### Deliver and Combine (12 Table 12.3) -/

/-- A migrant whose record found the spill buffer full takes PART.OUT once it is resident again where it came from (20 R428;
DESIGN CHOICE, log 67). -/
def Thread.turnedAway (th : Thread) (va i1 : Word) (lab : Label) (cycle : Nat) : Thread :=
  { th with park := some ⟨.nop 0, .trapEntry (causeCode .partOut) 0 va i1 lab th.trapPc, cycle, 63, false, none, none, none, 0, 0, 0,
      0, []⟩ }

/-- A migrant record joins the arrival queue of its core, or the spill buffer; one that finds it full goes back to the core it
left (08 R207, 20 R428). -/
def State.landMigrant (s : State) (core : Nat) (th : Thread) (back : Nat) (va : Word) (pa : Nat) : State :=
  let p := s.pcore core th.part
  if p.phase ≠ 3 then s.modPCore core th.part fun p => { p with migQ := p.migQ ++ [th] }
  else if spillCount p < spillCap p then s.spillRecord core th.part fun p => { p with spillMig := p.spillMig ++ [th] }
  else
    (s.modPCore core th.part fun p => { p with spillOvf := true }).send (.core core) (.core back) .q
      (.migrant (th.turnedAway va (physInfo .partOut pa 0) (s.labelAt pa 0) s.cycle) back va pa)

/-- The head of a channel removed. -/
def State.popChannel (s : State) (src dst : Node) (pl : Plane) : State :=
  { s with channels := kputList s.channels (src, dst, pl) (klist s.channels (src, dst, pl)).tail }

/-- The places of a combined message in other channels removed. -/
def State.unjoin (s : State) (m : Msg) (pl : Plane) : State :=
  m.others.foldl (fun s (n, _) =>
    match klist s.channels (n, m.dst, pl) with
    | .joined x :: _ => if x = m.src then s.popChannel n m.dst pl else s
    | _ => s) s

/-- A Deliver move of a channel's head. -/
def State.deliver (s : State) (src dst : Node) (pl : Plane) : Option State :=
  match klist s.channels (src, dst, pl) with
  | [] => none
  | .req m :: _ => some (((s.popChannel src dst pl).unjoin m pl).arrive dst (.req m))
  | .withdraw o pa :: _ => some ((s.popChannel src dst pl).arrive dst (.withdraw o pa))
  | .resp n o i r :: _ => some ((s.popChannel src dst pl).toInbox n (.resp n o i r))
  | .migrant th back va pa :: _ =>
    match dst with
    | .core c => some ((s.popChannel src dst pl).landMigrant c th back va pa)
    | _ => some (s.popChannel src dst pl)
  | .bead e :: _ =>
    let t := s.popChannel src dst pl
    some (match nget t.engines e with
      | some g => if g.pos = .flying then { t with engines := nset t.engines e { g with pos := .come } } else t
      | none => t)
  | .int part vec gen :: _ => some ((s.popChannel src dst pl).modPP part fun p => { p with intReqs := p.intReqs ++ [(vec, gen)] })
  | .notice _ :: _ | .pause _ :: _ => some (s.popChannel src dst pl)
  | .joined a :: _ =>
    match klist s.channels (a, dst, pl) with
    | .req m :: _ => some (((s.popChannel a dst pl).unjoin m pl).arrive dst (.req m))
    | _ => none

/-- The quad's or row's router at which two routes to a home meet exists in every package: both end at the home
(22 R438). A combination needs one line, one partition and one value label (22 R443). -/
def combinable (a b : Msg) : Bool :=
  decide (a.pa = b.pa) && decide (a.part = b.part) && decide (a.lv = b.lv) && decide (a.inbound = b.inbound)

/-- The combined request of two, the flags that its rounding raises, and those of the second write before it. -/
def combined (a b : Msg) : Option (Req × BitVec 5 × BitVec 5) :=
  match a.req, b.req with
  | .sumAdd d fl, .sumAdd d' fl' => some (.sumAdd (d + d') (fl ||| fl'), 0, 0)
  | .redAdd l f fl, .redAdd l' f' fl' =>
    if f = f' then
      let (r, x) := redCombine f l l'
      some (.redAdd r f (fl ||| x), x, fl')
    else none
  | _, _ => none

/-- The place of a source that had been combined with `b` stands for its new message in channel `a` (22 R443). -/
def State.rejoin (s : State) (n dst a : Node) : State :=
  match klist s.channels (n, dst, .p) with
  | .joined _ :: l => { s with channels := kputList s.channels (n, dst, .p) (.joined a :: l) }
  | _ => s

/-- A Combine move of the heads of two channels to a home. A head that stands for several writes already brings all of them;
its Deliver removes them from every channel. -/
def State.combine (s : State) (a b dst : Node) : Option State :=
  if a = b then none
  else match klist s.channels (a, dst, .p), klist s.channels (b, dst, .p) with
  | .req x :: l, .req y :: k =>
    if !combinable x y then none
    else match combined x y with
      | none => none
      | some (r, z, g) =>
        let m := { x with
          req := r
          others := (x.others ++ (y.src, y.owner, y.idx, g) :: y.others).map fun (n, o, i, f) => (n, o, i, f ||| z)
          mlab := x.mlab ||| y.mlab
          mx := x.mx && y.mx }
        let s := { s with channels := kputList s.channels (a, dst, .p) (.req m :: l) }
        let s := y.others.foldl (fun s o => s.rejoin o.1 dst a) s
        some { s with channels := kputList s.channels (b, dst, .p) (.joined a :: k) }
  | _, _ => none

/-! ### What a completed access does (12 Table 12.3, Complete) -/

/-- Sign- or zero-extension of a loaded value (13 Table 13.1). -/
def ldExtend (t : LdTy) (x : Nat) : Word :=
  match t with
  | .i8 => BitVec.ofInt 64 (intOf true 8 (x % 2 ^ 8))
  | .i16 => BitVec.ofInt 64 (intOf true 16 (x % 2 ^ 16))
  | .i32 => BitVec.ofInt 64 (intOf true 32 (x % 2 ^ 32))
  | .i64 => BitVec.ofNat 64 x
  | .n8 => BitVec.ofNat 64 (x % 2 ^ 8)
  | .n16 => BitVec.ofNat 64 (x % 2 ^ 16)
  | .n32 => BitVec.ofNat 64 (x % 2 ^ 32)

/-- Bytes of a load. -/
def ldBytes : LdTy → Nat
  | .i8 | .n8 => 1
  | .i16 | .n16 => 2
  | .i32 | .n32 => 4
  | .i64 => 8

/-- The result of a vld under the mask, and with the label, of its issue: the enabled elements of the line (13 R313, 06
R150). -/
def vldResult (th : Thread) (d : VReg) (tag : Tag) (km : BitVec 16) (keep : Bool) (lab : Label) (l : List Byte) : VVal :=
  let w := (tagWidth tag).getD 32
  let line := BitVec.ofNat 512 (fromBytes l)
  let el (x : VBits) (e : Nat) : Nat := x.toNat / 2 ^ (w * e) % 2 ^ w
  let gov (e : Nat) : Nat := if w = 8 then e / 4 else if w = 16 then e / 2 else e
  let old := th.vreg d
  let bits := sumOver (nums (512 / w)) fun e => (if km.getLsbD (gov e) then el line e else el old.bits e) * 2 ^ (w * e)
  ⟨BitVec.ofNat 512 bits, tag, lab ||| (if keep then old.lab else 0)⟩

/-- The bytes of collected pieces in order of their offsets. -/
def assemble (l : List Got) : List Byte := ((sortBy (fun (a b : Got) => decide (a.idx ≤ b.idx)) l).map (·.bytes)).flatten

/-- The thread after its access: the register it waits for is written. The labels that the word has read, CTXL among them,
are those at its issue (02 R41). -/
def Cont.apply (c : Cont) (th : Thread) (bytes : List Byte) (loc : Label) (fl : Flags) : Thread :=
  let x := fromBytes bytes
  match c with
  | .load d t lab => th.putS d (ldExtend t x) (lab ||| loc)
  | .ack => th.post fl loc
  | .ackWait => th.widen loc
  | .vload d tag km keep lab =>
    let v := vldResult th d tag km keep (lab ||| loc) bytes
    th.putV d v.bits v.tag v.lab
  | .tload d lab =>
    let n := 8 * bytes.length
    th.putT d (BitVec.ofNat 16384 ((th.treg d).bits.toNat / 2 ^ n * 2 ^ n + x)) (lab ||| loc)
  | .atomic d w signed lab =>
    let v := match w, signed with
      | .w32, true => ldExtend .i32 x
      | .w32, false => ldExtend .n32 x
      | .w64, _ => BitVec.ofNat 64 x
    th.putS d v (lab ||| loc)
  | .waitRead d lab =>
    let th := th.widen loc
    th.putS d (BitVec.ofNat 64 (fromBytes (bytes.take 8)))
      (lab ||| loc ||| BitVec.ofNat 16 (fromBytes (bytes.drop 8)))
  | .read d lab => th.putS d (BitVec.ofNat 64 x) (lab ||| loc)
  | .label d lab => th.putS d (BitVec.ofNat 64 x) (lab ||| loc)
  | .sumRead d wide m lab =>
    let (v, f) := sumValue (if wide then fp64 else fp32) m x
    let l := lab ||| loc
    (th.putS d (BitVec.ofNat 64 v) l).post (f &&& (fInexact ||| fOverflow)) l
  | .sumFlags d fl lab => th.putS d (fl.setWidth 64) lab
  | .dep (some d) lab => th.putS d (BitVec.ofNat 64 x) (lab ||| loc)
  | .dep none _ => th
  | .pool (some d) _ lab => th.putS d (BitVec.ofNat 64 x) lab
  | .pool none _ _ => th
  | .rel d r lab _ _ => th.putS d r lab
  | .resume _ => th

/-- The host-window write of a message that goes to a host link: its offset in the access and its address (12 R287). -/
def msgDirty (m : Msg) : List (Nat × Nat) :=
  match m.dst with
  | .host _ => if isHostWin m.pa && decide (reqKind m.req ≠ 0) then [(m.idx, m.pa)] else []
  | _ => []

/-- The access of a list of messages: `n` answers are still to come, and `g` has been collected. -/
def accessOf (n : Nat) (g : List Got) (l : List Msg) (c : Cont) : Access :=
  ⟨n, g, none, l.map (·.dst), l.flatMap msgDirty, l.map fun m => (m.dst, m.pa, m.inbound), c⟩

/-- A performed host-window write, noted for the next .sys release (12 R287). -/
def Thread.wroteHost (th : Thread) (pa : Nat) : Thread :=
  let k := pa / 2 ^ 48 % 2
  { th with hostDirty := (k, pa) :: th.hostDirty.filter fun x => x.1 ≠ k }

/-- The thread of an access one of whose pieces has been performed. -/
def Thread.performed (th : Thread) (a : Access) (idx : Nat) (r : Resp) : Thread :=
  match (if r.ok then a.dirty.find? fun x => decide (x.1 = idx) else none) with
  | some x => th.wroteHost x.2
  | none => th

/-- The rotation of the word that follows a completed access: its stall count is counted from waking (03 R59). -/
def State.afterWake (s : State) (tid : Nat) (th : Thread) (i : Instr) : Nat := max (s.ownRot tid) th.nextRot + stallOf i

/-- The address that a refusal reports. -/
def refusedVa (r : Resp) : Word := BitVec.ofNat 64 (fromBytes r.bytes)

/-- A thread whose access has all its pieces. -/
def State.finishAccess (s : State) (tid : Nat) (th : Thread) (p : Park) (a : Access) : State :=
  match a.refused with
  | some (c, i0, i1, lab) =>
    match a.cont with
    | .rel d _ l _ _ =>
      -- A piece that the fabric refuses sets the status to 0x85 and stops the remaining pieces (18 R404).
      let th' := (th.putS d 0x85 l).retire p.instr
      (s.setThread tid { th' with nextRot := s.afterWake tid th p.instr }).denied th.part
    | _ => s.preciseTrap tid { th with park := none } c i0 i1 lab (max (s.ownRot tid) th.nextRot)
  | none =>
    let loc := labels (a.got.map (·.lab))
    let fl : Flags := a.got.foldl (fun x g => x ||| g.flags) 0
    let bytes := assemble a.got
    match a.cont with
    | .resume n =>
      s.setThread tid { th with park := none, again := some ⟨p.instr, p.first, n, p.data ++ bytes, p.lab ||| loc, false⟩ }
    | .rel d r l w (m :: rest) =>
      ((if w then s else s.released th.part).request m).setThread tid
        { th with park := some { p with acc := some (accessOf 1 [] [m] (.rel d r l true rest)) } }
    | c =>
      let s := match c with
        | .rel _ _ _ false [] => s.released th.part
        | _ => s
      let th' := (c.apply th bytes loc fl).retire p.instr
      s.setThread tid { th' with nextRot := s.afterWake tid th p.instr }

/-- The information of a wait that its home withdrew on expiry (13 R307; 09 Table 9.3). -/
def expiryInfo (p : Park) (bytes : List Byte) : Word × Word :=
  if bytes.length = 1 then (p.i0 ||| BitVec.ofNat 64 (64 * fromBytes bytes), p.i1)
  else (p.i0, BitVec.ofNat 64 (fromBytes bytes))

/-- A withdrawn waiter: WAIT.EXPIRED when its limit was reached, whose entry widens CTXL after it has been recorded (18 R393, 20
R410), else its word is abandoned (09 R234, 13 R308). -/
def State.withdrawn (s : State) (tid : Nat) (th : Thread) (p : Park) (r : Resp) : State :=
  let next := max (s.ownRot tid) th.nextRot
  match p.wd with
  | some true =>
    let (i0, i1) := expiryInfo p r.bytes
    s.preciseTrap tid { th with park := none } .waitExpired i0 i1 r.lab next
  | _ => s.setThread tid { (th.widen r.lab) with park := none, again := none, retry := none, nextRot := next }

/-- A piece of an access collected. -/
def collect (a : Access) (idx : Nat) (va : Word) (r : Resp) : Access :=
  if r.ok then { a with outstanding := a.outstanding - 1, got := a.got ++ [⟨idx, r.bytes, r.lab, r.flags⟩] }
  else { a with
    outstanding := a.outstanding - 1
    refused := a.refused.or (some (r.cause, va, r.i1, r.lab)) }

/-- A response reaches the thread that waits for it; a killed thread's response is discarded (13 R299). -/
def State.completeThread (s : State) (tid gen idx : Nat) (r : Resp) : State :=
  match s.thread? tid with
  | none => s
  | some th =>
    if th.gen ≠ gen then s
    else match th.park with
      | none => s
      | some p =>
        if r.withdrawn then s.withdrawn tid th p r
        else match p.acc with
          | none => s
          | some a =>
            let th := th.performed a idx r
            let a := collect a idx (refusedVa r) r
            if a.outstanding = 0 then s.finishAccess tid th p a
            else s.setThread tid { th with park := some { p with acc := some a } }

/-- A response to a scheduled access (08 R211). -/
def State.completeSched (s : State) (tid gen id idx : Nat) (r : Resp) : State :=
  s.modThread tid fun th =>
    if th.gen ≠ gen then th
    else
      let th := (th.sched.filter fun x => decide (x.id = id)).foldl (fun th x => th.performed x.acc idx r) th
      { th with sched := th.sched.map fun (x : Sched) =>
        if x.id = id then { x with acc := collect x.acc idx (refusedVa r) r } else x }

/-- The code of a store width (03 R71). -/
def widCode : Wid → Nat
  | .w8 => 0 | .w16 => 1 | .w32 => 2 | .w64 => 3

/-- A posted store's acknowledgement or refusal retires its journal entry (13 R304, 20 R422). -/
def State.completeJournal (s : State) (core entry : Nat) (r : Resp) : State :=
  match (s.core core).journal.find? fun j => j.serial = entry with
  | none => s
  | some j =>
    let s := s.modCore core fun c => { c with journal := c.journal.filter fun j => j.serial ≠ entry }
    if r.ok then
      match j.home with
      | .host _ => if isHostWin j.pa then s.modThread j.tid fun th => if th.gen = j.gen then th.wroteHost j.pa else th else s
      | _ => s
    else if j.dead then
      s.modPDie (dieOf core) (match s.partOfSlot (dieOf core) (slotOf j.tid) with | some p => p | none => 0) fun p =>
        { p with lostRefuse := p.lostRefuse + 1 }
    else
      s.deliverTo j.tid ⟨0x0211, 1, j.va,
        BitVec.ofNat 64 (j.num + widCode j.op * 2 ^ 5 + (causeCode r.cause).toNat * 2 ^ 16), r.lab⟩

end Sys2Proof.Machine
end

