-- ==== Sys2Proof/Machine/Issue.lean ====
section
/-! DEFINITION. How a word makes an access: its checks, the rules of bead slots, what it waits for, and whether it is
performed in the Issue move, sent, scheduled or shipped (12 R277, R281 to R288; 13 R298 to R308; 15 R366; 08 R206,
R211). -/

namespace Sys2Proof.Machine

/-! ### Pieces -/

/-- One piece of an access: the address reported for it, its own address, its offset in the whole and its size. -/
structure Piece where
  va : Word
  addr : Word
  off : Nat
  size : Nat
  req : Place → Req

/-- The largest naturally aligned piece, of at most 64 bytes, of two addresses and a length. -/
def pieceSize (a b len : Nat) : Nat :=
  ([64, 32, 16, 8, 4, 2].find? fun k => decide (a % k = 0) && decide (b % k = 0) && decide (k ≤ len)).getD 1

/-- A range cut into naturally aligned pieces (11 R257): offset and size of each. -/
def cutPieces : Nat → Nat → Nat → Nat → List (Nat × Nat)
  | 0, _, _, _ => []
  | fuel + 1, a, off, len =>
    if len = 0 then []
    else
      let k := pieceSize a a len
      (off, k) :: cutPieces fuel (a + k) (off + k) (len - k)

/-- The pieces of a range of `len` bytes at `a`. -/
def piecesOf (a : Word) (len : Nat) : List (Nat × Nat) := cutPieces len a.toNat 0 len

/-! ### Homes and open entries -/

/-- The open journal entries of a thread. -/
def State.openEntries (s : State) (tid : Nat) (th : Thread) : List JEntry :=
  (s.core (coreOf tid)).journal.filter fun j => decide (j.tid = tid) && decide (j.gen = th.gen)

/-- What a thread's open entries and its scheduled accesses that have not completed go to: the home, the address, and whether
the mapping has RP = 1 (12 R283, R296). -/
def State.openHomes (s : State) (tid : Nat) (th : Thread) : List (Node × Nat × Bool) :=
  (s.openEntries tid th).map (fun j => (j.home, j.pa, j.rp)) ++
  (th.sched.filter fun x => decide (x.acc.outstanding ≠ 0)).flatMap fun x => x.acc.pas

/-- Whether an access to one of these homes must wait. -/
def State.homeBusy (s : State) (tid : Nat) (th : Thread) (homes : List Node) : Bool :=
  (s.openHomes tid th).any fun h => homes.contains h.1

/-- What an access to one of these homes waits for: open entries park its thread (12 R283); earlier scheduled accesses alone hold
the access (12 R296). -/
def State.holdOn (s : State) (tid : Nat) (th : Thread) (homes : List Node) : Cond :=
  if (s.openEntries tid th).any fun j => homes.contains j.home then .homesClosed homes else .held homes

/-- Whether a scope covers a home, for a thread on a core (12 Table 12.4); `rp` when it is reached through a mapping with
RP = 1. -/
def State.coversHome (s : State) (core : Nat) (c : Scope) (home : Node) (pa : Nat) (rp : Bool) : Bool :=
  match c with
  | .lane => false
  | .core => decide (home = .core core)
  | .quad => match home with
    | .core k => decide (dieOf k = dieOf core) && decide (s.quadOf k = s.quadOf core)
    | _ => false
  | .die => match home with
    | .core k => decide (dieOf k = dieOf core)
    | .hbm _ | .tier _ => true
    | .host d => decide (d = dieOf core) && !isHostWin pa
    | .disp _ | .pool _ | .port _ => false
  | .pkg => match home with
    | .core _ | .hbm _ | .tier _ | .disp _ | .pool _ => true
    | .host _ => !isHostWin pa
    | .port _ => false
  | .pod => rp || !isHostWin pa || !(match home with | .host _ => true | _ => false)
  | .sys => true

/-- Whether an open entry of the thread lies in the cover of a scope (12 R285). -/
def State.openIn (s : State) (tid : Nat) (th : Thread) (c : Scope) : Bool :=
  (s.openHomes tid th).any fun h => s.coversHome (coreOf tid) c h.1 h.2.1 h.2.2

/-! ### Messages -/

/-- The message of a checked piece. -/
def pieceMsg (tid : Nat) (th : Thread) (owner : Owner) (lv : Label) (x : Piece) (p : Place) : Msg where
  src := .core (coreOf tid)
  dst := p.home
  pl := planeOf (x.req p)
  owner := owner
  idx := x.off
  pa := p.pa
  va := x.va
  part := th.part
  ctrl := decide (th.kind = .control)
  world := th.world
  mlab := p.leaf.lab
  mx := p.leaf.mx
  inbound := p.leaf.rp.isSome
  lv := lv
  req := x.req p
  others := []

/-- A failed access as a trap. -/
def XFail.trap (f : XFail) (th : Thread) (s : State) : Res := .trap th s f.cause f.i0 f.i1 f.lab

/-- The pieces of the issuing core's own local store performed in the Issue move: what they answer, how many wait, and
a refusal. -/
def performHere (core : Nat) : List Msg → State → State × List Got × Nat × Option Resp
  | [], s => (s, [], 0, none)
  | m :: l, s =>
    let (s, r, o) := s.performWith m
    let s := s.sendOuts (.core core) o
    match r with
    | none => let (s, g, n, f) := performHere core l s; (s, g, n + 1, f)
    | some r =>
      if r.ok then let (s, g, n, f) := performHere core l s; (s, ⟨m.idx, r.bytes, r.lab, r.flags⟩ :: g, n, f)
      else (s, [], 0, some r)

/-- A local piece that its home would refuse for poison. -/
def State.poisoned? (s : State) (l : List Msg) : Option Msg :=
  l.find? fun m => s.isPoisoned m.pa (reqLen m.req) && !clears m.pa m.req

/-! ### Bead slots read by loads (15 R366) -/

/-- What a read of a bead slot meets. -/
inductive SlotRead where
  | ok (s : State)
  | stop (r : Res)

/-- The information of SCHED.TAG (15 Table 15.10). -/
def schedTagInfo (n : Nat) (b : BSlot) : Word := BitVec.ofNat 64 (n * 2 ^ 32 + b.tag.toNat * 2 ^ 16 + b.etag.toNat)
/-- The information of SCHED.EMPTY and SCHED.MISSED. -/
def schedStateInfo (n : Nat) (b : BSlot) : Word := BitVec.ofNat 64 (n * 2 ^ 32 + b.state.toNat)

/-- The rule of a read of slot `n`, whose slot address is `addr` and whose location label is `lab`. -/
def readSlot (i : Instr) (tid : Nat) (th : Thread) (s : State) (n : Nat) (addr : Word) (lab : Label) : SlotRead :=
  let b := vget (s.pcore (coreOf tid) th.part).bslots n
  if b.state = 2 then
    if b.chk.getLsbD (slotOf tid) then .ok s
    else if b.tag ≠ b.etag then .stop (.trap th s .schedTag addr (schedTagInfo n b) lab)
    else .ok (s.modPCore (coreOf tid) th.part fun p =>
      { p with bslots := vset p.bslots n { b with chk := b.chk ||| (1#8 <<< slotOf tid) } })
  else if b.state = 3 then
    let p : Park := ⟨i, .slot n true addr, th.firstTry s, b.lim, true, none, none, none, BitVec.ofNat 64 (10 + n * 16), addr,
      lab, 0, []⟩
    .stop (if s.entryFree tid th.part then .park th s p else .retry th s p)
  else if b.state = 4 then .stop (.trap th s .schedMissed addr (schedStateInfo n b) lab)
  else .stop (.trap th s .schedEmpty addr (schedStateInfo n b) lab)

/-- The slot rules of every piece that lies in a bead slot. -/
def readSlots (i : Instr) (tid : Nat) (th : Thread) : List Place → State → SlotRead
  | [], s => .ok s
  | p :: l, s =>
    if p.here then
      match areaOf (s.pdie (dieOf (coreOf tid)) th.part) (p.pa % 2 ^ 19) with
      | .bead n =>
        match readSlot i tid th s n p.va (s.labelAt p.pa p.leaf.lab) with
        | .ok s => readSlots i tid th l s
        | .stop r => .stop r
      | _ => readSlots i tid th l s
    else readSlots i tid th l s

/-! ### Waits -/

/-- How a wait word waits: its limit, the information it expires with, and whether its home withdraws it. -/
structure Wait where
  lim : BitVec 6
  i0 : Word
  i1 : Word
  withdraw : Bool
  deriving DecidableEq, Repr

/-- How a word makes its access. -/
structure How where
  /-- The value label of a write; none when the store rule is not checked. -/
  lv : Option Label := none
  /-- The value label includes the location's own (13 R309). -/
  addLoc : Bool := false
  /-- The label that travels with the request. -/
  carry : Label := 0
  wait : Option Wait := none
  /-- A migrant ships for it (08 R206). -/
  ships : Bool := true
  /-- A timed thread schedules it (08 R211). -/
  sched : Bool := true

/-- The park of a thread until its pieces have completed. -/
def accPark (i : Instr) (th : Thread) (s : State) (h : How) (a : Access) (at_ : Option (Node × Plane × Nat)) (va : Word)
    (lab : Label) : Park :=
  match h.wait with
  | none => ⟨i, .access, th.firstTry s, 63, false, some a, none, none, 0, va, th.labSoFar ||| lab, 0, th.readSoFar⟩
  | some w => ⟨i, .access, th.firstTry s, w.lim, true, some a, none, if w.withdraw then at_ else none, w.i0, w.i1, lab, 0, []⟩

/-- The result of an access performed whole in its Issue move: vld is class F2, a scalar load or store class F1
(13 R298). -/
def performedHere (i : Instr) (th : Thread) (s : State) (c : Cont) (g : List Got) : Res :=
  let loc := labels (g.map (·.lab))
  let fl : Flags := g.foldl (fun x g => x ||| g.flags) 0
  match c with
  | .vload d tag km keep lab =>
    .done (th.later i s.rot 2 (.v d) (.v (vldResult th d tag km keep (lab ||| loc) (assemble g))) 0 0) s
  | .resume n =>
    .park th s ⟨i, .time s.cycle, th.firstTry s, 63, false, none, none, none, 0, 0, th.labSoFar ||| loc, n,
      th.readSoFar ++ assemble g⟩
  | c => .done (c.apply th (assemble g) loc fl) s

/-- The rotations of a scheduled access (08 R211). -/
def State.rlatRots (s : State) (th : Thread) : Nat :=
  match th.timed.bind (nget s.tgroups ·) with
  | some g => g.rlat / 8
  | none => 64

/-- The rotation in which a word counts as issued: one whose access was held back issued in the rotation before the one it is sent
in, since the rotations of the hold are a pause of its group (12 R296). -/
def Thread.issueRot (th : Thread) (s : State) : Nat := if th.again.any (·.firm) then s.rot - 1 else s.rot

/-- A scheduled access of a thread, which claims the registers it will write (02 R49, 08 R211). -/
def Thread.schedule (th : Thread) (i : Instr) (s : State) (a : Access) : Thread :=
  let dests := (touch i).2.filter fun d => !th.wired d
  let th' := dests.foldl Thread.claim th
  { th' with sched := th'.sched ++
      [⟨s.serial, th.issueRot s + s.rlatRots th, a, dests, th.pc, th.trapPc, BitVec.ofNat 2 (stallOf i)⟩] }

/-- A checked access performed, sent or scheduled. Its pieces are placed in ascending order of address, so that those to one home
are performed in that order, though any order among them is allowed (12 R281; DESIGN CHOICE, log 5). -/
def startPieces (i : Instr) (tid : Nat) (th : Thread) (s : State) (h : How) (c : Cont) (l : List (Piece × Place)) : Res :=
  let core := coreOf tid
  let here := l.filter fun x => x.2.here
  let away := l.filter fun x => !x.2.here
  let owner := Owner.thread tid th.gen
  let msgs := here.map fun (x, p) => pieceMsg tid th owner h.carry x p
  match s.poisoned? msgs with
  | some m => .trap th s .memPoison m.va (physInfo .memPoison m.pa (reqKind m.req)) (s.labelAt m.pa m.mlab)
  | none =>
    match performHere core msgs s with
    | (s, _, _, some r) => .trap th s r.cause (refusedVa r) r.i1 r.lab
    | (s, g, n, none) =>
      let out (o : Owner) : List Msg := away.map fun (x, p) => pieceMsg tid th o h.carry x p
      let a := accessOf (n + away.length) g (msgs ++ out owner) c
      if n = 0 && away.isEmpty then performedHere i th s c g
      else if h.sched && h.wait.isNone && s.isTimed tid th then
        let o := Owner.sched tid th.gen s.serial
        let s' := (out o).foldl State.request s
        .done (th.schedule i s a) s'.tick1
      else
        let s := (out owner).foldl State.request s
        match l with
        | [] => .park th s (accPark i th s h a none 0 0)
        | (x, p) :: _ =>
          .park th s (accPark i th s h a (some (p.home, planeOf (x.req p), p.pa)) x.va (s.labelAt p.pa p.leaf.lab))

/-- The core to which a migrant ships for an access, and the address it ships for (08 R206). -/
def shipTo (tid : Nat) (th : Thread) (l : List Place) : Option (Nat × Word × Nat) :=
  if th.kind ≠ .migrant then none
  else (l.filterMap fun p => match p.home with
    | .core c => if c ≠ coreOf tid && p.leaf.rp.isNone then some (c, p.va, p.pa) else none
    | _ => none).head?

/-- A failure of a piece reported under the address of its access: for a tile, its row's (14 R323). -/
def XFail.named (f : XFail) (l : List Piece) : XFail :=
  match l.find? fun (x : Piece) => decide (x.addr = f.i0) with
  | some x => { f with i0 := x.va }
  | none => f

/-- The label of the location of an access's first piece; empty when its checks fail. -/
def State.firstLabel (s : State) (w : Who) (q : Want) (l : List Piece) : Label :=
  match (s.checkAll w q (l.map fun x => (x.addr, x.size))).2 with
  | .ok (p :: _) => s.labelAt p.pa p.leaf.lab
  | _ => 0

/-- An access of a word, from its checks on. A wait form that finds no free entry of the wait table retries before its address is
checked (DESIGN CHOICE, log 22). -/
def access (i : Instr) (tid : Nat) (th : Thread) (s : State) (q : Want) (h : How) (c : Cont) (l : List Piece) : Res :=
  match (if s.entryFree tid th.part then none else h.wait) with
  | some w => .retry th s ⟨i, .access, th.firstTry s, w.lim, true, none, none, none, w.i0, w.i1,
      s.firstLabel (whoIs tid th) q l, 0, []⟩
  | none =>
  match s.checkAll (whoIs tid th) q (l.map fun x => (x.addr, x.size)) with
  | (s, .error f) => (f.named l).trap th s
  | (s, .ok ps) =>
    match (if h.ships then shipTo tid th ps else none) with
    | some (k, va, pa) => parkOn th s i (.ship k va pa)
    | none =>
      match (if q.slotRead then readSlots i tid th ps s else .ok s) with
      | .stop r => r
      | .ok s =>
        match (match h.lv with
          | some lv => ps.findSome? fun (p : Place) =>
              s.labelFail th.part (if h.addLoc then lv ||| s.labelAt p.pa p.leaf.lab else lv) p
          | none => none) with
        | some f => (f.named l).trap th (s.setDirties (whoIs tid th) q.kind ps)
        | none =>
          if s.homeBusy tid th (ps.map fun (p : Place) => p.home) then
            parkOn th s i (s.holdOn tid th (ps.map fun (p : Place) => p.home))
          else
            startPieces i tid th (s.setDirties (whoIs tid th) q.kind ps) h c (l.zip ps)

/-- An access of one naturally aligned piece. -/
def access1 (i : Instr) (tid : Nat) (th : Thread) (s : State) (q : Want) (h : How) (c : Cont) (va : Word)
    (req : Place → Req) : Res :=
  access i tid th s q h c [⟨va, va, 0, q.size, req⟩]

/-! ### Scopes (12 R284 to R288) -/

/-- The scope of a code. -/
def scopeOf (n : Nat) : Scope :=
  match n with
  | 0 => .lane | 1 => .core | 2 => .quad | 3 => .die | 4 => .pkg | 5 => .pod | _ => .sys

/-- The scope that a word runs at under SCOPE.CTL (12 R288). -/
def inScope (i : Instr) (tid : Nat) (th : Thread) (s : State) (c : Scope) (barrier : Bool) (body : State → Scope → Res) : Res :=
  let cap := (s.pp th.part).scopeCap.toNat
  if scopeCode c ≤ cap then body s c
  else if barrier || !(s.pp th.part).scopeDem then
    .trap th s .scopeCap (wordOf i) (BitVec.ofNat 64 (cap * 8 + scopeCode c)) 0
  else body (s.modPCore (coreOf tid) th.part fun p => { p with dmtd := true }) (scopeOf cap)

/-- The phase in which a word goes on after the host-link reads of a .sys release. -/
def sysPhase : Nat := 100

/-- The reads that a .sys release makes, one on each host link written (12 R287). -/
def hostRead (tid : Nat) (th : Thread) (x : Nat × Nat) : Msg where
  src := .core (coreOf tid)
  dst := .host x.1
  pl := .q
  owner := .thread tid th.gen
  idx := x.1
  pa := x.2
  va := 0
  part := th.part
  ctrl := decide (th.kind = .control)
  world := th.world
  mlab := 0
  mx := false
  inbound := false
  lv := 0
  req := .read 1
  others := []

/-- A release at a scope: the word goes on when no open entry lies in the cover, and at .sys after the host-link reads. -/
def released (i : Instr) (tid : Nat) (th : Thread) (s : State) (c : Scope) (body : Thread → State → Res) : Res :=
  if s.openIn tid th c then
    parkOn th s i (.scopeClosed c)
  else if c = .sys && !th.hostDirty.isEmpty && decide (th.phase ≠ sysPhase) then
    let l := th.hostDirty.map (hostRead tid th)
    .park th (l.foldl State.request s) ⟨i, .access, th.firstTry s, 63, false, some (accessOf l.length [] l (.resume sysPhase)),
      none, none, 0, 0, 0, 0, th.readSoFar⟩
  else body (if c = .sys then { th with hostDirty := [] } else th) s

/-! ### A request to a dispatcher or a pool unit -/

/-- A word that parks until a unit of its die has answered. -/
def askUnit (i : Instr) (tid : Nat) (th : Thread) (s : State) (dst : Node) (pa : Nat) (va : Word) (lv : Label) (req : Req)
    (c : Cont) : Res :=
  let m : Msg := {
    src := .core (coreOf tid), dst := dst, pl := .q, owner := .thread tid th.gen, idx := 0, pa := pa, va := va
    part := th.part, ctrl := decide (th.kind = .control), world := th.world, mlab := 0, mx := false, inbound := false
    lv := lv, req := req, others := [] }
  .park th (s.request m) ⟨i, .access, th.firstTry s, 63, false, some (accessOf 1 [] [m] c), none, none, 0, va, 0, 0, []⟩

end Sys2Proof.Machine
end

