-- ==== Sys2Proof/Machine/CtlReg.lean ====
section
/-! DEFINITION. Control-register moves (04 R113 to R119), with every register that a thread can name. -/

namespace Sys2Proof.Machine

/-! ### Timed mode (08 R209) -/

/-- The timed group of a thread while it runs in timed mode. -/
def State.groupOf (s : State) (th : Thread) : Option TGroup :=
  (th.timed.bind (nget s.tgroups ·)).bind fun g => if g.started then some g else none

/-- TG.VCC: the core's copy of the group's virtual cycle counter. -/
def State.vcc (s : State) (core : Nat) (th : Thread) : Nat :=
  match s.groupOf th with
  | some g => (nget g.vcc core).getD 0
  | none => 0

/-- TG.LAG: (QUARTZ − T0) − VCC. -/
def State.lag (s : State) (core : Nat) (th : Thread) : Word :=
  match s.groupOf th with
  | some g => s.quartz - BitVec.ofNat 64 (g.t0.getD 0) - BitVec.ofNat 64 ((nget g.vcc core).getD 0)
  | none => 0

/-! ### Reading (04 R114) -/

/-- Thread registers, CRN 0x000 to 0x0FF. -/
def readThreadCr (s : State) (tid : Nat) (th : Thread) (n : Nat) : Word :=
  if n = 0x000 then s.tstat tid th
  else if n = 0x001 then th.fpc
  else if n = 0x002 then th.ctxl.setWidth 64
  else if n = 0x008 then th.tepc
  else if n = 0x009 then th.tcause
  else if n = 0x00A then th.tinfo0
  else if n = 0x00B then th.tinfo1
  else if n = 0x00C then th.tsave
  else if n = 0x00D then th.tsig.setWidth 64
  else if n < 0x018 then (vget th.ts n).setWidth 64
  else if n = 0x018 then th.abown
  else if n = 0x019 then th.barPend.setWidth 64
  else if n = 0x01A then th.accWin.setWidth 64
  else th.depSel.setWidth 64

/-- Launch and placement registers, CRN 0x100 to 0x1FF (02 Table 2.12). -/
def readPlaceCr (s : State) (core : Nat) (th : Thread) (n : Nat) : Word :=
  let (x, y) := s.xy core
  if n = 0x100 then th.grpId.setWidth 64
  else if n = 0x101 then th.grpN.setWidth 64
  else if n = 0x102 then th.strId.setWidth 64
  else if n = 0x103 then th.strN.setWidth 64
  else if n = 0x104 then BitVec.ofNat 64 (core % 1024)
  else if n = 0x105 then BitVec.ofNat 64 (y * 256 + x)
  else if n = 0x106 then BitVec.ofNat 64 (s.quadOf core)
  else if n = 0x107 then BitVec.ofNat 64 (dieOf core)
  else if n = 0x108 then s.fixed.pkgId.setWidth 64
  else th.arg

/-- Core registers, CRN 0x200 to 0x3FF. -/
def readCoreCr (s : State) (core : Nat) (th : Thread) (n : Nat) : Word :=
  let p := s.pcore core th.part
  if n = 0x200 then s.rodFailReg core
  else if n = 0x201 then p.rnsTrans.setWidth 64
  else if n = 0x202 then (p.ambUnst ++ p.ambUnloc).setWidth 64
  else if n < 0x230 then s.bslotReg core th.part (n - 0x220)
  else if n = 0x240 then p.waitRetry.setWidth 64
  else if n = 0x241 then BitVec.ofNat 64 p.migQ.length
  else if n = 0x242 then BitVec.ofNat 64 (s.vcc core th)
  else if n = 0x243 then s.lag core th
  else if n = 0x244 then killLog p
  else s.flintCnt core th.part

/-- Partition and die registers, CRN 0x400 to 0x7FF. -/
def readDieCr (s : State) (core : Nat) (th : Thread) (n : Nat) : Word :=
  let d := dieOf core
  let p := s.pp th.part
  let q := s.pdie d th.part
  if n < 0x404 then s.partCfg d (n - 0x400)
  else if n = 0x404 then BitVec.ofNat 64 (th.part % 4)
  else if n = 0x405 then s.scopeCtl core th.part
  else if n = 0x406 then p.trapVec
  else if n < 0x40C then s.partMem d (n - 0x408)
  else if n = 0x410 then p.s1
  else if n = 0x411 then p.s2
  else if n = 0x412 then p.rng
  else if n = 0x414 then q.poolRing
  else if n = 0x415 then s.poolIdx d th.part
  else if n = 0x416 then q.poolBad.setWidth 64
  else if n = 0x417 then p.tensTbl
  else if n = 0x418 then s.prinMap.setWidth 64
  else if n = 0x419 then s.partOwn th.part
  else if n = 0x41A then s.gatePol th.part
  else if n = 0x41B then s.gateCnt th.part
  else if n = 0x41C then s.fixed.serial
  else if n = 0x41D then s.fixed.gateBoot
  else if n = 0x420 then s.cswCtl core th.part
  else if n = 0x421 then (s.pcore core th.part).spillBase
  else if n = 0x422 then s.spillN core th.part
  else if n < 0x460 then (vget (s.die d).hmap (n - 0x440)).setWidth 64
  else if n = 0x460 then BitVec.ofNat 64 (liveN (s.die d))
  else if n = 0x461 then q.ageLim.setWidth 64
  else if n = 0x464 then s.quartz
  else if n = 0x465 then q.wdCnt
  else if n = 0x466 then q.wdLim
  else if n = 0x467 then s.lostCnt d th.part
  else if n = 0x468 then 0
  else if n < 0x474 then vget p.redWin (n - 0x470)
  else if n = 0x474 then s.linkSt d
  else if n = 0x475 then p.podCfg
  else if n = 0x480 then (s.die d).droopStr ++ (s.die d).droopEvt
  else (s.die d).pwrRot.setWidth 64

/-- The value of a control register other than DEP.VAL. -/
def readCr (s : State) (tid : Nat) (th : Thread) (n : Nat) : Word :=
  if n < 0x100 then readThreadCr s tid th n
  else if n < 0x200 then readPlaceCr s (coreOf tid) th n
  else if n < 0x400 then readCoreCr s (coreOf tid) th n
  else readDieCr s (coreOf tid) th n

/-- The label besides CTXL that a read carries: TCAUSE[63:48] for the trap registers, the bead label for BSLOTn
(04 R114, 15 R364). -/
def crLabel (s : State) (core : Nat) (th : Thread) (n : Nat) : Label :=
  if 0x008 ≤ n ∧ n ≤ 0x00C then th.tcause.extractLsb' 48 16
  else if 0x220 ≤ n ∧ n < 0x220 + (s.pdie (dieOf core) th.part).bslots ∧ n < 0x230 then
    (vget (s.pcore core th.part).bslots (n - 0x220)).lab
  else 0

/-! ### Writing (04 R115, Table 4.7) -/

/-- The three write functions. -/
inductive CrFn where | write | set | clear
  deriving DecidableEq, Repr

/-- The value v of R115. -/
def crNew (f : CrFn) (old x : Word) : Word :=
  match f with
  | .write => x
  | .set => old ||| x
  | .clear => old &&& ~~~x

/-- What a W1C field becomes. -/
def w1c {n : Nat} (f : CrFn) (old x : BitVec n) : BitVec n :=
  match f with
  | .set => old
  | .write | .clear => old &&& ~~~x

/-- What a WO field acts on; mtcrc does not act. -/
def woBits (f : CrFn) (x : Word) : Option Word :=
  match f with
  | .write | .set => some x
  | .clear => none

/-- The bytes of one element, for the size of a tile: 1 for raw (02 R40, 05 Table 5.1). -/
def elemSize (g : Tag) : Nat := match tagWidth g with | some w => w / 8 | none => 1

/-- ROWS, COLS and FMT of a shape register (02 Table 2.3). -/
def tsRows (x : BitVec 32) : Nat := (x.extractLsb' 0 7).toNat
/-- COLS. -/
def tsCols (x : BitVec 32) : Nat := (x.extractLsb' 7 7).toNat
/-- FMT. -/
def tsFmt (x : BitVec 32) : Tag := x.extractLsb' 16 6
/-- An unshaped register (02 R39). -/
def unshaped (x : BitVec 32) : Bool := decide (tsRows x = 0) || decide (tsCols x = 0)

/-- Whether a shape register may hold a value (02 R39, R40). -/
def shapeOk (x : BitVec 32) : Bool :=
  decide (tsRows x ≤ 64) && decide (tsCols x ≤ 64) && tagAssigned (tsFmt x) &&
  decide (tsRows x * tsCols x * elemSize (tsFmt x) ≤ 2048)

/-- The fields that a shape register keeps of a value. -/
def shapeKeep (x : BitVec 32) : BitVec 32 := x &&& 0x003F3FFF#32

/-- FPC after a write (02 Table 2.5, Table 4.7). -/
def fpcNew (f : CrFn) (old x : Word) : Word :=
  (crNew f old x &&& 0xFFFFFFFFFFFC03FF#64) ||| (w1c f old x &&& 0x3F000#64)

/-- The trap CR.VALUE. -/
def crValue (th : Thread) (s : State) (n : Nat) (v : Word) : Res := .trap th s .crValue (BitVec.ofNat 64 n) v 0

/-- A write of a shape register. -/
def writeShape (th : Thread) (s : State) (n : TReg) (v : Word) : Res :=
  if shapeOk (v.setWidth 32) then .done (th.putShape n (shapeKeep (v.setWidth 32))) s
  else crValue th s (0x10 + n.toNat) v

/-- A write of a thread register. -/
def writeThreadCr (s : State) (th : Thread) (n : Nat) (f : CrFn) (x : Word) : Res :=
  if n = 0x000 then .done { th with sbc := (crNew f (if th.sbc then 1 else 0) x).getLsbD 0 } s
  else if n = 0x001 then
    let v := crNew f th.fpc x
    if 5 ≤ v.toNat % 8 then crValue th s 1 v else .done { th with fpc := fpcNew f th.fpc x } s
  else if n = 0x002 then
    .done (if f = .clear then th else th.widen ((crNew f (th.ctxl.setWidth 64) x).setWidth 16)) s
  else if n = 0x008 then .done { th with tepc := crNew f th.tepc x } s
  else if n = 0x009 then .done { th with tcause := crNew f th.tcause x &&& 0xFFFF00FF0000FFFF#64 } s
  else if n = 0x00A then .done { th with tinfo0 := crNew f th.tinfo0 x } s
  else if n = 0x00B then .done { th with tinfo1 := crNew f th.tinfo1 x } s
  else if n = 0x00C then .done { th with tsave := crNew f th.tsave x } s
  else if n = 0x00D then .done { th with tsig := (crNew f (th.tsig.setWidth 64) x).setWidth 16 } s
  else if 0x010 ≤ n ∧ n < 0x018 then
    writeShape th s (BitVec.ofNat 3 n) (crNew f ((th.tsreg (BitVec.ofNat 3 n)).setWidth 64) x)
  else if n = 0x01A then .done { th with accWin := (crNew f (th.accWin.setWidth 64) x).setWidth 5 } s
  else if n = 0x01B then .done { th with depSel := (crNew f (th.depSel.setWidth 64) x).setWidth 8 } s
  else .done th s

/-- A write of any other register, by a thread of the given core (12 R288, 20 Table 20.3, 22 R449). CSW.CTL and SPILL.BASE take
mtcr alone: "any other CRM write changes only CTXL" (20, after Table 20.3). -/
def writeOtherCr (s : State) (core : Nat) (th : Thread) (n : Nat) (f : CrFn) (x : Word) : State :=
  let secure := decide (th.kind = .control) && th.world
  if n = 0x405 then
    s.modPCore core th.part fun p => { p with dmtd := p.dmtd && !(decide (f ≠ .set) && x.getLsbD 16) }
  else if n = 0x420 then
    if secure && decide (f = .write) then s.cswWrite core th.part (some (x.extractLsb' 16 32)) (x.getLsbD 2) (x.getLsbD 3)
    else s
  else if n = 0x421 then
    if secure && decide (f = .write) then
      s.modPCore core th.part fun p => { p with spillBase := keepBits x 51 12 ||| keepBits x 4 0 }
    else s
  else if n = 0x422 then
    s.modPCore core th.part fun p => { p with spillOvf := p.spillOvf && !(decide (f ≠ .set) && x.getLsbD 32) }
  else if n = 0x468 then
    match woBits f x with
    | some y => s.intRequest core th.part th.ctxl (y.extractLsb' 0 8)
    | none => s
  else s

/-! ### Words -/

/-- A CRM that must wait until everything issued before it has posted (04 R117). -/
def awaitsPosts (s : State) (tid : Nat) (th : Thread) (c : BitVec 12) : Bool :=
  (decide (c = 1) || decide (c = 2)) && th.again.isNone && !(th.pend.isEmpty && (s.cmds tid).isEmpty)

/-- A CRM read. -/
def crRead (i : Instr) (tid : Nat) (th : Thread) (s : State) (x : SReg) (c : BitVec 12) : Res :=
  if awaitsPosts s tid th c then parkOn th s i (.posted th.lastDue s.serial)
  else if c = 0x463 then
    askUnit i tid th s (.disp (dieOf (coreOf tid))) 0 0 th.ctxl (.dep .read th.depSel.toNat 0) (.dep (some x) th.ctxl)
  else .done (th.putS x (readCr s tid th c.toNat) (crLabel s (coreOf tid) th c.toNat ||| th.ctxl)) s

/-- The operation of a write of DEP.VAL at the dispatcher. -/
def depOp : CrFn → DepOp
  | .write => .write
  | .set => .set
  | .clear => .clear

/-- A CRM write: CTXL widens first. -/
def crWrite (i : Instr) (f : CrFn) (tid : Nat) (th : Thread) (s : State) (x : SReg) (c : BitVec 12) : Res :=
  if awaitsPosts s tid th c then parkOn th s i (.posted th.lastDue s.serial)
  else
    let v := th.sv x
    let th := th.widen (th.sl x)
    if c = 0x463 then
      askUnit i tid th s (.disp (dieOf (coreOf tid))) 0 0 th.ctxl (.dep (depOp f) th.depSel.toNat v) (.dep none 0)
    else if c.toNat < 0x100 then writeThreadCr s th c.toNat f v
    else
      -- A switch that the write starts delivers PREEMPT to other threads only.
      .done th (writeOtherCr s (coreOf tid) th c.toNat f v)

/-- mfcr (04 R114). -/
def execMfcr (st : Stall) (x : SReg) (c : BitVec 12) (s : State) : Host.Outcome State Fault Refusal :=
  issue (.mfcr st x c) s fun th s => crRead (.mfcr st x c) s.cur th s x c

/-- mtcr (04 R115). -/
def execMtcr (st : Stall) (x : SReg) (c : BitVec 12) (s : State) : Host.Outcome State Fault Refusal :=
  issue (.mtcr st x c) s fun th s => crWrite (.mtcr st x c) .write s.cur th s x c

/-- mtcrs (04 R115). -/
def execMtcrs (st : Stall) (x : SReg) (c : BitVec 12) (s : State) : Host.Outcome State Fault Refusal :=
  issue (.mtcrs st x c) s fun th s => crWrite (.mtcrs st x c) .set s.cur th s x c

/-- mtcrc (04 R115). -/
def execMtcrc (st : Stall) (x : SReg) (c : BitVec 12) (s : State) : Host.Outcome State Fault Refusal :=
  issue (.mtcrc st x c) s fun th s => crWrite (.mtcrc st x c) .clear s.cur th s x c

end Sys2Proof.Machine
end

