-- ==== Sys2Proof/Machine/Launch.lean ====
section
/-! DEFINITION. Launch descriptors, units and the queue of a dispatcher (08 R189 to R197), and who belongs to a barrier
(08 R203, 22 R445). -/

namespace Sys2Proof.Machine

/-! ### Descriptors (08 R189) -/

/-- The `n`-byte field at offset `o`. -/
def byteField (l : List Byte) (o n : Nat) : Nat := fromBytes ((l.drop o).take n)

/-- A descriptor's bytes taken apart. -/
def descOf (l : List Byte) : Desc where
  entry := BitVec.ofNat 64 (byteField l 0x00 8)
  arg := BitVec.ofNat 64 (byteField l 0x08 8)
  status := BitVec.ofNat 64 (byteField l 0x10 8)
  groups := byteField l 0x18 4
  geom := BitVec.ofNat 32 (byteField l 0x1C 4)
  region := BitVec.ofNat 32 (byteField l 0x20 4)
  tbudget := byteField l 0x24 4
  rlat := byteField l 0x28 4
  donedep := BitVec.ofNat 16 (byteField l 0x2C 2)
  rsv2 := BitVec.ofNat 16 (byteField l 0x2E 2)
  waits := (nums 4).map fun i => BitVec.ofNat 16 (byteField l (0x30 + 2 * i) 2)
  rsv := BitVec.ofNat 64 (byteField l 0x38 8)

/-- DIES. -/
def Desc.dies (d : Desc) : BitVec 2 := d.geom.extractLsb' 16 2
/-- PRIO. -/
def Desc.prio (d : Desc) : Nat := (d.geom.extractLsb' 8 3).toNat
/-- CORES. -/
def Desc.cores (d : Desc) : Bool := d.geom.getLsbD 7
/-- TIMED. -/
def Desc.timed (d : Desc) : Bool := d.geom.getLsbD 6
/-- SHORT. -/
def Desc.short (d : Desc) : Bool := d.geom.getLsbD 5
/-- M. -/
def Desc.slots (d : Desc) : Nat := (d.geom.extractLsb' 2 3).toNat
/-- W, as coded. -/
def Desc.wcode (d : Desc) : Nat := (d.geom.extractLsb' 0 2).toNat
/-- RLAT in cc; 0 selects 512. -/
def Desc.lat (d : Desc) : Nat := if d.rlat = 0 then 512 else d.rlat

/-- The scope that covers a launch's placement (R200, 09 R221). -/
def Desc.cover (d : Desc) : Scope := if d.dies = 1 || d.dies = 2 then .die else .pkg

/-- A dependence reference that names no counter and has other bits, or reserved bits. -/
def badDep (x : BitVec 16) : Bool := if x.getLsbD 15 then decide (x.extractLsb' 8 7 ≠ 0) else decide (x ≠ 0)

/-- An address that is a multiple of `n` and canonical. -/
def goodAddr (a : Word) (n : Nat) : Bool := decide (a.toNat % n = 0) && decide (a.toNat < 2 ^ 56)

/-- DESC.BAD (R191). -/
def Desc.bad (d : Desc) : Bool :=
  decide (d.wcode = 3) || decide (d.slots = 0) || decide (d.dies = 0) || decide (d.groups = 0) ||
  decide (d.geom.extractLsb' 18 14 ≠ 0) || decide (d.geom.extractLsb' 11 5 ≠ 0) || decide (d.region.extractLsb' 16 16 ≠ 0) ||
  decide (d.rsv2 ≠ 0) || decide (d.rsv ≠ 0) ||
  decide (d.region.extractLsb' 8 4 < d.region.extractLsb' 0 4) || decide (d.region.extractLsb' 12 4 < d.region.extractLsb' 4 4) ||
  decide (d.rlat % 8 ≠ 0) || decide (65536 < d.rlat) || !goodAddr d.entry 4 || !goodAddr d.status 8 ||
  badDep d.donedep || d.waits.any badDep

/-! ### Units (08 R192 to R194) -/

/-- The cores of a die that stand in a rectangle of quads and are in service, in logical order. -/
def State.coresIn (s : State) (d : Nat) (r : BitVec 32) : List Nat :=
  ((nums (liveN (s.die d))).map fun l => d * 1024 + l).filter fun c =>
    let (x, y) := s.xy c
    s.inService c && decide ((r.extractLsb' 0 4).toNat ≤ x / 2) && decide (x / 2 ≤ (r.extractLsb' 8 4).toNat) &&
      decide ((r.extractLsb' 4 4).toNat ≤ y / 2) && decide (y / 2 ≤ (r.extractLsb' 12 4).toNat)

/-- Whether two cores of a die stand in one unit place: a core, a pair or a quad. -/
def State.mates (s : State) (w a b : Nat) : Bool :=
  if w = 0 then decide (a = b)
  else decide (s.quadOf a = s.quadOf b) && (decide (w = 2) || decide ((s.xy a).2 = (s.xy b).2))

/-- Whether so many cores make a unit, in a quad of so many live cores: a broken quad holds no pair. -/
def unitWhole (w : Nat) (short : Bool) (n q : Nat) : Bool :=
  if w = 0 then decide (n = 1) else if w = 1 then decide (n = 2) && decide (3 ≤ q) else decide (n = 4) || (short && decide (n = 3))

/-- The units of one die: each unit stands at its lowest core. -/
def State.dieUnits (s : State) (d : Nat) (x : Desc) : List (List Nat) :=
  let l := s.coresIn d x.region
  l.filterMap fun c =>
    let m := l.filter fun b => s.mates x.wcode c b
    if m.head? = some c && unitWhole x.wcode x.short m.length (l.filter (s.mates 2 c)).length then some m else none

/-- The units of a launch. -/
def State.unitsOf (s : State) (part : Nat) (x : Desc) : List (List Nat) :=
  ((nums s.diesOf).filter fun d => x.dies.getLsbD d && (s.pdie d part).v).flatMap fun d => s.dieUnits d x

/-- The strands of one launch that a core of a unit holds (R193). -/
def State.capacity (s : State) (part : Nat) (x : Desc) (u : List Nat) : Nat :=
  (computeSlots (s.pdie (dieOf (u.headD 0)) part)).length / max x.slots 1

/-! ### The queue (08 R196) -/

/-- Whether a launch takes an entry of its dispatcher's queue: until its last group is dealt, or an error ends its deal. -/
def Launch.queued (x : Launch) : Bool := !x.checked || (decide (x.dealt < x.desc.groups) && !x.poisoned)

/-- The entries of a partition in use on a die. -/
def State.queueUse (s : State) (d part : Nat) : Nat :=
  (s.launches.filter fun (_, (x : Launch)) => decide (x.die = d) && decide (x.part = part) && x.queued).length

/-- A launch queued at its level. -/
def State.enqueueLaunch (s : State) (d part : Nat) (ctxl : Label) (x : Desc) : State :=
  let l : Launch := ⟨d, part, ctxl, x, x.prio, s.cycle, s.serial, false, [], 0, [], [], 0, false, [], false, false, false, 0, 0⟩
  { s with launches := nset s.launches s.serial l }.tick1

/-! ### Barrier membership (08 R203, 22 R445) -/

/-- The number of the scope instance that a core stands in. -/
def State.placeOf (s : State) (core : Nat) (c : Scope) : Nat :=
  match c with
  | .core => core
  | .quad => dieOf core * 256 + s.quadOf core
  | .die => dieOf core
  | .lane | .pkg | .pod | .sys => 0

/-- The barrier that a thread is a member of at a scope. Of spawned threads at .core, those of the partition on the core
that live meet there (log 43). -/
def State.barKey? (s : State) (tid : Nat) (th : Thread) (c : Scope) : Option BarKey :=
  let place := s.placeOf (coreOf tid) c
  if c = .pod && decide ((s.pp th.part).podCfg.extractLsb' 0 16 = 0) then none
  else match th.kind, th.launch with
  | .migrant, _ => none
  | .control, _ => some ⟨c, th.part, none, true, place⟩
  | .compute, none => if c = .core then some ⟨.core, th.part, none, false, place⟩ else none
  | .compute, some l =>
    if c = .pod && decide ((s.pp th.part).podToken.getD l ≠ l) then none else some ⟨c, th.part, some l, false, place⟩

/-- The groups dealt to a unit. -/
def dealtTo (x : Launch) (u : Nat) : Nat := (nget x.given u).getD 0

/-- The groups of the deal that a unit runs: every group g with g mod U its number, or those that an ended deal reached (R194). -/
def shareOf (x : Launch) (u : Nat) : Nat :=
  if x.poisoned then dealtTo x u else x.desc.groups / x.units.length + b2n (decide (u < x.desc.groups % x.units.length))

/-- The groups of a unit that are still to be dealt. -/
def undealt (x : Launch) (u : Nat) : Nat := shareOf x u - dealtTo x u

/-- The group that a unit runs next: the next of its numbers in ascending order (R194). -/
def nextGroup (x : Launch) (u : Nat) : Nat := u + x.units.length * dealtTo x u

/-- Whether a thread that is no strand is a member of a barrier. -/
def State.isMember (s : State) (k : BarKey) (tid : Nat) (th : Thread) : Bool :=
  decide (th.part = k.part) && decide (s.placeOf (coreOf tid) k.scope = k.place) &&
  (if k.ctrl then decide (th.kind = .control) else decide (th.kind = .compute) && th.launch.isNone)

/-- The spawned threads of a .core barrier that csave has vacated: they stay members while they are saved (09 R223, 20 R429). -/
def State.savedMembers (s : State) (k : BarKey) : List Nat :=
  if k.ctrl || decide (k.scope ≠ .core) then []
  else ((s.pcore k.place k.part).vacated.filter fun (_, (th : Thread)) => decide (th.kind = .compute) && th.launch.isNone).map
    fun (slot, _) => tidOf k.place slot

/-- The members of a barrier, counted over the whole deal. -/
def State.members (s : State) (k : BarKey) : Nat :=
  match k.launch with
  | some l =>
    match nget s.launches l with
    | none => 0
    | some x =>
      sumOver (x.units.zip (nums x.units.length)) fun (cs, u) =>
        (cs.filter fun c => decide (s.placeOf c k.scope = k.place)).length * shareOf x u
  | none => (s.threads.filter fun (t, th) => s.isMember k t th).length + (s.savedMembers k).length

/-- The members of a barrier that its phase still waits for. -/
def State.waitedFor (s : State) (k : BarKey) : Nat :=
  let arrived := ((kget s.barriers k).getD ⟨0, []⟩).arrived
  match k.launch with
  | some l =>
    match nget s.launches l with
    | none => 0
    | some x =>
      sumOver (x.units.zip (nums x.units.length)) (fun (cs, u) =>
        (cs.filter fun c => decide (s.placeOf c k.scope = k.place)).length * undealt x u) +
      (x.running.flatMap fun (g : Group) => g.tids.filter fun t =>
        decide (s.placeOf (coreOf t) k.scope = k.place) && !arrived.contains t).length
  | none => (s.threads.filter fun (t, th) => s.isMember k t th && !arrived.contains t).length +
      ((s.savedMembers k).filter fun t => !arrived.contains t).length

/-- Whether a thread has arrived at the present phase of a barrier. -/
def State.hasArrived (s : State) (k : BarKey) (tid : Nat) : Bool :=
  ((kget s.barriers k).getD ⟨0, []⟩).arrived.contains tid

/-- The node at which the arrivals of a barrier meet: the core itself at .core, else the dispatcher of its die or of die 0 (the
model's own; 12 Table 12.2 names the plane alone). -/
def barNode (k : BarKey) : Node :=
  match k.scope with
  | .core => .core k.place
  | .quad => .disp (k.place / 256)
  | .die => .disp k.place
  | .lane | .pkg | .pod | .sys => .disp 0

/-- Whether an arrival at a barrier is still on its way. -/
def State.arrivalOpen (s : State) (k : BarKey) : Bool :=
  s.channels.any fun c => decide (c.1.2.1 = barNode k) && c.2.contains (.notice k)

/-- Whether the completion of a barrier's phase is still on its way to a core. -/
def State.wakeOpen (s : State) (k : BarKey) (core : Nat) : Bool := (klist s.channels (barNode k, .core core, .k)).contains (.notice k)

/-- Whether the phase that a thread has arrived at is over, and its core has been told (09 R224). -/
def State.phaseOver (s : State) (k : BarKey) (tid : Nat) : Bool := !s.hasArrived k tid && !s.wakeOpen k (coreOf tid)

/-- A notice of a barrier on the K plane; within one core none is sent. -/
def State.sendNotice (s : State) (k : BarKey) (src dst : Node) : State := if src = dst then s else s.send src dst .k (.notice k)

/-- A thread arrives; at .pod its launch takes the pod token. -/
def State.arriveAt (s : State) (k : BarKey) (tid : Nat) : State :=
  let b := (kget s.barriers k).getD ⟨0, []⟩
  let s := { s with barriers := kset s.barriers k { b with arrived := b.arrived ++ [tid] } }
  let s := s.sendNotice k (.core (coreOf tid)) (barNode k)
  match k.scope, k.launch with
  | .pod, some l => s.modPP k.part fun p => { p with podToken := some l }
  | _, _ => s

end Sys2Proof.Machine
end

