-- ==== Sys2Proof/Machine/Thread.lean ====
section
/-! DEFINITION. Words that start, end and time threads: spawn, exit, launch, migr, waitq, tgstart, tgclk (09 R216 to R222,
R235 to R238). -/

namespace Sys2Proof.Machine

/-- THR.CTX with its reason (09 Table 9.2). -/
def thrCtx (th : Thread) (s : State) (i : Instr) (r : Nat) : Res := .trap th s .thrCtx (wordOf i) (BitVec.ofNat 64 r) 0

/-- The instruction cache of a partition on a core dropped: by a group's start, and by every spawn and migr issued there (11 R258). -/
def State.freshCode (s : State) (core part : Nat) : State := s.modPCore core part fun p => { p with icache := [] }

/-! ### spawn (09 R218, R219) -/

/-- The status of a spawn in slot `k` at entry `e`. -/
def State.spawnStatus (s : State) (tid : Nat) (th : Thread) (k : Nat) (e : Word) : Word :=
  let core := coreOf tid
  if !(computeSlots (s.pdie (dieOf core) th.part)).contains k then 1
  else if (s.thread? (tidOf core k)).isSome || s.justFreed core k || (s.core core).scrubs.any (fun x => decide (x.1 = k)) ||
      (s.pcore core th.part).vacated.any (fun x => decide (x.1 = k)) then 2
  else if !goodAddr e 4 then 3
  else 0

/-- The thread that a spawn starts. -/
def State.spawned (s : State) (th : Thread) (e arg : Word) : Thread :=
  { Thread.fresh s.serial .compute th.part e th.ctxl th.world (s.rot + 1) with strN := 1, arg := arg }

/-- spawn once every earlier write of the spawner has been performed. -/
def spawnNow (tid : Nat) (th : Thread) (s : State) (x y : SReg) : Res :=
  let k := (th.sv x).toNat % 8
  let e := th.sv y
  let arg := th.sv (y + 1)
  let th := th.widen (th.sl x ||| th.sl y ||| th.sl (y + 1))
  let st := s.spawnStatus tid th k e
  let s := if st = 0 then (s.setThread (tidOf (coreOf tid) k) (s.spawned th e arg)).tick1 else s
  .done (th.putS x st th.ctxl) (s.freshCode (coreOf tid) th.part)

/-- spawn (09 R218): a release at .sys (12 Table 12.5). -/
def execSpawn (st : Stall) (x y : SReg) (s : State) : Host.Outcome State Fault Refusal :=
  issue (.spawn st x y) s fun th s =>
    if th.kind ≠ .control then thrCtx th s (.spawn st x y) 1
    else released (.spawn st x y) s.cur th s .sys fun th s => spawnNow s.cur th s x y

/-! ### exit (09 R220) -/

/-- exit: it waits for the thread's fixed-latency results, then for its open entries and its scheduled accesses. -/
def execExit (st : Stall) (s : State) : Host.Outcome State Fault Refusal :=
  issue (.exit st) s fun th s =>
    if th.kind = .control then thrCtx th s (.exit st) 2
    else if th.abown ≠ 0 then .trap th s .accHeld th.abown 0 0
    else if !th.pend.isEmpty then parkOn th s (.exit st) (.posted th.lastDue 0)
    else if s.openIn s.cur th .sys then parkOn th s (.exit st) (.scopeClosed .sys)
    else if !th.sched.isEmpty then parkOn th s (.exit st) (.posted th.schedDue s.serial)
    else .gone (s.endThread s.cur th false)

/-! ### launch (09 R221) -/

/-- A launch whose descriptor has been read: it waits for its release, then the dispatcher answers. -/
def launchQueue (i : Instr) (tid : Nat) (th : Thread) (s : State) (x y : SReg) (a : Again) : Res :=
  let d := descOf a.data
  if s.openIn tid th d.cover then parkOn th s i (.scopeClosed d.cover)
  else
    let th := th.widen (th.sl y ||| a.lab)
    let die := dieOf (coreOf tid)
    if Config.queueEntries ≤ s.queueUse die th.part then .done (th.putS x 1 th.ctxl) s
    else .done (th.putS x 0 th.ctxl) (s.enqueueLaunch die th.part th.ctxl d)

/-- launch. -/
def execLaunch (st : Stall) (x y : SReg) (s : State) : Host.Outcome State Fault Refusal :=
  issue (.launch st x y) s fun th s =>
    match th.again.filter fun a => decide (a.phase = 1) with
    | some a => launchQueue (.launch st x y) s.cur th s x y a
    | none =>
      if !goodAddr (th.sv y) 64 then
        let th := th.widen (th.sl y)
        .done (th.putS x 2 th.ctxl) s
      else access1 (.launch st x y) s.cur th s { kind := 0, size := 64 } { sched := false } (.resume 1) (th.sv y)
        fun _ => .read 64

/-! ### migr (09 R222) -/

/-- The live migrants of a partition in the package: resident, queued, spilled, on their way (08 R207), and those that csave has
vacated in a switch, which RESUME starts again (DEDUCED, log 70). -/
def State.migrantCount (s : State) (part : Nat) : Nat :=
  let isIt (th : Thread) : Bool := decide (th.part = part) && decide (th.kind = .migrant)
  (s.threads.filter fun (_, th) => isIt th).length +
  sumOver s.cores (fun (_, (c : Core)) => (vget c.parts part).migQ.length + (vget c.parts part).spillMig.length +
    ((vget c.parts part).vacated.filter fun x => isIt x.2).length) +
  sumOver s.channels (fun (_, l) => (l.filter fun it => match it with | .migrant th _ _ _ => isIt th | _ => false).length)

/-- s1 to s24 with their labels, and zero elsewhere. -/
def carried (v : Vector SVal 64) : Vector SVal 64 :=
  Vector.ofFn fun i => if 1 ≤ i.val ∧ i.val ≤ 24 then v.get i else ⟨0, 0⟩

/-- The migrant that a migr creates. -/
def State.newMigrant (s : State) (th : Thread) (e : Word) (lab : Label) : Thread :=
  { Thread.fresh s.serial .migrant th.part e (th.ctxl ||| lab) th.world (s.rot + 1) with
    p := th.p
    s := carried th.s
    grpId := th.grpId
    grpN := th.grpN
    strId := th.strId
    strN := th.strN
    arg := th.arg
    slotsM := th.slotsM
    launch := th.launch }

/-- A launch has one migrant more. -/
def State.addMigrant (s : State) (l : Option Nat) : State :=
  match l with
  | none => s
  | some k =>
    match nget s.launches k with
    | none => s
    | some x => { s with launches := nset s.launches k { x with migrants := x.migrants + 1 } }

/-- migr: a release at .pkg (12 Table 12.5). Where several of its statuses apply, MIGH comes before the count and the count
before the address (DESIGN CHOICE, log 70). -/
def execMigr (st : Stall) (x y : SReg) (s : State) : Host.Outcome State Fault Refusal :=
  issue (.migr st x y) s fun th s => released (.migr st x y) s.cur th s .pkg fun th s =>
    let core := coreOf s.cur
    let lab := th.sl y ||| th.ctxl
    if !(s.pdie (dieOf core) th.part).migh then .done (th.putS x 1 lab) (s.freshCode core th.part)
    else if Config.maxMigrants ≤ s.migrantCount th.part then .done (th.putS x 2 lab) (s.freshCode core th.part)
    else if !goodAddr (th.sv y) 4 then .done (th.putS x 3 lab) (s.freshCode core th.part)
    else
      let m := s.newMigrant th (th.sv y) (th.sl y)
      .done (th.putS x 0 lab) ((((s.landMigrant core m core (th.sv y) 0).tick1).addMigrant th.launch).freshCode core th.part)

/-! ### waitq and tgclk (09 R235, R236) -/

/-- The clock that a thread waits on: VCC in timed mode, else QUARTZ. -/
def State.clockOf (s : State) (tid : Nat) (th : Thread) : Nat :=
  if (s.groupOf th).isSome then s.vcc (coreOf tid) th else s.quartz.toNat

/-- waitq. -/
def execWaitq (st : Stall) (x : SReg) (e : BitVec 6) (s : State) : Host.Outcome State Fault Refusal :=
  issue (.waitq st x e) s fun th s =>
    let clock := s.clockOf s.cur th
    let target := (th.sv x).toNat
    if target ≤ clock || th.again.isSome then .done th s
    else if e.toNat < 63 ∧ 2 ^ e.toNat < target - clock then
      .trap th s .waitExpired (BitVec.ofNat 64 (clock % 2 ^ 48 * 2 ^ 16 + 4)) (th.sv x) 0
    else parkOn th s (.waitq st x e) (.clock (s.groupOf th).isSome target)

/-- tgclk: VCC and the lag, 0 where VCC is ahead (log 7). -/
def execTgclk (st : Stall) (x : SReg) (s : State) : Host.Outcome State Fault Refusal :=
  issue (.tgclk st x) s fun th s =>
    if th.kind = .migrant then thrCtx th s (.tgclk st x) 4
    else
      let v := s.vcc (coreOf s.cur) th % 2 ^ 48 + min (s.lag (coreOf s.cur) th).toInt.toNat 65535 * 2 ^ 48
      .done (th.putS x (BitVec.ofNat 64 v) th.ctxl) s

/-! ### tgstart (09 R237, R238) -/

/-- RLAT of a tgstart operand. -/
def tgLat (v : Word) : Nat := if fieldAt v.toNat 32 17 = 0 then 512 else fieldAt v.toNat 32 17

/-- TG.ARG. -/
def tgBad (v : Word) : Bool :=
  decide (fieldAt v.toNat 49 15 ≠ 0) || decide (fieldAt v.toNat 32 17 % 8 ≠ 0) || decide (65536 < fieldAt v.toNat 32 17)

/-- The strands of a thread's group: of a spawned or control thread, the thread alone. -/
def State.strandsOf (s : State) (tid : Nat) (th : Thread) : List Nat :=
  match (th.launch.bind (nget s.launches ·)).bind fun x => x.running.find? fun (g : Group) => g.tids.contains tid with
  | some g => g.tids
  | none => [tid]

/-- The timed group that a thread's tgstart arrives at: its own, that of another strand of its group, or a new one. -/
def State.timedOf (s : State) (tid : Nat) (th : Thread) : Nat × TGroup :=
  let l := s.strandsOf tid th
  let known (t : Nat) : Option Nat := (s.thread? t).bind fun u => u.timed.bind fun g => (nget s.tgroups g).map fun _ => g
  match (l.filterMap known).head? with
  | some g => (g, (nget s.tgroups g).getD ⟨th.part, [], [], none, false, none, 0, 512, [], [], 0, 0, none, none, none, none⟩)
  | none =>
    let size := if th.launch.isNone then 1 else th.strN.toNat
    (s.serial, ⟨th.part, l, l.map coreOf, none, false, none, 0, 512, [], [], 0, size, none, none, none, th.launch⟩)

/-- The start that follows the last arrival: a multiple of 8 of the quartz, at least 64 cc later. -/
def startAt (quartz : Nat) : Nat := (quartz + 64 + 7) / 8 * 8

/-- A strand arrives at the start of its group. -/
def TGroup.arrive (g : TGroup) (tid : Nat) (v : Word) (cycle quartz : Nat) : TGroup :=
  let g := { g with
    tids := if g.tids.contains tid then g.tids else g.tids ++ [tid]
    arrived := g.arrived ++ [(tid, v)]
    firstAt := if g.arrived.isEmpty then cycle else g.firstAt }
  if g.size ≤ g.arrived.length then { g with nextT0 := some (startAt quartz) } else g

/-- tgstart. -/
def execTgstart (st : Stall) (y : SReg) (s : State) : Host.Outcome State Fault Refusal :=
  issue (.tgstart st y) s fun th s =>
    let v := th.sv y
    if th.kind = .migrant then thrCtx th s (.tgstart st y) 4
    else if tgBad v then .trap th s .tgArg v 0 0
    else if th.again.isSome then .done th s
    else
      let (k, g) := s.timedOf s.cur th
      let s := { s with tgroups := nset s.tgroups k (g.arrive s.cur v s.cycle s.quartz.toNat) }.tick1
      parkOn { th with timed := some k } s (.tgstart st y) (.tgstart k)

end Sys2Proof.Machine
end

