-- ==== Sys2Proof/Machine/Deal.lean ====
section
/-! DEFINITION. The dispatchers: checking a launch, dealing its groups, ageing, and completing it (08 R191 to R202,
R209); and the completion of barrier phases (09 R224, 22 R445). -/

namespace Sys2Proof.Machine

/-! ### Dependence counters (08 R199 to R201) -/

/-- The counter that a dependence reference names, on the launch's die. -/
def State.depCtr (s : State) (d part : Nat) (r : BitVec 16) : DepCtr :=
  (nget (s.pdie d part).deps (r.toNat % 256)).getD ⟨0, false, 0⟩

/-- The references of a launch that name a counter. -/
def Desc.waitsOn (d : Desc) : List (BitVec 16) := d.waits.filter fun r => r.getLsbD 15

/-- A launch that waits on a poisoned counter. -/
def State.depPoison (s : State) (x : Launch) : Bool := x.desc.waitsOn.any fun r => (s.depCtr x.die x.part r).psn

/-- A ready launch: every counter that it waits on reads zero now (R197). -/
def State.launchReady (s : State) (x : Launch) : Bool :=
  x.desc.waitsOn.all fun r => decide ((s.depCtr x.die x.part r).val = 0)

/-- DONEDEP at a launch's end: decremented, or poisoned by a launch that an error has failed. -/
def State.depDone (s : State) (x : Launch) (poison : Bool) : State :=
  let r := x.desc.donedep
  if !r.getLsbD 15 then s
  else s.modPDie x.die x.part fun p =>
    let c := (nget p.deps (r.toNat % 256)).getD ⟨0, false, 0⟩
    let v := if c.val = 0 then 0 else c.val - 1
    { p with deps := nset p.deps (r.toNat % 256) <|
      (if poison then { c with psn := true, lab := c.lab ||| x.ctxl } else { c with val := v, lab := c.lab ||| x.ctxl }) }

/-! ### The status word (08 R202, 18 R391) -/

/-- A status write that is lost (R191). -/
def State.lostStatusWrite (s : State) (d part : Nat) : State :=
  s.modPDie d part fun p => { p with lostStatus := p.lostStatus + 1 }

/-- The status write of a launch, as a message of its dispatcher. -/
def statusMsg (s : State) (x : Launch) (p : Place) (v : Word) : Msg where
  src := .disp x.die
  dst := p.home
  pl := .p
  owner := .status x.die x.part
  idx := 0
  pa := p.pa
  va := x.desc.status
  part := x.part
  ctrl := false
  world := s.worldOf (dispKey x.die)
  mlab := p.leaf.lab
  mx := p.leaf.mx
  inbound := p.leaf.rp.isSome
  lv := x.ctxl
  req := .write ((toBytes 8 v.toNat).map some)
  others := []

/-- A launch's status written under the store rule, or lost. One in the host window waits at its host-link node for the partition's
budget (22 R450). -/
def State.writeStatus (s : State) (x : Launch) (v : Word) : State :=
  let w : Who := ⟨x.die * 1024, x.part, s.worldOf (dispKey x.die), true, false⟩
  match s.check w { kind := 1, size := 8, word := true } x.desc.status with
  | (s, .error _) => s.lostStatusWrite x.die x.part
  | (s, .ok p) =>
    let s := s.setDirty w p
    match s.labelFail x.part x.ctxl p with
    | some _ => s.lostStatusWrite x.die x.part
    | none =>
      let m := statusMsg s x p v
      if budgeted m then s.request m
      else
        let (s, r, o) := s.performAt m
        let s := s.sendOuts p.home o
        match r with
        | some r => if r.ok then s else s.lostStatusWrite x.die x.part
        | none => s

/-- A launch that is over: DONEDEP, then the status word; the pod token returns, its barriers go. -/
def State.closeLaunch (s : State) (lid : Nat) (x : Launch) (code : Nat) (poison : Bool) : State :=
  let s := { s with launches := ndel s.launches lid, barriers := s.barriers.filter fun b => decide (b.1.launch ≠ some lid) }
  let s := s.modPP x.part fun p => { p with podToken := if p.podToken = some lid then none else p.podToken }
  let s := s.depDone x poison
  s.writeStatus x (BitVec.ofNat 64 (code + x.okGroups * 2 ^ 32))

/-! ### The checks (08 R191 to R195) -/

/-- The status code with which a launch fails as it leaves the queue; 0 when it does not. -/
def State.launchFail (s : State) (x : Launch) (units : List (List Nat)) : Nat :=
  if x.poisoned then 1
  else if s.depPoison x then 2
  else if x.desc.bad then 3
  else if units.isEmpty || units.any (fun u => decide (s.capacity x.part x.desc u = 0)) then 4
  else if x.desc.cores && decide (sumOver units (fun u => s.capacity x.part x.desc u) < x.desc.groups) then 5
  else 0

/-- A launch checked: it fails, or its units stand. -/
def State.checkLaunch (s : State) (lid : Nat) (x : Launch) : State :=
  let units := s.unitsOf x.part x.desc
  let code := s.launchFail x units
  if code = 0 then { s with launches := nset s.launches lid { x with checked := true, units := units } }
  else s.closeLaunch lid x code (decide (code ≤ 2))

/-- A counter that a checked launch waits on is poisoned: the launch is released with DEP.POISON and does not run, or, where
groups of it run already, none is dealt any more (R201; the latter a DESIGN CHOICE, log 41). -/
def State.depFail (s : State) (lid : Nat) (x : Launch) : State :=
  if x.dealt = 0 then s.closeLaunch lid x 2 true
  else { s with launches := nset s.launches lid { x with poisoned := true, depPsn := true } }

/-! ### The deal (08 R194, R197, R209) -/

/-- A launch that has waited at level 7 longer than AGE.LIM: places are held for it. -/
def State.aged (s : State) (x : Launch) : Bool :=
  decide (x.level = 7) && x.queued && x.checked && s.launchReady x &&
  decide (max x.since x.placed + (s.pdie x.die x.part).ageLim.toNat < s.cycle)

/-- Whether the places of a core are held for another launch of the partition. -/
def State.heldFor (s : State) (lid : Nat) (x : Launch) (core : Nat) : Bool :=
  s.launches.any fun (k, (y : Launch)) =>
    decide (k ≠ lid) && decide (y.part = x.part) && s.aged y && y.units.any (fun u => u.contains core) &&
    !(s.aged x && decide (x.since ≤ y.since))

/-- Whether slot `k` of a core is free for the groups that are placed as a rotation ends: free in that rotation, and left over by
its spawns (08 R181, 09 R219). -/
def State.slotFree (s : State) (part core k : Nat) : Bool :=
  (s.thread? (tidOf core k)).isNone && !((s.core core).freed.any fun x => decide (x.1 = k) && decide (s.rot ≤ x.2 + 1)) && !((s.core core).scrubs.any fun x => decide (x.1 = k)) &&
  !((s.pcore core part).vacated.any fun x => decide (x.1 = k)) && s.inService core

/-- The strands of a launch on a core, those that csave has vacated too (R193). -/
def State.strandsOn (s : State) (lid part core : Nat) : Nat :=
  ((s.pcore core part).vacated.filter fun (_, (th : Thread)) => decide (th.launch = some lid) && decide (th.kind = .compute)).length +
  (s.threads.filter fun (t, th) => decide (coreOf t = core) && decide (th.launch = some lid) && decide (th.kind = .compute)).length

/-- The slot that the next group of a launch takes in a unit: the lowest that is free on all its cores. -/
def State.groupSlot (s : State) (lid : Nat) (x : Launch) (u : List Nat) : Option Nat :=
  if u.any fun c => s.heldFor lid x c || decide (s.capacity x.part x.desc u ≤ s.strandsOn lid x.part c) then none
  else (computeSlots (s.pdie (dieOf (u.headD 0)) x.part)).find? fun k => u.all fun c => s.slotFree x.part c k

/-- A strand as it starts on a core, in the core's world (08 R194, 09 R221, 02 Table 2.7, 18 R398). -/
def State.strand (s : State) (lid : Nat) (x : Launch) (core g id n : Nat) (timed : Option Nat) : Thread :=
  { Thread.fresh s.serial .compute x.part x.desc.entry x.ctxl (s.worldOf core) s.rot with
    grpId := BitVec.ofNat 32 g
    grpN := BitVec.ofNat 32 x.desc.groups
    strId := BitVec.ofNat 2 id
    strN := BitVec.ofNat 3 n
    arg := x.desc.arg
    slotsM := x.desc.slots
    launch := some lid
    timed := timed
    park := timed.map fun t => ⟨.nop 0, .tgstart t, s.cycle, 63, false, none, none, none, 0, 0, 0, 0, []⟩ }

/-- The timed group of a group that is dealt: it starts at least 64 cc later (R209). -/
def dealtTimed (s : State) (lid : Nat) (x : Launch) (tids u : List Nat) : TGroup where
  part := x.part
  tids := tids
  cores := u
  t0 := none
  started := false
  nextT0 := some (startAt s.quartz.toNat)
  budget := x.desc.tbudget
  rlat := x.desc.lat
  vcc := []
  arrived := []
  firstAt := s.cycle
  size := u.length
  pausedFrom := none
  resumeAt := none
  late := none
  launch := some lid

/-- The next group of unit number `v`, whose cores are `u`, placed in slot `k` of each. -/
def State.startGroup (s : State) (lid : Nat) (x : Launch) (v : Nat) (u : List Nat) (k : Nat) : State :=
  let g := nextGroup x v
  let tids := u.map fun c => tidOf c k
  let timed := if x.desc.timed then some s.serial else none
  let s := (match timed with
    | some t => { s with tgroups := nset s.tgroups t (dealtTimed s lid x tids u) }
    | none => s).tick1
  let s := (u.zip (nums u.length)).foldl (fun s (c, id) =>
    (((s.setThread (tidOf c k) (s.strand lid x c g id u.length timed)).tick1).freshCode c x.part)) s
  let x := { x with
    dealt := x.dealt + 1
    given := nset x.given v (dealtTo x v + 1)
    placed := s.cycle
    order := s.serial
    running := x.running ++ [⟨g, v, tids, [], false⟩] }
  { s with launches := nset s.launches lid x }.tick1

/-- The unit of a launch whose group is dealt next, and the slot that it takes: of the units whose next group has a place, the one
with the lowest group (R194). -/
def State.nextUnit (s : State) (lid : Nat) (x : Launch) : List Nat → Option (Nat × Nat)
  | [] => none
  | v :: rest =>
    let later := s.nextUnit lid x rest
    if x.desc.groups ≤ nextGroup x v then later
    else
      match s.groupSlot lid x (x.units.getD v []), later with
      | none, _ => later
      | some k, none => some (v, k)
      | some k, some (w, j) => if nextGroup x v < nextGroup x w then some (v, k) else some (w, j)

/-- The next group of a launch placed, when a unit has a place for its own next group. -/
def State.dealOne (s : State) (lid : Nat) : Option State :=
  match nget s.launches lid with
  | none => none
  | some x =>
    if !x.queued then none
    else (s.nextUnit lid x (nums x.units.length)).map fun (v, k) => s.startGroup lid x v (x.units.getD v []) k

/-- Groups placed one after another. -/
def State.dealMany : Nat → State → Nat → Option State
  | 0, s, _ => some s
  | n + 1, s, lid => (s.dealOne lid).bind fun s => State.dealMany n s lid

/-- A launch's next group dealt, or with CORES every group at once (R195). Groups are placed as a rotation ends, when the spawns of
that rotation have taken their slots (09 R219); a strand's first turn is in the rotation that begins. -/
def State.dealLaunch (s : State) (lid : Nat) (x : Launch) : Option State :=
  if !x.checked then some (s.checkLaunch lid x)
  else if s.depPoison x then some (s.depFail lid x)
  else if s.cycle % 8 ≠ 0 ∨ !s.launchReady x then none
  else if x.desc.cores then State.dealMany (x.desc.groups - x.dealt) s lid
  else s.dealOne lid

/-- Whether one launch comes before another at a dispatcher: the higher level, and there the rotation. -/
def dealBefore (a b : Nat × Launch) : Bool :=
  decide (b.2.level < a.2.level) || (decide (a.2.level = b.2.level) && decide (a.2.order ≤ b.2.order))

/-- The launches of a partition that a dispatcher may deal from, in its order. -/
def State.dealOrder (s : State) (d part : Nat) : List (Nat × Launch) :=
  sortBy dealBefore (s.launches.filter fun (_, (x : Launch)) => decide (x.die = d) && decide (x.part = part) && x.queued &&
    (s.launchReady x || s.depPoison x || x.poisoned))

/-- A Group deal at a dispatcher. -/
def State.groupDeal (s : State) (d part : Nat) : Option State :=
  (s.dealOrder d part).findSome? fun (k, x) => s.dealLaunch k x

/-- A launch that has waited in one level longer than AGE.LIM moves up (R198). -/
def State.launchAging (s : State) (lid : Nat) : Option State :=
  match nget s.launches lid with
  | none => none
  | some x =>
    if !x.queued ∨ 7 ≤ x.level ∨ s.cycle ≤ x.since + (s.pdie x.die x.part).ageLim.toNat then none
    else some ({ s with launches := nset s.launches lid { x with level := x.level + 1, since := s.cycle, order := s.serial } }.tick1)

/-! ### Completion (08 R200 to R202) -/

/-- The status code of a launch whose groups have all run. -/
def Launch.code (x : Launch) : Nat := if x.depPsn then 2 else if x.poisoned then 1 else if x.timing then 6 else if x.killed then 7 else 0

/-- A group whose strands have all ended leaves the launch. -/
def Launch.tidy (x : Launch) : Launch :=
  let gone := x.running.filter fun (g : Group) => g.tids.isEmpty
  { x with
    running := x.running.filter fun (g : Group) => !g.tids.isEmpty
    okGroups := x.okGroups + (gone.filter fun (g : Group) => !g.killed).length }

/-- Whether an owner is one of the killed threads. -/
def goneOwner (l : List (Nat × Nat)) : Owner → Bool
  | .thread t g | .sched t g _ => l.contains (t, g)
  | _ => false

/-- Whether an item is a request of the killed threads, alone or combined with others, or the withdrawal of one that waits. -/
def goneReq (l : List (Nat × Nat)) (it : Item) : Bool :=
  match it with
  | .req m => goneOwner l m.owner || m.others.any fun x => goneOwner l x.2.1
  | .withdraw o _ => goneOwner l o
  | _ => false

/-- Whether writes of the killed threads of a launch may still be under way. -/
def State.goneOpen (s : State) (part : Nat) (l : List (Nat × Nat)) : Bool :=
  !l.isEmpty &&
  (s.channels.any (fun c => c.2.any (goneReq l)) || s.arrivals.any (fun c => c.2.any (goneReq l)) ||
    s.waiters.any (fun m => goneReq l (.req m)) ||
    s.cores.any fun (_, (c : Core)) =>
      (vget c.parts part).spill.any (goneReq l) || c.journal.any fun (j : JEntry) => l.contains (j.tid, j.gen))

/-- Whether everything of a launch has ended: its strands, its migrants and its engine commands. -/
def State.launchOver (s : State) (lid : Nat) (x : Launch) : Bool :=
  !x.queued && x.running.all (fun (g : Group) => g.tids.isEmpty) && decide (x.migrants = 0) &&
  !(s.engines.any fun (_, (g : Engine)) => decide (g.launch = some lid)) && !s.goneOpen x.part x.gone

/-- A launch completes, and WD.CNT restarts (20 R432). Its strands' stores were performed before they ended, its engines' before
they finished. -/
def State.launchCompletion (s : State) (lid : Nat) : Option State :=
  match nget s.launches lid with
  | none => none
  | some x =>
    if !s.launchOver lid x then none
    else
      let x := x.tidy
      let s := s.modPDie x.die x.part fun p => { p with wdCnt := 0, hangSent := false }
      some ({ s with tgroups := s.tgroups.filter fun (_, (g : TGroup)) => decide (g.launch ≠ some lid) }.closeLaunch lid x
        x.code x.poisoned)

/-! ### Barriers (09 R224; 22 R445) -/

/-- The cores of the threads that have arrived at a barrier, each once. -/
def arrivedCores (b : Barrier) : List Nat := (b.arrived.map coreOf).eraseDups

/-- A barrier phase completes once every arrival has come in; the cores of its members are told on the K plane (09 R224, 12 Table
12.2). -/
def State.barrierComplete (s : State) (k : BarKey) : Option State :=
  match kget s.barriers k with
  | none => none
  | some b =>
    if b.arrived.isEmpty || decide (s.waitedFor k ≠ 0) || s.arrivalOpen k then none
    else some ((arrivedCores b).foldl (fun s c => s.sendNotice k (barNode k) (.core c))
      { s with barriers := kset s.barriers k ⟨b.phase + 1, []⟩ })

end Sys2Proof.Machine
end

