-- ==== Sys2Proof/Machine/MemInstr.lean ====
section
/-! DEFINITION. Loads, stores, posted stores, acquire and release forms, full/empty words, atomics, sum cells, vector
loads and stores, fences (13 R297 to R315). -/

namespace Sys2Proof.Machine

/-! ### Shapes -/

/-- Effective address of LD, ST and PST (13 R297). -/
def eaOf (th : Thread) (a : SReg) (o : BitVec 9) : Word := th.sv a + BitVec.ofInt 64 (immS th.chain o)

/-- Effective address of VLD and VST. -/
def eaLine (th : Thread) (a : SReg) (o : BitVec 4) : Word := th.sv a + BitVec.ofInt 64 (64 * immS th.chain o)

/-- Bytes of a store width (13 Table 13.1). -/
def widBytes : Wid → Nat
  | .w8 => 1 | .w16 => 2 | .w32 => 4 | .w64 => 8

/-- The low bytes of a register, to be stored. -/
def storeBytes (n : Nat) (x : Word) : List (Option Byte) := (toBytes n x.toNat).map some

/-- Value label of a store of `d` at the address in `a` (13 R300, R303). -/
def storeLv (th : Thread) (d a : SReg) : Label := th.sl d ||| th.sl a ||| th.ctxl

/-- A scalar load, lda's too, which may read a bead slot (12 R286, 13 R303, 15 R366). -/
def loadAt (i : Instr) (tid : Nat) (th : Thread) (s : State) (d a : SReg) (t : LdTy) (va : Word) : Res :=
  let n := ldBytes t
  access1 i tid th s { kind := 0, size := n, word := decide (n = 8), slotRead := true } {} (.load d t (th.sl a ||| th.ctxl)) va
    fun _ => .read n

/-- A scalar store (13 R303). -/
def storeTo (i : Instr) (tid : Nat) (th : Thread) (s : State) (d a : SReg) (w : Wid) (va : Word) : Res :=
  let n := widBytes w
  let lv := storeLv th d a
  access1 i tid th s { kind := 1, size := n, word := decide (n = 8) } { lv := some lv, carry := lv } .ack va
    fun _ => .write (storeBytes n (th.sv d))

/-! ### Posted stores (12 R275, R282; 13 R304) -/

/-- The journal entries that a thread may take. -/
def State.entryPool (s : State) (tid : Nat) (th : Thread) : List Nat :=
  let slots := if th.kind = .migrant then [slotOf tid] else slotsOf (s.pdie (dieOf (coreOf tid)) th.part).smask
  slots.flatMap fun k => numsFrom (4 * k) 4

/-- The free journal entry that a posted store takes: the lowest that the thread may take (DESIGN CHOICE, log 81). -/
def State.freeEntry? (s : State) (tid : Nat) (th : Thread) : Option Nat :=
  (s.entryPool tid th).find? fun n => !(s.core (coreOf tid)).journal.any fun j => decide (j.num = n)

/-- The homes of a thread's scheduled accesses under way (12 R296). -/
def schedHomes (th : Thread) : List Node :=
  (th.sched.filter fun x => decide (x.acc.outstanding ≠ 0)).flatMap fun x => x.acc.homes

/-- A posted store placed in its channel with a journal entry. -/
def journalled (tid : Nat) (th : Thread) (s : State) (w : Wid) (lv : Label) (n : Nat) (x : Piece) (p : Place) : Res :=
  let core := coreOf tid
  let s := s.setDirties (whoIs tid th) 1 [p]
  let e : JEntry := ⟨n, s.serial, tid, th.gen, p.home, p.pa, x.va, w, lv, x.req p, p.leaf.rp.isSome, false⟩
  let s := s.request (pieceMsg tid th (.journal core s.serial) lv x p)
  let s := s.modCore core fun c => { c with journal := c.journal ++ [e] }
  .done th s.tick1

/-- A posted store: performed at issue when it is local, else sent under a journal entry. -/
def postTo (i : Instr) (tid : Nat) (th : Thread) (s : State) (d a : SReg) (w : Wid) (va : Word) : Res :=
  let n := widBytes w
  let lv := storeLv th d a
  let x : Piece := ⟨va, va, 0, n, fun _ => .write (storeBytes n (th.sv d))⟩
  match s.check (whoIs tid th) { kind := 1, size := n, word := decide (n = 8) } va with
  | (s, .error f) => f.trap th s
  | (s, .ok p) =>
    match s.labelFail th.part lv p with
    | some f => f.trap th (s.setDirties (whoIs tid th) 1 [p])
    | none =>
      if p.here then startPieces i tid th (s.setDirties (whoIs tid th) 1 [p]) { carry := lv } .ack [(x, p)]
      else if (schedHomes th).contains p.home then parkOn th s i (.held [p.home])
      else match s.freeEntry? tid th with
        | none => parkOn th s i .journalFree
        | some n => journalled tid th s w lv n x p

/-! ### Full/empty words (13 R306, R307) -/

/-- The checks of a full/empty access. -/
def feWant (kind : Nat) : Want := { kind := kind, size := 8, fe := true }

/-- The wait of a full/empty wait form. -/
def feWait (fop : Nat) (e : BitVec 6) (va : Word) : Wait := ⟨e, BitVec.ofNat 64 (6 + fop * 16), va, true⟩

/-- ldfe.take and ldfe.peek. -/
def feLoad (i : Instr) (s : State) (d a : SReg) (e : BitVec 6) (fop : Nat) (op : FeOp) (kind : Nat) :
    Host.Outcome State Fault Refusal :=
  issue i s fun th s =>
    let lab := th.sl a ||| th.ctxl
    access1 i s.cur th s (feWant kind) { carry := lab, wait := some (feWait fop e (th.sv a)) } (.waitRead d lab) (th.sv a)
      fun _ => .fe op 0

/-- A full/empty store; it is a release at .pkg (12 Table 12.5). Only the form that waits widens CTXL (18 R392). -/
def feStore (i : Instr) (s : State) (d a : SReg) (wait : Option (BitVec 6)) (op : FeOp) : Host.Outcome State Fault Refusal :=
  issue i s fun th s => released i s.cur th s .pkg fun th s =>
    let lv := storeLv th d a
    access1 i s.cur th s (feWant 1) { lv := some lv, carry := lv, wait := wait.map fun e => feWait 2 e (th.sv a) }
      (if wait.isSome then .ackWait else .ack) (th.sv a) fun _ => .fe op (th.sv d)

/-! ### Atomics and sum cells (13 R309 to R312) -/

/-- An integer atomic. -/
def atomic (i : Instr) (s : State) (op : AtomOp) (d a b : SReg) (w : AWid) : Host.Outcome State Fault Refusal :=
  issue i s fun th s =>
    let lab := th.sl a ||| th.sl b ||| (if op = .cas then th.sl d else 0)
    let lv := lab ||| th.ctxl
    access1 i s.cur th s
      { kind := 2, size := awBytes w, atom := some (decide (op = .add) || decide (op = .swap) || decide (op = .cas)) }
      { lv := some lv, addLoc := true, carry := lv } (.atomic d w (decide (op = .minI) || decide (op = .maxI)) lv) (th.sv a)
      fun _ => .atomic op w (th.sv b) (th.sv d)

/-- The checks of a sum-cell form. -/
def sumWant (kind : Nat) : Want := { kind := kind, size := 32, sum := true }

/-- sadd. -/
def sumAdd (i : Instr) (s : State) (f : Fmt) (d a b : SReg) : Host.Outcome State Fault Refusal :=
  issue i s fun th s =>
    let lab := th.sl b ||| th.sl a
    let lv := lab ||| th.ctxl
    let (x, fl) := sumTerm f ((th.sv b).toNat % 2 ^ f.width)
    access1 i s.cur th s (sumWant 2) { lv := some lv, carry := lv } (.sumFlags d fl lv) (th.sv a) fun _ => .sumAdd x fl

/-- sread. -/
def sumRead (i : Instr) (s : State) (wide : Bool) (d a : SReg) : Host.Outcome State Fault Refusal :=
  issue i s fun th s =>
    access1 i s.cur th s (sumWant 0) {} (.sumRead d wide th.rm (th.sl a ||| th.ctxl)) (th.sv a) fun _ => .read 32

/-! ### Lines (13 R313, R314) -/

/-- The lane that governs an element (06 R150). -/
def laneOf (w e : Nat) : Nat := if w = 8 then e / 4 else if w = 16 then e / 2 else e

/-- The bytes of a vector that a mask stores. -/
def maskedBytes (v : VVal) (m : BitVec 16) : List (Option Byte) :=
  let w := (tagWidth v.tag).getD 32
  ((toBytes 64 v.bits.toNat).zip (nums 64)).map fun (b, j) => if m.getLsbD (laneOf w (j / (w / 8))) then some b else none

/-! ### Words -/

/-- ld (13 R303). -/
def execLd (st : Stall) (d a : SReg) (t : LdTy) (o : BitVec 9) (s : State) : Host.Outcome State Fault Refusal :=
  issue (.ld st d a t o) s fun th s => loadAt (.ld st d a t o) s.cur th s d a t (eaOf th a o)

/-- st (13 R303). -/
def execSt (st : Stall) (d a : SReg) (w : Wid) (o : BitVec 9) (s : State) : Host.Outcome State Fault Refusal :=
  issue (.st st d a w o) s fun th s => storeTo (.st st d a w o) s.cur th s d a w (eaOf th a o)

/-- pst (13 R304). -/
def execPst (st : Stall) (d a : SReg) (w : Wid) (o : BitVec 9) (s : State) : Host.Outcome State Fault Refusal :=
  issue (.pst st d a w o) s fun th s => postTo (.pst st d a w o) s.cur th s d a w (eaOf th a o)

/-- lda: an acquire at its scope (13 R305). -/
def execLda (st : Stall) (d a : SReg) (t : LdTy) (c : Scope) (s : State) : Host.Outcome State Fault Refusal :=
  issue (.lda st d a t c) s fun th s => inScope (.lda st d a t c) s.cur th s c false fun s _ =>
    loadAt (.lda st d a t c) s.cur th s d a t (th.sv a)

/-- stl: a release at its scope (13 R305). -/
def execStl (st : Stall) (d a : SReg) (w : Wid) (c : Scope) (s : State) : Host.Outcome State Fault Refusal :=
  issue (.stl st d a w c) s fun th s => inScope (.stl st d a w c) s.cur th s c false fun s c' =>
    released (.stl st d a w c) s.cur th s c' fun th s => storeTo (.stl st d a w c) s.cur th s d a w (th.sv a)

/-- ldfe.take (13 R306). -/
def execLdfeTake (st : Stall) (d a : SReg) (e : BitVec 6) (s : State) : Host.Outcome State Fault Refusal :=
  feLoad (.ldfeTake st d a e) s d a e 0 .take 2

/-- ldfe.peek (13 R306). -/
def execLdfePeek (st : Stall) (d a : SReg) (e : BitVec 6) (s : State) : Host.Outcome State Fault Refusal :=
  feLoad (.ldfePeek st d a e) s d a e 1 .peek 0

/-- stfe.fill (13 R306). -/
def execStfeFill (st : Stall) (d a : SReg) (e : BitVec 6) (s : State) : Host.Outcome State Fault Refusal :=
  feStore (.stfeFill st d a e) s d a (some e) .fill

/-- stfe.force (13 R306). -/
def execStfeForce (st : Stall) (d a : SReg) (s : State) : Host.Outcome State Fault Refusal :=
  feStore (.stfeForce st d a) s d a none .force

/-- feclr: no check against the store rule (13 R306). -/
def execFeclr (st : Stall) (a : SReg) (s : State) : Host.Outcome State Fault Refusal :=
  issue (.feclr st a) s fun th s =>
    access1 (.feclr st a) s.cur th s (feWant 1) { carry := th.sl a ||| th.ctxl } .ack (th.sv a) fun _ => .fe .clr 0

/-- fetst (13 R306). -/
def execFetst (st : Stall) (d a : SReg) (s : State) : Host.Outcome State Fault Refusal :=
  issue (.fetst st d a) s fun th s =>
    access1 (.fetst st d a) s.cur th s (feWant 0) {} (.read d (th.sl a ||| th.ctxl)) (th.sv a) fun _ => .fe .tst 0

/-- aadd (13 R309). -/
def execAadd (st : Stall) (d a b : SReg) (w : AWid) (s : State) : Host.Outcome State Fault Refusal :=
  atomic (.aadd st d a b w) s .add d a b w

/-- aand (13 R309). -/
def execAand (st : Stall) (d a b : SReg) (w : AWid) (s : State) : Host.Outcome State Fault Refusal :=
  atomic (.aand st d a b w) s .and d a b w

/-- aor (13 R309). -/
def execAor (st : Stall) (d a b : SReg) (w : AWid) (s : State) : Host.Outcome State Fault Refusal :=
  atomic (.aor st d a b w) s .or d a b w

/-- axor (13 R309). -/
def execAxor (st : Stall) (d a b : SReg) (w : AWid) (s : State) : Host.Outcome State Fault Refusal :=
  atomic (.axor st d a b w) s .xor d a b w

/-- aminI (13 R309). -/
def execAminI (st : Stall) (d a b : SReg) (w : AWid) (s : State) : Host.Outcome State Fault Refusal :=
  atomic (.aminI st d a b w) s .minI d a b w

/-- amaxI (13 R309). -/
def execAmaxI (st : Stall) (d a b : SReg) (w : AWid) (s : State) : Host.Outcome State Fault Refusal :=
  atomic (.amaxI st d a b w) s .maxI d a b w

/-- aminN (13 R309). -/
def execAminN (st : Stall) (d a b : SReg) (w : AWid) (s : State) : Host.Outcome State Fault Refusal :=
  atomic (.aminN st d a b w) s .minN d a b w

/-- amaxN (13 R309). -/
def execAmaxN (st : Stall) (d a b : SReg) (w : AWid) (s : State) : Host.Outcome State Fault Refusal :=
  atomic (.amaxN st d a b w) s .maxN d a b w

/-- aswap (13 R309). -/
def execAswap (st : Stall) (d a b : SReg) (w : AWid) (s : State) : Host.Outcome State Fault Refusal :=
  atomic (.aswap st d a b w) s .swap d a b w

/-- acas (13 R309). -/
def execAcas (st : Stall) (d a b : SReg) (w : AWid) (s : State) : Host.Outcome State Fault Refusal :=
  atomic (.acas st d a b w) s .cas d a b w

/-- saddF64 (13 R312). -/
def execSaddF64 (st : Stall) (d a b : SReg) (s : State) : Host.Outcome State Fault Refusal :=
  sumAdd (.saddF64 st d a b) s fp64 d a b

/-- saddF32 (13 R312). -/
def execSaddF32 (st : Stall) (d a b : SReg) (s : State) : Host.Outcome State Fault Refusal :=
  sumAdd (.saddF32 st d a b) s fp32 d a b

/-- sreadF64 (13 R312). -/
def execSreadF64 (st : Stall) (d a : SReg) (s : State) : Host.Outcome State Fault Refusal :=
  sumRead (.sreadF64 st d a) s true d a

/-- sreadF32 (13 R312). -/
def execSreadF32 (st : Stall) (d a : SReg) (s : State) : Host.Outcome State Fault Refusal :=
  sumRead (.sreadF32 st d a) s false d a

/-- sstore (13 R312). -/
def execSstore (st : Stall) (a b : SReg) (s : State) : Host.Outcome State Fault Refusal :=
  issue (.sstore st a b) s fun th s =>
    let lv := th.sl b ||| th.sl (b + 1) ||| th.sl (b + 2) ||| th.sl (b + 3) ||| th.sl a ||| th.ctxl
    let l := storeBytes 8 (th.sv b) ++ storeBytes 8 (th.sv (b + 1)) ++ storeBytes 8 (th.sv (b + 2)) ++ storeBytes 8 (th.sv (b + 3))
    access1 (.sstore st a b) s.cur th s (sumWant 1) { lv := some lv, carry := lv } .ack (th.sv a) fun _ => .write l

/-- vld (13 R313). -/
def execVld (st : Stall) (d : VReg) (a : SReg) (t : Tag) (k : KReg) (o : BitVec 4) (s : State) : Host.Outcome State Fault Refusal :=
  issue (.vld st d a t k o) s fun th s =>
    let lab := th.sl a ||| th.ctxl ||| (if k = 0 then 0 else (th.kreg k).lab)
    access1 (.vld st d a t k o) s.cur th s { kind := 0, size := 64, slotRead := true } {}
      (.vload d t (th.kreg k).val (decide (k ≠ 0)) lab)
      (eaLine th a o) fun _ => .read 64

/-- vst: a reduce-add where its line lies in a reduction window (13 R314, 22 R440). -/
def execVst (st : Stall) (d : VReg) (a : SReg) (k : KReg) (o : BitVec 4) (s : State) : Host.Outcome State Fault Refusal :=
  issue (.vst st d a k o) s fun th s =>
    let v := th.vreg d
    let lv := v.lab ||| th.sl a ||| th.ctxl ||| (if k = 0 then 0 else (th.kreg k).lab)
    access1 (.vst st d a k o) s.cur th s { kind := 1, size := 64, masked := decide (k ≠ 0) } { lv := some lv, carry := lv } .ack
      (eaLine th a o) fun p =>
        match (if s.away p.leaf then none else s.redFmt th.part p.pa p.leaf.sc) with
        | some f => .redAdd (toBytes 64 v.bits.toNat) f 0
        | none => .write (maskedBytes v (th.kreg k).val)

/-- fence (13 R315). -/
def execFence (st : Stall) (c : Scope) (s : State) : Host.Outcome State Fault Refusal :=
  issue (.fence st c) s fun th s => inScope (.fence st c) s.cur th s c false fun s c' =>
    released (.fence st c) s.cur th s c' fun th s => .done th s

end Sys2Proof.Machine
end

