-- ==== Sys2Proof/Machine/Sync.lean ====
section
/-! DEFINITION. Barriers and ring queues (09 R223 to R234). -/

namespace Sys2Proof.Machine

/-! ### Barriers (09 R227 to R229) -/

/-- The PEND bit of a scope. -/
def pendBit (c : Scope) : BitVec 5 := 1#5 <<< (scopeCode c - 1)

/-- BAR.ORDER. -/
def barOrder (i : Instr) (th : Thread) (s : State) (c : Scope) : Res :=
  .trap th s .barOrder (wordOf i) (BitVec.ofNat 64 (scopeCode c)) 0

/-- The phase arrived at has been waited out. -/
def waitedOut (th : Thread) (c : Scope) : Thread := { th with barPend := th.barPend &&& ~~~pendBit c }

/-- The wait for the phase arrived at; its entry is reserved first (08 R183). -/
def awaitPhase (i : Instr) (tid : Nat) (th : Thread) (s : State) (k : BarKey) (c : Scope) (e : BitVec 6) : Res :=
  let p : Park := ⟨i, .barrier k, th.firstTry s, e, true, none, none, none, BitVec.ofNat 64 (1 + 16 * scopeCode c), 0, 0, 0, []⟩
  if th.again.isSome && s.phaseOver k tid then .done (waitedOut th c) s
  else if !s.entryFree tid th.part then .retry th s p
  else if s.phaseOver k tid then .done (waitedOut th c) s
  else .park th s p

/-- An arrival: a release at the barrier's scope (R225). -/
def arrival (i : Instr) (tid : Nat) (th : Thread) (s : State) (k : BarKey) (c : Scope) (body : Thread → State → Res) : Res :=
  released i tid th s c fun th s => body { th with barPend := th.barPend ||| pendBit c } (s.arriveAt k tid)

/-- A barrier word after its member check and the cap of its scope. -/
def barrierWord (i : Instr) (s : State) (c : Scope) (body : Thread → State → BarKey → Res) : Host.Outcome State Fault Refusal :=
  issue i s fun th s =>
    match s.barKey? s.cur th c with
    | none => thrCtx th s i 3
    | some k => inScope i s.cur th s c true fun s _ => body th s k

/-- bar (R227). -/
def execBar (st : Stall) (e : BitVec 6) (c : Scope) (s : State) : Host.Outcome State Fault Refusal :=
  barrierWord (.bar st e c) s c fun th s k =>
    if th.barPend &&& pendBit c ≠ 0 then awaitPhase (.bar st e c) s.cur th s k c e
    else arrival (.bar st e c) s.cur th s k c fun th s => awaitPhase (.bar st e c) s.cur th s k c e

/-- bara (R227). -/
def execBara (st : Stall) (c : Scope) (s : State) : Host.Outcome State Fault Refusal :=
  barrierWord (.bara st c) s c fun th s k =>
    if th.barPend &&& pendBit c ≠ 0 then barOrder (.bara st c) th s c
    else arrival (.bara st c) s.cur th s k c fun th s => .done th s

/-- barw (R227). -/
def execBarw (st : Stall) (e : BitVec 6) (c : Scope) (s : State) : Host.Outcome State Fault Refusal :=
  barrierWord (.barw st e c) s c fun th s k =>
    if th.barPend &&& pendBit c = 0 then barOrder (.barw st e c) th s c
    else awaitPhase (.barw st e c) s.cur th s k c e

/-! ### Ring queues (09 R230 to R234) -/

/-- A queue word at a descriptor that may be one; the home checks the rest. -/
def queueWord (i : Instr) (tid : Nat) (th : Thread) (s : State) (y : SReg) (e : BitVec 6) (kind : Nat) (lab : Label)
    (req : Req) (c : Cont) : Res :=
  let a := th.sv y
  if !goodAddr a 64 then .trap th s .queueDesc a 1 0
  else access1 i tid th s { kind := 2, size := 64 }
    { carry := lab, wait := some ⟨e, a ||| BitVec.ofNat 64 kind, 0, true⟩ } c a fun _ => req

/-- qput: a release at its scope (R231, R232). -/
def execQput (st : Stall) (x y : SReg) (e : BitVec 6) (c : Scope) (s : State) : Host.Outcome State Fault Refusal :=
  issue (.qput st x y e c) s fun th s => inScope (.qput st x y e c) s.cur th s c false fun s c' =>
    released (.qput st x y e c) s.cur th s c' fun th s =>
      let lab := storeLv th x y
      queueWord (.qput st x y e c) s.cur th s y e 2 lab (.qput (th.sv x) lab) .ackWait

/-- qget: an acquire at its scope (R231, R232). -/
def execQget (st : Stall) (x y : SReg) (e : BitVec 6) (c : Scope) (s : State) : Host.Outcome State Fault Refusal :=
  issue (.qget st x y e c) s fun th s => inScope (.qget st x y e c) s.cur th s c false fun s _ =>
    queueWord (.qget st x y e c) s.cur th s y e 3 (th.sl y ||| th.ctxl) .qget (.waitRead x (th.sl y ||| th.ctxl))

end Sys2Proof.Machine
end

