-- ==== Sys2Proof/Machine/Rods.lean ====
section
/-! DEFINITION. Residue arithmetic on values: the six rods, reconstruction, the check of an element, the outcome of a
retry and overflow (14 R340 to R347). -/

namespace Sys2Proof.Machine

/-- The moduli (14 Table 14.5). -/
def rodMod (r : Nat) : Nat :=
  match r with
  | 0 => 32768 | 1 => 32767 | 2 => 32765 | 3 => 32763 | 4 => 65519 | _ => 65521

/-- M (14 R340). -/
def rnsM : Nat := 1152604869953617920
/-- M / 2. -/
def rnsHalf : Nat := 576302434976808960

/-- The mixed-radix constants (14 Table 14.6). -/
def mrc (i j : Nat) : Nat :=
  match i, j with
  | 0, 1 => 1 | 0, 2 => 10922 | 0, 3 => 19658 | 0, 4 => 57811 | 0, _ => 56785
  | 1, 2 => 16383 | 1, 3 => 8191 | 1, 4 => 8736 | 1, _ => 55441
  | 2, 3 => 16382 | 2, 4 => 17869 | 2, _ => 50961
  | 3, 4 => 18720 | 3, _ => 39313
  | _, _ => 32760

/-- The residues of an integer on all six rods. -/
def residues (v : Int) : List Nat := (nums 6).map fun r => (v % (rodMod r : Int)).toNat

/-- One mixed-radix digit from those below it. -/
def digit (j x : Nat) (ds : List (Nat × Nat)) : Nat :=
  ds.foldl (fun t (i, a) => (t + rodMod j - a % rodMod j) * mrc i j % rodMod j) (x % rodMod j)

/-- The digits weighted, and the product of the moduli. -/
def reconGo (x : List Nat) : List Nat → List (Nat × Nat) → Nat → Nat → Nat × Nat
  | [], _, y, p => (y, p)
  | j :: l, ds, y, p =>
    let t := digit j (x.getD j 0) ds
    reconGo x l (ds ++ [(j, t)]) (y + t * p) (p * rodMod j)

/-- Recon (14 R342), over rods in ascending order. -/
def recon (l : List Nat) (x : List Nat) : Int :=
  let (y, p) := reconGo x l [] 0 1
  if p ≤ 2 * y then (y : Int) - p else y

/-- InRange (14 R342). -/
def inRange (y : Int) : Bool := decide (-(rnsHalf : Int) ≤ y) && decide (y < rnsHalf)

/-- The outcome of a check (14 R343). -/
inductive Chk where
  | ok (y : Int)
  | located (r : Nat) (y : Int)
  | over (y : Int)
  | unloc (y : Int)
  deriving DecidableEq, Repr

/-- The live set (14 R343). -/
def liveRods (fail : BitVec 6) : List Nat := (nums 6).filter fun r => !fail.getLsbD r

/-- Check (14 R343). -/
def checkRods (live : List Nat) (x : List Nat) : Chk :=
  let y := recon live x
  if inRange y then .ok y
  else if live.length = 6 then
    match live.filter fun r => inRange (recon (live.filter (· ≠ r)) x) with
    | [r] => .located r (recon (live.filter (· ≠ r)) x)
    | _ => .over y
  else .unloc y

/-- LOCATED or UNLOC. -/
def Chk.bad : Chk → Bool
  | .located _ _ | .unloc _ => true
  | .ok _ | .over _ => false

/-- The value of an outcome. -/
def Chk.val : Chk → Int
  | .ok y | .located _ y | .over y | .unloc y => y

/-- The rod of a LOCATED outcome. -/
def Chk.rod : Chk → Option Nat
  | .located r _ => some r
  | _ => none

/-- Overflow: OVER, or UNLOC that stands after the retry (14 R346). -/
def Chk.overflow : Chk → Bool
  | .over _ | .unloc _ => true
  | .ok _ | .located _ _ => false

/-- How an operation came out (14 Table 14.7). -/
inductive RodKind where | clean | transient | mark (r : Nat) | unstable
  deriving DecidableEq, Repr

/-- The outcome of an operation: its kind, H₁, the first affected element, and each element's final check. -/
structure RodOut where
  kind : RodKind
  h1 : Nat
  first : Nat
  fin : List Chk
  retried : Bool
  deriving DecidableEq, Repr

/-- The elements after the retry: one that was OVER at first stays so (14 R344). -/
def afterRetry (c1 c2 : List Chk) : List Chk :=
  (c1.zip c2).map fun (a, b) => match a with | .over _ => a | _ => b

/-- An element that the first attempt located, and that is OVER or UNLOC on the retry. -/
def spoiled (c1 c2 : List Chk) : Bool := (c1.zip c2).any fun (a, b) => a.rod.isSome && b.overflow

/-- The rods that outcomes name. -/
def rodsOf (l : List Chk) : List Nat := (l.filterMap Chk.rod).eraseDups

/-- The outcome of a retry (14 Table 14.7). -/
def decideRods (c1 c2 : List Chk) : RodOut :=
  if !c1.any Chk.bad then ⟨.clean, 0, 0, c1, false⟩
  else
    let h1 := sumOver (rodsOf c1) fun r => 2 ^ r
    let first := (c1.findIdx? Chk.bad).getD 0
    let fin := afterRetry c1 c2
    if !fin.any Chk.bad && !spoiled c1 fin then ⟨.transient, h1, first, fin, true⟩
    else if (rodsOf c1).isEmpty then ⟨.clean, 0, first, fin, true⟩
    else match rodsOf fin with
      | [r] => if (rodsOf c1).contains r && !spoiled c1 fin then ⟨.mark r, h1, first, fin, true⟩ else ⟨.unstable, h1, first, fin, true⟩
      | _ => ⟨.unstable, h1, first, fin, true⟩

/-- The saturated value of an overflow (14 R346). -/
def rnsSat (y : Int) : Int := if y < 0 then -(rnsHalf : Int) else (rnsHalf : Int) - 1

/-- TINFO1 of ROD.LOCATED and ROD.UNSTABLE (14 R345); `idx` is the flat index of the first affected element. -/
def rodInfo (o : RodOut) (idx : Nat) : BitVec 64 :=
  BitVec.ofNat 64 (o.h1 * 2 ^ 16 + idx % 1024 * 2 ^ 4 + (match o.kind with | .mark r => r | _ => 7))

/-- Elements handled as overflow after an UNLOC that repeats (14 Table 14.7). -/
def unlocs (o : RodOut) : Nat :=
  match o.kind with
  | .clean => (o.fin.filter fun c => match c with | .unloc _ => true | _ => false).length
  | _ => 0

end Sys2Proof.Machine
end

