-- ==== Sys2Proof/Machine/Vector.lean ====
section
/-! DEFINITION. Vector words on integers and bit strings, moves, permutes, masks and carry-less products (06 R148 to R164),
and the operations shared with the floating-point vector words. -/

namespace Sys2Proof.Machine

/-! ### Elements (05 R125) -/

/-- Element `e` of width `w`. -/
def elem (x : VBits) (w e : Nat) : Nat := x.toNat / 2 ^ (w * e) % 2 ^ w

/-- The number that elements of width `w` spell, the first the lowest. -/
def packNat (w : Nat) : List Nat → Nat
  | [] => 0
  | x :: l => x % 2 ^ w + 2 ^ w * packNat w l

/-- A register of elements. -/
def packV (w : Nat) (l : List Nat) : VBits := BitVec.ofNat 512 (packNat w l)

/-- The mask bit that governs element `e` of width `w`. -/
def governs (w e : Nat) : Nat := if w = 8 then e / 4 else if w = 16 then e / 2 else e

/-- Whether a mask enables element `e` of width `w`. -/
def enabled (k : BitVec 16) (w e : Nat) : Bool := k.getLsbD (governs w e)

/-- The elements that a masked operation writes, and the flags each enabled one raises (06 R150). -/
def maskedOp (k : BitVec 16) (old : VBits) (w n : Nat) (op : Nat → Nat × Flags) : List (Nat × Flags) :=
  (nums n).map fun e => if enabled k w e then op e else (elem old w e, 0)

/-- The union of the flags. -/
def unionFlags (l : List (Nat × Flags)) : Flags := l.foldl (fun a x => a ||| x.2) 0

/-- The mask of the elements that raised an enabled exception (05 R140). -/
def excMask (en : Flags) (l : List (Nat × Flags)) : Word :=
  BitVec.ofNat 64 (packNat 1 (l.map fun x => b2n (decide (x.2 &&& en ≠ 0))))

/-! ### Labels and tags -/

/-- The label of a masked write (06 R150). -/
def maskLabel (th : Thread) (k : KReg) (src old : Label) : Label :=
  src ||| th.ctxl ||| (if k = 0 then 0 else (th.kreg k).lab ||| old)

/-- One tag check: the register, its class (0 vector, 1 tile), the tag found, whether it passes, the tag required. -/
structure TagCheck where
  cls : Nat
  reg : Nat
  found : Tag
  ok : Bool
  req : Nat
  deriving DecidableEq, Repr

/-- FMT.TAG (05 R123). -/
def fmtTag (i : Instr) (th : Thread) (s : State) (c : TagCheck) : Res :=
  .trap th s .fmtTag (wordOf i) (BitVec.ofNat 64 (c.req * 2 ^ 18 + c.cls * 2 ^ 16 + c.reg * 2 ^ 8 + c.found.toNat)) 0

/-- The first failing check is reported (06 R151). -/
def withTags (i : Instr) (th : Thread) (s : State) (l : List TagCheck) (body : Res) : Res :=
  match l.find? fun c => !c.ok with
  | some c => fmtTag i th s c
  | none => body

/-- A vector operand whose tag must pass a test. -/
def vcheck (th : Thread) (r : VReg) (ok : Tag → Bool) (req : Nat) : TagCheck :=
  ⟨0, r.toNat, (th.vreg r).tag, ok (th.vreg r).tag, req⟩

/-- An integer tag of width `w`. -/
def intTag (w : Nat) (g : Tag) : Bool := match tagInt g with | some (_, v) => decide (v = w) | none => false

/-- A tag of element width `w` that is not raw. -/
def widthTag (w : Nat) (g : Tag) : Bool := decide (tagWidth g = some w)

/-- The .iN code of a width. -/
def iCodeOf (w : Nat) : Nat := if w = 8 then 1 else if w = 16 then 2 else if w = 32 then 3 else 4

/-! ### Results -/

/-- A vector result of latency `l` with its flags; an enabled exception is FP.EXC instead (05 R139, R140). -/
def finishV (i : Instr) (th : Thread) (s : State) (l : Nat) (d : VReg) (x : VVal) (fl : Flags) (exc : Word) : Res :=
  if fl &&& th.fpEnable ≠ 0 then .trap th s .fpExc (fl.setWidth 64) exc 0
  else if l = 1 then .done ((th.putV d x.bits x.tag x.lab).post fl x.lab) s
  else .done (th.later i s.rot l (.v d) (.v x) fl x.lab) s

/-- A masked element-wise word of one latency, given its elements (06 R150). -/
def elementWise (i : Instr) (th : Thread) (s : State) (l : Nat) (d : VReg) (k : KReg) (src : Label) (tag : Tag) (w n : Nat)
    (op : Nat → Nat × Flags) : Res :=
  let r := maskedOp (th.kreg k).val (th.vreg d).bits w n op
  finishV i th s l d ⟨packV w (r.map (·.1)), tag, maskLabel th k src (th.vreg d).lab⟩ (unionFlags r)
    (excMask th.fpEnable r)

/-! ### Integer arithmetic (06 Table 6.2) -/

/-- A VI word. -/
def viOp (i : Instr) (s : State) (d a b : VReg) (k : KReg) (t : ITy) (f : Int → Int → Int) :
    Host.Outcome State Fault Refusal :=
  issue i s fun th s =>
    let w := ityW t
    let va := th.vreg a
    let vb := th.vreg b
    let req := (ityTag t).toNat
    withTags i th s [vcheck th a (intTag w) req, vcheck th b (intTag w) req]
      (elementWise i th s 1 d k (va.lab ||| vb.lab) (ityTag t) w (512 / w) fun e =>
        (intBits w (f (intOf (ityS t) w (elem va.bits w e)) (intOf (ityS t) w (elem vb.bits w e))), 0))

/-- vadd of integers. -/
def execVaddI (st : Stall) (d a b : VReg) (k : KReg) (t : ITy) (s : State) : Host.Outcome State Fault Refusal :=
  viOp (.vaddI st d a b k t) s d a b k t fun x y => x + y
/-- vsub of integers. -/
def execVsubI (st : Stall) (d a b : VReg) (k : KReg) (t : ITy) (s : State) : Host.Outcome State Fault Refusal :=
  viOp (.vsubI st d a b k t) s d a b k t fun x y => x - y
/-- vmul of integers. -/
def execVmulI (st : Stall) (d a b : VReg) (k : KReg) (t : ITy) (s : State) : Host.Outcome State Fault Refusal :=
  viOp (.vmulI st d a b k t) s d a b k t fun x y => x * y
/-- vmulh. -/
def execVmulh (st : Stall) (d a b : VReg) (k : KReg) (t : ITy) (s : State) : Host.Outcome State Fault Refusal :=
  viOp (.vmulh st d a b k t) s d a b k t fun x y => x * y / (2 ^ ityW t : Nat)
/-- vmin of integers. -/
def execVminI (st : Stall) (d a b : VReg) (k : KReg) (t : ITy) (s : State) : Host.Outcome State Fault Refusal :=
  viOp (.vminI st d a b k t) s d a b k t fun x y => min x y
/-- vmax of integers. -/
def execVmaxI (st : Stall) (d a b : VReg) (k : KReg) (t : ITy) (s : State) : Host.Outcome State Fault Refusal :=
  viOp (.vmaxI st d a b k t) s d a b k t fun x y => max x y
/-- vadds: saturating. -/
def execVadds (st : Stall) (d a b : VReg) (k : KReg) (t : ITy) (s : State) : Host.Outcome State Fault Refusal :=
  viOp (.vadds st d a b k t) s d a b k t fun x y => satInt (x + y) (intLo (ityS t) (ityW t)) (intHi (ityS t) (ityW t))
/-- vsubs: saturating. -/
def execVsubs (st : Stall) (d a b : VReg) (k : KReg) (t : ITy) (s : State) : Host.Outcome State Fault Refusal :=
  viOp (.vsubs st d a b k t) s d a b k t fun x y => satInt (x - y) (intLo (ityS t) (ityW t)) (intHi (ityS t) (ityW t))

/-! ### Logic, shifts and counts (06 Table 6.3) -/

/-- A VL word of two sources; the operation gets the width. -/
def vlOp2 (i : Instr) (s : State) (d a b : VReg) (k : KReg) (w : Wid) (f : Nat → Nat → Nat → Nat) :
    Host.Outcome State Fault Refusal :=
  issue i s fun th s =>
    let w := widBits w
    let va := th.vreg a
    let vb := th.vreg b
    withTags i th s [vcheck th a (widthTag w) (iCodeOf w), vcheck th b (widthTag w) (iCodeOf w)]
      (elementWise i th s 1 d k (va.lab ||| vb.lab) va.tag w (512 / w) fun e =>
        (f w (elem va.bits w e) (elem vb.bits w e) % 2 ^ w, 0))

/-- A VL word of one source. -/
def vlOp1 (i : Instr) (s : State) (d a : VReg) (k : KReg) (w : Wid) (f : Nat → Nat → Nat) :
    Host.Outcome State Fault Refusal :=
  issue i s fun th s =>
    let w := widBits w
    let va := th.vreg a
    withTags i th s [vcheck th a (widthTag w) (iCodeOf w)]
      (elementWise i th s 1 d k va.lab va.tag w (512 / w) fun e => (f w (elem va.bits w e) % 2 ^ w, 0))

/-- vand. -/
def execVand (st : Stall) (d a b : VReg) (k : KReg) (w : Wid) (s : State) : Host.Outcome State Fault Refusal :=
  vlOp2 (.vand st d a b k w) s d a b k w fun _ x y => x &&& y
/-- vor. -/
def execVor (st : Stall) (d a b : VReg) (k : KReg) (w : Wid) (s : State) : Host.Outcome State Fault Refusal :=
  vlOp2 (.vor st d a b k w) s d a b k w fun _ x y => x ||| y
/-- vxor. -/
def execVxor (st : Stall) (d a b : VReg) (k : KReg) (w : Wid) (s : State) : Host.Outcome State Fault Refusal :=
  vlOp2 (.vxor st d a b k w) s d a b k w fun _ x y => x ^^^ y
/-- vandn. -/
def execVandn (st : Stall) (d a b : VReg) (k : KReg) (w : Wid) (s : State) : Host.Outcome State Fault Refusal :=
  vlOp2 (.vandn st d a b k w) s d a b k w fun w x y => x &&& (2 ^ w - 1 - y)
/-- vsll. -/
def execVsll (st : Stall) (d a b : VReg) (k : KReg) (w : Wid) (s : State) : Host.Outcome State Fault Refusal :=
  vlOp2 (.vsll st d a b k w) s d a b k w fun w x y => x * 2 ^ (y % w)
/-- vsrl. -/
def execVsrl (st : Stall) (d a b : VReg) (k : KReg) (w : Wid) (s : State) : Host.Outcome State Fault Refusal :=
  vlOp2 (.vsrl st d a b k w) s d a b k w fun w x y => x / 2 ^ (y % w)
/-- vsra. -/
def execVsra (st : Stall) (d a b : VReg) (k : KReg) (w : Wid) (s : State) : Host.Outcome State Fault Refusal :=
  vlOp2 (.vsra st d a b k w) s d a b k w fun w x y => intBits w (intOf true w x / (2 ^ (y % w) : Nat))
/-- vrol. -/
def execVrol (st : Stall) (d a b : VReg) (k : KReg) (w : Wid) (s : State) : Host.Outcome State Fault Refusal :=
  vlOp2 (.vrol st d a b k w) s d a b k w fun w x y => x * 2 ^ (y % w) % 2 ^ w + x / 2 ^ (w - y % w)
/-- vror. -/
def execVror (st : Stall) (d a b : VReg) (k : KReg) (w : Wid) (s : State) : Host.Outcome State Fault Refusal :=
  vlOp2 (.vror st d a b k w) s d a b k w fun w x y => x / 2 ^ (y % w) + x * 2 ^ (w - y % w) % 2 ^ w
/-- vpopc. -/
def execVpopc (st : Stall) (d a : VReg) (k : KReg) (w : Wid) (s : State) : Host.Outcome State Fault Refusal :=
  vlOp1 (.vpopc st d a k w) s d a k w fun w x => popcNat x w
/-- vclz. -/
def execVclz (st : Stall) (d a : VReg) (k : KReg) (w : Wid) (s : State) : Host.Outcome State Fault Refusal :=
  vlOp1 (.vclz st d a k w) s d a k w fun w x => clzNat x w
/-- vneg of bit strings. -/
def execVnegL (st : Stall) (d a : VReg) (k : KReg) (w : Wid) (s : State) : Host.Outcome State Fault Refusal :=
  vlOp1 (.vnegL st d a k w) s d a k w fun w x => 2 ^ w - x
/-- vabs of bit strings. -/
def execVabsL (st : Stall) (d a : VReg) (k : KReg) (w : Wid) (s : State) : Host.Outcome State Fault Refusal :=
  vlOp1 (.vabsL st d a k w) s d a k w fun w x => if x < 2 ^ (w - 1) then x else 2 ^ w - x

/-! ### Compares into masks (06 R157) -/

/-- The mask a vector compare writes: bit `i` keeps its value where the lane mask is 0, is 0 where it governs no element,
and else holds when the condition holds for every element it governs. Where the lane mask is 0 at a bit that governs no element,
both of the first two apply, and the bit keeps its value (DESIGN CHOICE, log 73). -/
def cmpMask (w : Nat) (km old : BitVec 16) (hold : Nat → Bool) : BitVec 16 :=
  let per := if w = 8 then 4 else if w = 16 then 2 else 1
  BitVec.ofNat 16 (packNat 1 ((nums 16).map fun i =>
    b2n (if !km.getLsbD i then old.getLsbD i
      else if 512 / w ≤ i * per then false
      else (numsFrom (i * per) per).all hold)))

/-- vcmp of integers, class F1. -/
def execVcmpInt (st : Stall) (d : KReg) (a b : VReg) (k : KReg) (t : ITy) (c : ICond) (s : State) :
    Host.Outcome State Fault Refusal :=
  let i := Instr.vcmpInt st d a b k t c
  issue i s fun th s =>
    let w := ityW t
    let va := th.vreg a
    let vb := th.vreg b
    let req := (ityTag t).toNat
    let hold (e : Nat) :=
      let x := elem va.bits w e
      let y := elem vb.bits w e
      iCond c (intOf (ityS t) w x) (intOf (ityS t) w y) x y
    withTags i th s [vcheck th a (intTag w) req, vcheck th b (intTag w) req]
      (.done (th.putK d (cmpMask w (th.kreg k).val (th.kreg d).val hold)
        (maskLabel th k (va.lab ||| vb.lab) (th.kreg d).lab)) s)

/-! ### Moves, permutes, masks (06 R160 to R163) -/

/-- vmov. -/
def execVmov (st : Stall) (d a : VReg) (s : State) : Host.Outcome State Fault Refusal :=
  issue (.vmov st d a) s fun th s =>
    .done (th.putV d (th.vreg a).bits (th.vreg a).tag ((th.vreg a).lab ||| th.ctxl)) s

/-- A permute of lanes of width `w`, class F3. -/
def vperm (i : Instr) (s : State) (d a b : VReg) (w : Nat) : Host.Outcome State Fault Refusal :=
  issue i s fun th s =>
    let va := th.vreg a
    let vb := th.vreg b
    let n := 512 / w
    let x := packV w ((nums n).map fun e => elem va.bits w (elem vb.bits w e % n))
    finishV i th s 3 d ⟨x, va.tag, va.lab ||| vb.lab ||| th.ctxl⟩ 0 0

/-- vperm.32. -/
def execVperm32 (st : Stall) (d a b : VReg) (s : State) : Host.Outcome State Fault Refusal :=
  vperm (.vperm32 st d a b) s d a b 32
/-- vperm.64. -/
def execVperm64 (st : Stall) (d a b : VReg) (s : State) : Host.Outcome State Fault Refusal :=
  vperm (.vperm64 st d a b) s d a b 64

/-- vsel: every element is written (06 R161). -/
def execVsel (st : Stall) (d a b : VReg) (k : KReg) (s : State) : Host.Outcome State Fault Refusal :=
  let i := Instr.vsel st d a b k
  issue i s fun th s =>
    let va := th.vreg a
    let vb := th.vreg b
    let w := (tagWidth va.tag).getD 32
    let x := packV w ((nums (512 / w)).map fun e =>
      elem (if enabled (th.kreg k).val w e then va.bits else vb.bits) w e)
    withTags i th s [vcheck th b (fun g => decide (g = va.tag)) va.tag.toNat]
      (.done (th.putV d x va.tag (va.lab ||| vb.lab ||| (th.kreg k).lab ||| th.ctxl)) s)

/-- A mask operation of two sources (06 R162). -/
def kOp2 (i : Instr) (s : State) (d a b : KReg) (f : BitVec 16 → BitVec 16 → BitVec 16) :
    Host.Outcome State Fault Refusal :=
  issue i s fun th s =>
    .done (th.putK d (f (th.kreg a).val (th.kreg b).val) ((th.kreg a).lab ||| (th.kreg b).lab ||| th.ctxl)) s

/-- kand. -/
def execKand (st : Stall) (d a b : KReg) (s : State) : Host.Outcome State Fault Refusal :=
  kOp2 (.kand st d a b) s d a b fun x y => x &&& y
/-- kor. -/
def execKor (st : Stall) (d a b : KReg) (s : State) : Host.Outcome State Fault Refusal :=
  kOp2 (.kor st d a b) s d a b fun x y => x ||| y
/-- kxor. -/
def execKxor (st : Stall) (d a b : KReg) (s : State) : Host.Outcome State Fault Refusal :=
  kOp2 (.kxor st d a b) s d a b fun x y => x ^^^ y
/-- knot. -/
def execKnot (st : Stall) (d a : KReg) (s : State) : Host.Outcome State Fault Refusal :=
  issue (.knot st d a) s fun th s => .done (th.putK d (~~~(th.kreg a).val) ((th.kreg a).lab ||| th.ctxl)) s
/-- kmov. -/
def execKmov (st : Stall) (d a : KReg) (s : State) : Host.Outcome State Fault Refusal :=
  issue (.kmov st d a) s fun th s => .done (th.putK d (th.kreg a).val ((th.kreg a).lab ||| th.ctxl)) s

/-- A carry-less product of elements, class F3; `hi` selects the high half (06 R163). -/
def vclmul (i : Instr) (s : State) (d a b : VReg) (k : KReg) (w : Nat) (hi : Bool) : Host.Outcome State Fault Refusal :=
  issue i s fun th s =>
    let va := th.vreg a
    let vb := th.vreg b
    withTags i th s [vcheck th a (intTag w) (iCodeOf w), vcheck th b (intTag w) (iCodeOf w)]
      (elementWise i th s 3 d k (va.lab ||| vb.lab) (if w = 32 then 7 else 8) w (512 / w) fun e =>
        let c := clmulNat (elem va.bits w e) (elem vb.bits w e) w
        ((if hi then c / 2 ^ w else c) % 2 ^ w, 0))

/-- vclmul.lo.32. -/
def execVclmulLo32 (st : Stall) (d a b : VReg) (k : KReg) (s : State) : Host.Outcome State Fault Refusal :=
  vclmul (.vclmulLo32 st d a b k) s d a b k 32 false
/-- vclmul.hi.32. -/
def execVclmulHi32 (st : Stall) (d a b : VReg) (k : KReg) (s : State) : Host.Outcome State Fault Refusal :=
  vclmul (.vclmulHi32 st d a b k) s d a b k 32 true
/-- vclmul.lo.64. -/
def execVclmulLo64 (st : Stall) (d a b : VReg) (k : KReg) (s : State) : Host.Outcome State Fault Refusal :=
  vclmul (.vclmulLo64 st d a b k) s d a b k 64 false
/-- vclmul.hi.64. -/
def execVclmulHi64 (st : Stall) (d a b : VReg) (k : KReg) (s : State) : Host.Outcome State Fault Refusal :=
  vclmul (.vclmulHi64 st d a b k) s d a b k 64 true

/-! ### Moves between scalars and vectors (06 R164) -/

/-- The tag that vbcast and vins leave: the old one where its element width is `w`, else .n32 or .n64. -/
def keptTag (g : Tag) (w : Nat) : Tag := if widthTag w g then g else if w = 32 then 7 else 8

/-- vbcast. -/
def vbcast (i : Instr) (s : State) (d : VReg) (a : SReg) (k : KReg) (w : Nat) : Host.Outcome State Fault Refusal :=
  issue i s fun th s =>
    elementWise i th s 1 d k (th.sl a) (keptTag (th.vreg d).tag w) w (512 / w) fun _ => ((th.sv a).toNat % 2 ^ w, 0)

/-- vbcast.32. -/
def execVbcast32 (st : Stall) (d : VReg) (a : SReg) (k : KReg) (s : State) : Host.Outcome State Fault Refusal :=
  vbcast (.vbcast32 st d a k) s d a k 32
/-- vbcast.64. -/
def execVbcast64 (st : Stall) (d : VReg) (a : SReg) (k : KReg) (s : State) : Host.Outcome State Fault Refusal :=
  vbcast (.vbcast64 st d a k) s d a k 64

/-- vins: one element, every other kept. -/
def vins (i : Instr) (s : State) (d : VReg) (a : SReg) (n w : Nat) : Host.Outcome State Fault Refusal :=
  issue i s fun th s =>
    let vd := th.vreg d
    let x := packV w ((nums (512 / w)).map fun e => if e = n then (th.sv a).toNat else elem vd.bits w e)
    .done (th.putV d x (keptTag vd.tag w) (th.sl a ||| vd.lab ||| th.ctxl)) s

/-- vins.32. -/
def execVins32 (st : Stall) (d : VReg) (a : SReg) (l : BitVec 4) (s : State) : Host.Outcome State Fault Refusal :=
  vins (.vins32 st d a l) s d a l.toNat 32
/-- vins.64. -/
def execVins64 (st : Stall) (d : VReg) (a : SReg) (l : BitVec 3) (s : State) : Host.Outcome State Fault Refusal :=
  vins (.vins64 st d a l) s d a l.toNat 64

/-- vext: the scalar is the destination; no tag check. -/
def vext (i : Instr) (s : State) (d : VReg) (a : SReg) (n w : Nat) : Host.Outcome State Fault Refusal :=
  issue i s fun th s =>
    .done (th.putS a (BitVec.ofNat 64 (elem (th.vreg d).bits w n)) ((th.vreg d).lab ||| th.ctxl)) s

/-- vext.32. -/
def execVext32 (st : Stall) (d : VReg) (a : SReg) (l : BitVec 4) (s : State) : Host.Outcome State Fault Refusal :=
  vext (.vext32 st d a l) s d a l.toNat 32
/-- vext.64. -/
def execVext64 (st : Stall) (d : VReg) (a : SReg) (l : BitVec 3) (s : State) : Host.Outcome State Fault Refusal :=
  vext (.vext64 st d a l) s d a l.toNat 64

end Sys2Proof.Machine
end

