-- ==== Sys2Proof/Machine/Tile.lean ====
section
/-! DEFINITION. Tile registers (14 R322, R323). -/

namespace Sys2Proof.Machine

/-- FMT.SHAPE (14 Table 14.12). -/
def fmtShape (i : Instr) (th : Thread) (s : State) (n : TReg) : Res :=
  .trap th s .fmtShape (wordOf i) (BitVec.ofNat 64 (n.toNat * 2 ^ 32 + (th.tsreg n).toNat)) 0

/-- The bytes of a tile that its shape covers. -/
def tileSize (x : BitVec 32) : Nat := tsRows x * tsCols x * elemSize (tsFmt x)

/-- The pieces of a tile access, row after row; each reports its row's address. -/
def tilePieces (x : BitVec 32) (a b : Word) (req : Nat → Nat → Place → Req) : List Piece :=
  let w := tsCols x * elemSize (tsFmt x)
  (nums (tsRows x)).flatMap fun i =>
    let row := a + BitVec.ofNat 64 i * b
    (piecesOf row w).map fun (o, n) => ⟨row, row + BitVec.ofNat 64 o, i * w + o, n, req (i * w + o) n⟩

/-- The checks before the rows of a tile access: the shape, then the alignment of both registers. -/
def tileRows (i : Instr) (th : Thread) (s : State) (n : TReg) (a b : SReg) (kind : Nat) (body : Res) : Res :=
  let e := elemSize (tsFmt (th.tsreg n))
  if unshaped (th.tsreg n) then fmtShape i th s n
  else if decide ((th.sv a).toNat % e ≠ 0) || decide ((th.sv b).toNat % e ≠ 0) then
    .trap th s .memAlign (th.sv a) (physInfo .memAlign 0 kind) 0
  else body

/-- The bytes `o` to `o + n − 1` of a tile. -/
def tileBytes (x : TileBits) (o n : Nat) : List Byte := toBytes n (x.toNat / 2 ^ (8 * o))

/-- tld (14 R323). -/
def execTld (st : Stall) (d : TReg) (a b : SReg) (s : State) : Host.Outcome State Fault Refusal :=
  issue (.tld st d a b) s fun th s =>
    tileRows (.tld st d a b) th s d a b 0
      (access (.tld st d a b) s.cur th s { kind := 0, size := 64, slotRead := true } {} (.tload d (th.sl a ||| th.sl b ||| th.ctxl))
        (tilePieces (th.tsreg d) (th.sv a) (th.sv b) fun _ n _ => .read n))

/-- tst (14 R323). -/
def execTst (st : Stall) (d : TReg) (a b : SReg) (s : State) : Host.Outcome State Fault Refusal :=
  issue (.tst st d a b) s fun th s =>
    let x := th.treg d
    let lv := x.lab ||| th.sl a ||| th.sl b ||| th.ctxl
    tileRows (.tst st d a b) th s d a b 1
      (access (.tst st d a b) s.cur th s { kind := 1, size := 64 } { lv := some lv, carry := lv } .ack
        (tilePieces (th.tsreg d) (th.sv a) (th.sv b) fun o n _ => .write ((tileBytes x.bits o n).map some)))

/-- tzero (14 R322). -/
def execTzero (st : Stall) (d : TReg) (s : State) : Host.Outcome State Fault Refusal :=
  issue (.tzero st d) s fun th s => .done (th.putT d 0 th.ctxl) s

/-- tmov: bytes and shape; onto itself it changes nothing (14 R322). -/
def execTmov (st : Stall) (d a : TReg) (s : State) : Host.Outcome State Fault Refusal :=
  issue (.tmov st d a) s fun th s =>
    let x := th.treg a
    if d = a then .done th s
    else .done (th.later (.tmov st d a) s.rot 2 (.t d) (.t ⟨x.bits, x.lab ||| th.ctxl⟩ (th.tsreg a)) 0 0) s

/-- tshape: CTXL widens first, even when the word traps (14 R322). -/
def execTshape (st : Stall) (d : TReg) (a : SReg) (s : State) : Host.Outcome State Fault Refusal :=
  issue (.tshape st d a) s fun th s =>
    writeShape (th.widen (th.sl a)) s d (((th.sv a).setWidth 32).setWidth 64)

/-- tgshape (14 R322); of a tile without a shape it takes FMT.SHAPE (02 R39). -/
def execTgshape (st : Stall) (d : TReg) (a : SReg) (s : State) : Host.Outcome State Fault Refusal :=
  issue (.tgshape st d a) s fun th s =>
    if unshaped (th.tsreg d) then fmtShape (.tgshape st d a) th s d
    else .done (th.putS a ((th.tsreg d).setWidth 64) th.ctxl) s

end Sys2Proof.Machine
end

