-- ==== Sys2Proof/Machine/Matrix.lean ====
section
/-! DEFINITION. Accumulator banks, the matrix queue and unit, and the matrix multiply forms (14 R324 to R347). -/

namespace Sys2Proof.Machine

/-! ### Accumulator banks (14 R324) -/

/-- A free bank: zeros, kind ZERO. -/
def BankVal.zero : BankVal := ⟨0, 0, 0, false⟩

/-- A bank of a core. -/
def bankOf (c : Core) (b : Nat) : BankVal := (nget c.banks b).getD BankVal.zero

/-- A bank written; a zero bank is not listed. -/
def Core.setBank (c : Core) (b : Nat) (x : BankVal) : Core :=
  { c with banks := if x = BankVal.zero then ndel c.banks b else nset c.banks b x }

/-- The banks named that a thread does not hold: whether there is one, and the mask of those up to 63. -/
def notHeld (th : Thread) (b k : Nat) : Bool × Word :=
  let l := (numsFrom b k).filter fun i => 64 ≤ i || !th.abown.getLsbD i
  (!l.isEmpty, BitVec.ofNat 64 (sumOver (l.filter (· < 64)) fun i => 2 ^ i))

/-- ACC.BANK. -/
def accBank (i : Instr) (th : Thread) (s : State) (m : Word) : Res := .trap th s .accBank (wordOf i) m 0

/-- FMT.ACC. -/
def fmtAcc (i : Instr) (th : Thread) (s : State) (b found want : Nat) : Res :=
  .trap th s .fmtAcc (wordOf i) (BitVec.ofNat 64 (want * 2 ^ 12 + found * 2 ^ 8 + b)) 0

/-- The check of a word that names bank `b` for an accumulator of the given kinds; the kinds do not count with `za`. -/
def bankFail (i : Instr) (th : Thread) (s : State) (core b : Nat) (kinds : List Nat) (za : Bool) : Option Res :=
  let (bad, m) := notHeld th b kinds.length
  if bad then some (accBank i th s m)
  else if za then none
  else ((kinds.zip (numsFrom b kinds.length)).find? fun (k, n) =>
      let f := (bankOf (s.core core) n).kind.toNat
      decide (f ≠ 0) && decide (f ≠ k)).map fun (k, n) => fmtAcc i th s n (bankOf (s.core core) n).kind.toNat k

/-- Whether one of the banks is poisoned (20 Table 20.5). -/
def anyPoison (c : Core) (b k : Nat) : Bool := (numsFrom b k).any fun n => (bankOf c n).poisoned

/-- The mask of `k` banks from `b`. -/
def maskOf (b k : Nat) : Word := BitVec.ofNat 64 (sumOver ((numsFrom b k).filter (· < 64)) fun i => 2 ^ i)

/-- A readout: it waits for the commands that name its banks, and a poisoned bank kills its holder (20 Table 20.5). -/
def readout (i : Instr) (tid : Nat) (th : Thread) (s : State) (b k : Nat) (body : Res) : Res :=
  if s.busy tid (maskOf b k) 0 then parkOn th s i (.banks (maskOf b k) 0)
  else if anyPoison (s.core (coreOf tid)) b k then .gone ((s.setThread tid th).kill tid 4)
  else body

/-! ### Accumulator elements (14 Table 14.2) -/

/-- Columns, rows of one part, and bits of an element, by the kind of the first bank. -/
def accGeom (kind : Nat) : Nat × Nat × Nat :=
  match kind with
  | 1 => (16, 16, 64) | 2 => (16, 32, 32) | 3 => (32, 16, 32) | _ => (32, 32, 16)

/-- Element (i, j) of an accumulator whose banks are given. -/
def accElem (kind : Nat) (l : List BankVal) (i j : Nat) : Nat :=
  let (c, r, w) := accGeom kind
  (l.getD (i / r) BankVal.zero).bits.toNat / 2 ^ (w * (i % r * c + j)) % 2 ^ w

/-- The bytes of part `p` of an accumulator with the given elements. -/
def accPart (kind p : Nat) (f : Nat → Nat → Nat) : TileBits :=
  let (c, r, w) := accGeom kind
  BitVec.ofNat 16384 (sumOver (nums (r * c)) fun x => f (p * r + x / c) (x % c) % 2 ^ w * 2 ^ (w * x))

/-! ### Forms (14 Table 14.4) -/

/-- A matrix multiply form. -/
structure MxForm where
  ok : Tag → Bool
  req : Nat
  m : Nat
  k : Nat
  n : Nat
  chunk : Nat
  kinds : List Nat
  acc : Fmt
  /-- Time from start to completion: dense, 4-of-8, 2-of-8. -/
  time : Nat × Nat × Nat
  mx : Bool
  rns : Bool

/-- A matrix word: its form and operands. -/
structure MxWord where
  form : MxForm
  bank : Bank
  a : TReg
  b : BSrc
  z : Bool

/-- A form that accepts one tag for both operands. -/
def oneTag (g : Tag) (x : Tag) : Bool := decide (x = g)

/-- The form of a matrix word. -/
def mxWord : Instr → Option MxWord
  | .mmaF64 _ n a b z => some ⟨⟨oneTag 0x09, 0x09, 16, 16, 16, 4, [1], fp64, (16, 16, 16), false, false⟩, n, a, b, z⟩
  | .mmaF32 _ n a b z => some ⟨⟨oneTag 0x0A, 0x0A, 32, 16, 16, 8, [2], fp32, (16, 16, 16), false, false⟩, n, a, b, z⟩
  | .mmaBf16 _ n a b z => some ⟨⟨oneTag 0x0C, 0x0C, 32, 32, 32, 16, [3, 4], fp32, (32, 16, 8), false, false⟩, n, a, b, z⟩
  | .mmaF16 _ n a b z => some ⟨⟨oneTag 0x0B, 0x0B, 32, 32, 32, 16, [3, 4], fp32, (32, 16, 8), false, false⟩, n, a, b, z⟩
  | .mmaB8 _ n a b z => some ⟨⟨tagB8, 0x11, 32, 64, 32, 32, [3, 4], fp32, (32, 16, 8), false, false⟩, n, a, b, z⟩
  | .mmaMxe4m3 _ n a b z => some ⟨⟨oneTag 0x0D, 0x0D, 32, 64, 32, 32, [3, 4], fp32, (32, 16, 8), true, false⟩, n, a, b, z⟩
  | .mmaMxe5m2 _ n a b z => some ⟨⟨oneTag 0x0E, 0x0E, 32, 64, 32, 32, [3, 4], fp32, (32, 16, 8), true, false⟩, n, a, b, z⟩
  | .rmmaI8 _ n a b z =>
    some ⟨⟨fun g => decide (g = 0x01) || decide (g = 0x05), 0x01, 32, 64, 32, 64, [8, 9, 10, 11, 12, 13], fp32, (20, 20, 20), false, true⟩, n, a, b, z⟩
  | .rmmaI16 _ n a b z =>
    some ⟨⟨fun g => decide (g = 0x02) || decide (g = 0x06), 0x02, 32, 32, 32, 32, [8, 9, 10, 11, 12, 13], fp32, (36, 36, 36), false, true⟩, n, a, b, z⟩
  | _ => none

/-- Stored values of a group of 8 under a spar prefix; 8 without one (14 R339). -/
def spKeep : Option (TReg × SpPat) → Nat
  | none => 8
  | some (_, .of4) => 4
  | some (_, .of2) => 2

/-- The time of a form under its prefix (14 Table 14.4). -/
def mxTime (f : MxForm) (sp : Option (TReg × SpPat)) : Nat :=
  match sp with
  | none => f.time.1
  | some (_, .of4) => f.time.2.1
  | some (_, .of2) => f.time.2.2

/-- L of Table 14.4. -/
def mxLatency (f : MxForm) (sp : Option (TReg × SpPat)) : Nat := (mxTime f sp + 7) / 8 + 1

/-! ### The checks at issue (14 R335) -/

/-- The tile registers of a command besides A and B: scales, then the presence mask, with the rows and columns that each
must have. -/
def mxExtra (w : MxWord) (sp : Option (TReg × SpPat)) : List (TReg × Nat × Nat) :=
  (if w.form.mx then [(w.a ^^^ 4, w.form.m, 2)] ++ (match w.b with | .tile t => [(t ^^^ 4, 2, w.form.n)] | .slot _ => []) else []) ++
  match sp with
  | some (t, _) => [(t, w.form.m, w.form.k / 8)]
  | none => []

/-- The tile registers A and B with their shapes. -/
def mxMain (w : MxWord) (sp : Option (TReg × SpPat)) : List (TReg × Nat × Nat) :=
  [(w.a, w.form.m, w.form.k / 8 * spKeep sp)] ++ match w.b with | .tile t => [(t, w.form.k, w.form.n)] | .slot _ => []

/-- A bead slot of a partition on a core. -/
def State.bslot (s : State) (core part n : Nat) : BSlot := vget (s.pcore core part).bslots n

/-- The physical address of a bead slot's first byte. -/
def State.slotPa (s : State) (core part n : Nat) : Nat := localPa core (slotOff (s.pdie (dieOf core) part) n)

/-- Whether a bead slot number exists for a partition. -/
def State.hasSlot (s : State) (core part n : Nat) : Bool := decide (n < (s.pdie (dieOf core) part).bslots)

/-- The tag checks of a command: A, B, then scales and mask. A bead slot has a tag while a bead stands in it; in every other
state the slot rule of step 6 says what the word does (14 R338, 15 R366). -/
def mxTags (s : State) (core : Nat) (th : Thread) (w : MxWord) (sp : Option (TReg × SpPat)) : List TagCheck :=
  let tile (t : TReg) (ok : Tag → Bool) (req : Nat) : TagCheck := ⟨1, t.toNat, tsFmt (th.tsreg t), ok (tsFmt (th.tsreg t)), req⟩
  [tile w.a w.form.ok w.form.req] ++
  (match w.b with
    | .tile t => [tile t w.form.ok w.form.req]
    | .slot n =>
      let b := s.bslot core th.part n.toNat
      let g := b.fmt
      if s.hasSlot core th.part n.toNat && decide (b.state = 2) then [⟨1, n.toNat, g, w.form.ok g, w.form.req⟩] else []) ++
  (mxExtra w sp).map fun (t, _, _) => tile t (oneTag 0x05) 0x05

/-- The shape found wanting. -/
def mxShape (th : Thread) (w : MxWord) (sp : Option (TReg × SpPat)) : Option TReg :=
  ((mxMain w sp ++ mxExtra w sp).find? fun (t, r, c) =>
    decide (tsRows (th.tsreg t) ≠ r) || decide (tsCols (th.tsreg t) ≠ c)).map (·.1)

/-- A byte of a presence mask: row i, group g. -/
def presence (th : Thread) (t : TReg) (groups i g : Nat) : Nat := (th.treg t).bits.toNat / 2 ^ (8 * (i * groups + g)) % 256

/-- The first mask with too many bits (14 R339): its row and group. -/
def sparseFail (th : Thread) (w : MxWord) (sp : Option (TReg × SpPat)) : Option (Nat × Nat) :=
  match sp with
  | none => none
  | some (t, _) =>
    let gs := w.form.k / 8
    ((nums (w.form.m * gs)).find? fun x => decide (spKeep sp < popcNat (presence th t gs (x / gs) (x % gs)) 8)).map
      fun x => (x / gs, x % gs)

/-- Steps 1 to 5 of R335, and a slot that does not exist: the first that fails. -/
def mxFail (i : Instr) (core : Nat) (th : Thread) (s : State) (w : MxWord) (sp : Option (TReg × SpPat)) : Option Res :=
  if w.form.rns && (s.core core).rodOff then some (.trap th s .unitDown (wordOf i) (s.rodFailReg core) 0)
  else match (mxTags s core th w sp).find? fun c => !c.ok with
  | some c => some (fmtTag i th s c)
  | none =>
    match mxShape th w sp with
    | some t => some (fmtShape i th s t)
    | none =>
      match bankFail i th s core w.bank.toNat w.form.kinds w.z with
      | some r => some r
      | none =>
        match sparseFail th w sp with
        | some (r, g) => some (.trap th s .fmtSparse (wordOf i) (BitVec.ofNat 64 (g * 2 ^ 8 + r)) 0)
        | none =>
          match w.b with
          | .slot n =>
            if s.hasSlot core th.part n.toNat then none else some (.trap th s .memResv (wordOf i) (n.setWidth 64) 0)
          | .tile _ => none

/-- The bytes of a bead slot that a command reads: B's elements, and in the MX forms its scales (14 R338; 14 Table 14.4). -/
def slotBytes (f : MxForm) : List (Nat × Nat) :=
  (0, f.k * f.n * elemSize f.req) :: (if f.mx then [(2048, 64)] else [])

/-- Whether what a command reads of its bead slot is poisoned (20 R426). -/
def State.slotBad (s : State) (core part : Nat) (w : MxWord) : Bool :=
  match w.b with
  | .slot n => (slotBytes w.form).any fun x => s.isPoisoned (s.slotPa core part n.toNat + x.1) x.2
  | .tile _ => false

/-- The slot rule of a bead slot operand (14 R338, 15 R366). -/
def mxSlot (i : Instr) (tid : Nat) (th : Thread) (s : State) (w : MxWord) : SlotRead :=
  match w.b with
  | .tile _ => .ok s
  | .slot n =>
    let core := coreOf tid
    let pa := s.slotPa core th.part n.toNat
    match readSlot i tid th s n.toNat (BitVec.ofNat 64 pa) (s.blockLabel pa) with
    | .stop r => .stop r
    | .ok s =>
      if s.slotBad core th.part w then
        .stop (.trap th s .memPoison (BitVec.ofNat 64 pa) (physInfo .memPoison pa 0) (s.blockLabel pa))
      else .ok s

/-! ### The queue (14 R330) -/

/-- The commands of a slot that wait to start. -/
def waitingCmds (c : Core) (slot : Nat) : List MxCmd := c.mxQueue.filter fun m => m.slot = slot

/-- The FPC.SRCNT that a command captures: what stands once every earlier command has posted (05 R141). -/
def State.srcntNow (s : State) (tid : Nat) (th : Thread) : BitVec 22 :=
  BitVec.ofNat 22 (th.srcnt + ((s.cmds tid).filter (·.stoch)).length)

/-- A command as it enters the queue. -/
def State.mkCmd (s : State) (tid : Nat) (th : Thread) (i : Instr) (w : MxWord) (sp : Option (TReg × SpPat)) (eng : Option Nat) : MxCmd where
  serial := s.serial
  slot := slotOf tid
  instr := i
  pc := th.pc
  rm := th.rnd.mode
  stoch := (th.chain.map (·.sround)).getD false && !w.form.rns
  srcnt := s.srcntNow tid th
  spar := sp
  ctxl := th.ctxl
  blab := match w.b with | .slot n => (s.bslot (coreOf tid) th.part n.toNat).lab | .tile _ => 0
  btag := match w.b with | .slot n => (s.bslot (coreOf tid) th.part n.toNat).fmt | .tile _ => 0
  eng := eng
  stop := 0xFF
  due := if s.isTimed tid th then some (s.rot + mxLatency w.form sp) else none
  lost := 0

/-- A command placed in the queue of its slot. Its banks are written by it, not by a command of a timed thread that is due
later (02 R49). -/
def State.enqueue (s : State) (core : Nat) (c : MxCmd) : State :=
  (s.modCore core fun x =>
    let x := dropDue x c.slot s.rot (bankMask (touch c.instr).2)
    { x with mxQueue := x.mxQueue ++ [c] }).tick1

/-- The issue of a matrix word. -/
def command (i : Instr) (s : State) : Host.Outcome State Fault Refusal :=
  issue i s fun th s =>
    match mxWord i with
    | none => .done th s
    | some w =>
      let sp := th.chain.bind (·.spar)
      match mxFail i (coreOf s.cur) th s w sp with
      | some r => r
      | none =>
        match mxSlot i s.cur th s w with
        | .stop r => r
        | .ok s' =>
          if 2 ≤ (waitingCmds (s'.core (coreOf s.cur)) (slotOf s.cur)).length then parkOn th s' i .queueRoom
          else .done th (s'.enqueue (coreOf s.cur) (s'.mkCmd s.cur th i w sp none))

/-! ### Elements -/

/-- What a command reads when it starts: the encodings of logical A and of B, their tags, the scales, the old
accumulator. -/
structure MxData where
  a : Nat → Nat → Nat
  b : Nat → Nat → Nat
  atag : Tag
  btag : Tag
  sa : Nat → Nat → Nat
  sb : Nat → Nat → Nat
  old : List BankVal

/-- Element (i, j) of a tile of the given columns and width. -/
def tileElem (x : Nat) (cols w i j : Nat) : Nat := x / 2 ^ (w * (i * cols + j)) % 2 ^ w

/-- Bits of an element of a tile tag. -/
def elemBits (g : Tag) : Nat := 8 * elemSize g

/-- Element (i, k) of A rebuilt under a presence mask (14 R339). -/
def sparseElem (x : Nat) (keep cols w m i k : Nat) : Nat :=
  if bitAt m (k % 8) then
    let q := popcNat m (k % 8)
    if q < keep then tileElem x cols w i (k / 8 * keep + q) else 0
  else 0

/-- The operands of a command. -/
def State.mxData (s : State) (core : Nat) (th : Thread) (c : MxCmd) (w : MxWord) : MxData :=
  let atag := tsFmt (th.tsreg w.a)
  let wa := elemBits atag
  let ax := (th.treg w.a).bits.toNat
  let keep := spKeep c.spar
  let cols := w.form.k / 8 * keep
  let (bx, btag, sbx) := match w.b with
    | .tile t => ((th.treg t).bits.toNat, tsFmt (th.tsreg t), (th.treg (t ^^^ 4)).bits.toNat)
    | .slot n =>
      let pa := s.slotPa core th.part n.toNat
      (s.num pa 2048, c.btag, s.num (pa + 2048) 64)
  let sax := (th.treg (w.a ^^^ 4)).bits.toNat
  { a := fun i k => match c.spar with
      | none => tileElem ax cols wa i k
      | some (t, _) => sparseElem ax keep cols wa (presence th t (w.form.k / 8) i (k / 8)) i k
    b := fun k j => tileElem bx w.form.n (elemBits btag) k j
    atag := atag
    btag := btag
    sa := fun i q => tileElem sax 2 8 i q
    sb := fun q j => tileElem sbx w.form.n 8 q j
    old := (numsFrom w.bank.toNat w.form.kinds.length).map (bankOf (s.core core)) }

/-! ### Floating-point commands (14 R336, R337; 05 R143 to R147) -/

/-- A product under the scales of an MX form. A scale of 0xFF makes the product NaN; an invalid that the product itself raised
stands (DESIGN CHOICE, log 33). -/
def scaledProduct (mx : Bool) (sa sb : Nat) (x : Num × Flags) : Num × Flags :=
  if !mx then x
  else if sa = 255 || sb = 255 then (.nan false (numKey x.1), x.2)
  else match x.1 with
    | .fin n m e => (.fin n m (e + (sa : Int) - 127 + (sb : Int) - 127), x.2)
    | y => (y, x.2)

/-- The lowest k index of a term that makes a chunk NaN: a NaN, or an infinity where the sum holds both (05 R144, R146). -/
def nanIndex (both : Bool) (l : List (Nat × Num)) : Option Nat :=
  (l.find? fun x => isNan x.2 || (both && (isInf true x.2 || isInf false x.2))).map (·.1)

/-- One chunk: the products with their k indices, and the accumulator when it counts. -/
def chunkSum (f : Fmt) (r : Rnd) (idx : Nat) (here : Nat × Nat × Nat) (acc : Option Nat) (l : List (Nat × Num)) : Nat × Flags :=
  let all := l.map (·.2) ++ (acc.map (numOf f)).toList
  let (x, fl) := sumNums f r idx all
  let both := all.any (isInf true) && all.any (isInf false)
  if (all.any isNan || both) && (bestKey (all.map numKey)).isNone then
    match nanIndex both l with
    | some k => (nanWith f (some (here.1, here.2.1, here.2.2, k)), fl)
    | none => (x, fl)
  else (x, fl)

/-- Element (i, j): its chunks in order. -/
def mxElement (w : MxWord) (d : MxData) (r : Rnd) (here : Nat × Nat × Nat) (i j : Nat) : Nat × Flags :=
  let f := w.form
  let fa := (tagFmt d.atag).getD fp32
  let fb := (tagFmt d.btag).getD fp32
  let nc := f.k / f.chunk
  (nums nc).foldl (fun x c =>
    let ps := (numsFrom (c * f.chunk) f.chunk).map fun k =>
      (k, scaledProduct f.mx (d.sa i (k / 32)) (d.sb (k / 32) j) (mulNum (numOf fa (d.a i k)) (numOf fb (d.b k j))))
    let old := if c = 0 then (if w.z then none else some (accElem (f.kinds.headD 1) d.old i j)) else some x.1
    let (y, fl) := chunkSum f.acc r ((i * f.n + j) * nc + c) here old (ps.map fun (k, p) => (k, p.1))
    (y, x.2 ||| fl ||| ps.foldl (fun a p => a ||| p.2.2) 0)) (0, 0)

/-! ### Residue commands (14 R341, R344; 17 R385, R386) -/

/-- Upsets and faults of the rods that strike attempt `n` at an element (17 R385). -/
def rodStrike (l : List (Nat × Nat × Nat × Nat)) (n elem r x : Nat) : Nat :=
  l.foldl (fun x (q, e, d, times) =>
    if q ≠ r ∨ (e ≠ 1024 ∧ e ≠ elem) then x
    else if times = 0 then (x ^^^ d) % 65536
    else if n < times then (x + d) % rodMod r
    else x) x

/-- What is left of the upsets after some attempts. -/
def rodAge (l : List (Nat × Nat × Nat × Nat)) (n : Nat) : List (Nat × Nat × Nat × Nat) :=
  l.filterMap fun (q, e, d, times) => if times = 0 then some (q, e, d, 0) else if times ≤ n then none else some (q, e, d, times - n)

/-- The residues of element (i, j) on every rod, before any fault. -/
def rnsElement (w : MxWord) (d : MxData) (i j : Nat) : List Nat :=
  let (sa, wa) := (tagInt d.atag).getD (true, 8)
  let (sb, wb) := (tagInt d.btag).getD (true, 8)
  let sum : Int := (nums w.form.k).foldl (fun z k => z + intOf sa wa (d.a i k) * intOf sb wb (d.b k j)) 0
  (nums 6).map fun r =>
    let old := if w.z then 0 else (d.old.getD r BankVal.zero).bits.toNat / 2 ^ (16 * (32 * i + j)) % 65536
    (((old : Int) + sum) % (rodMod r : Int)).toNat

/-- Attempt `n` of a residue command: the residues of every element. -/
def rnsAttempt (w : MxWord) (d : MxData) (faults : List (Nat × Nat × Nat × Nat)) (n : Nat) : List (List Nat) :=
  (nums 1024).map fun x =>
    let l := rnsElement w d (x / 32) (x % 32)
    (nums 6).map fun r => rodStrike faults n x r (l.getD r 0)

/-- The event of a rod (14 R345). -/
def rodEvent (c : Cause) (pc i1 : Word) : PendEvent := ⟨causeCode c, 1, pc, i1, 0⟩

/-- The residues that an element is written with (14 R346). -/
def rnsWritten (ovt : Bool) (c : Chk) (x : List Nat) : List Nat :=
  if c.overflow && !ovt then residues (rnsSat c.val) else x

/-- The result of a residue command, and how many attempts it took. -/
def rnsResult (core : Core) (th : Thread) (c : MxCmd) (w : MxWord) (d : MxData) (labs : List Label) : MxRes × Nat :=
  let live := liveRods core.rodFail
  let x1 := rnsAttempt w d core.rodFaults 0
  let c1 := x1.map (checkRods live)
  let again := c1.any Chk.bad
  let x2 := if again then rnsAttempt w d core.rodFaults 1 else x1
  let o := decideRods c1 (if again then x2.map (checkRods live) else c1)
  let lab := labels labs
  let out := (o.fin.zip x2).map fun (k, x) => rnsWritten th.ovt k x
  let banks := (nums 6).map fun r =>
    (w.bank.toNat + r, (⟨accPart (8 + r) 0 (fun i j => (out.getD (32 * i + j) []).getD r 0), BitVec.ofNat 4 (8 + r),
      labs.getD r 0, false⟩ : BankVal))
  let ov := o.fin.findIdx? Chk.overflow
  let located := match o.kind with | .mark _ | .unstable => true | _ => false
  let cause : Cause := match o.kind with | .unstable => .rodUnstable | _ => .rodLocated
  let stopped := decide (o.kind = .unstable)
  ({ banks := if stopped then [] else banks
     flags := 0
     rnsf := (located && !th.rmt) || (!stopped && ov.isSome && !th.ovt)
     lab := lab
     events := (if located && th.rmt then [rodEvent cause c.pc (rodInfo o o.first)] else []) ++
       (match ov with
         | some k => if th.ovt && !stopped then [rodEvent .rnsOvf c.pc (BitVec.ofNat 64 k)] else []
         | none => [])
     mark := match o.kind with | .mark r => some r | _ => none
     trans := if o.kind = .transient then 1 else 0
     unst := if stopped then 1 else 0
     unloc := unlocs o }, if again then 2 else 1)

/-! ### Start and completion (14 R330, R333) -/

/-- A result that changes nothing. -/
def MxRes.empty : MxRes := ⟨[], 0, false, 0, [], none, 0, 0, 0⟩

/-- The labels that the banks of a command get, in order (14 R336). -/
def mxLabels (th : Thread) (c : MxCmd) (w : MxWord) (d : MxData) : List Label :=
  let ops := (th.treg w.a).lab ||| (match w.b with | .tile t => (th.treg t).lab | .slot _ => c.blab) ||| c.ctxl |||
    labels ((mxExtra w c.spar).map fun x => (th.treg x.1).lab)
  d.old.map fun b => if w.z then ops else b.lab ||| ops

/-- The result of a floating-point command. -/
def floatResult (s : State) (core : Nat) (th : Thread) (c : MxCmd) (w : MxWord) (d : MxData) (labs : List Label) : MxRes :=
  let r : Rnd := ⟨c.rm, fun idx => if c.stoch then some (srBits th.srseed c.srcnt.toNat c.pc idx) else none⟩
  let here := (s.fixed.pkgId.toNat, dieOf core, core % 1024)
  let kind := w.form.kinds.headD 1
  let el := mxElement w d r here
  let banks := (nums w.form.kinds.length).map fun p =>
    (w.bank.toNat + p, (⟨accPart kind p fun i j => (el i j).1, BitVec.ofNat 4 (w.form.kinds.getD p 0), labs.getD p 0, false⟩ : BankVal))
  let fl : Flags := (nums (w.form.m * w.form.n)).foldl (fun a x => a ||| (el (x / w.form.n) (x % w.form.n)).2) 0
  { MxRes.empty with banks := banks, flags := fl, lab := labels labs }

/-- What a command that starts computes, its time, and the attempts it makes. -/
def State.mxCompute (s : State) (core : Nat) (th : Thread) (c : MxCmd) : MxRes × Nat × Nat :=
  match mxWord c.instr with
  | none => (MxRes.empty, 1, 0)
  | some w =>
    let d := s.mxData core th c w
    let labs := mxLabels th c w d
    if w.form.rns then
      if (s.core core).rodOff then
        ({ MxRes.empty with events := [⟨causeCode .unitDown, 1, c.pc, s.rodFailReg core, 0⟩] }, mxTime w.form none, 0)
      else
        let (r, n) := rnsResult (s.core core) th c w d labs
        (r, n * mxTime w.form none, n)
    else (floatResult s core th c w d labs, mxTime w.form c.spar, 0)

/-- The slot whose command starts next: the first in barrel order after the last one started. -/
def nextSlot (c : Core) : Option Nat :=
  (((nums 8).map fun k => (c.mxLast + 1 + k) % 8).filter fun k => !(waitingCmds c k).isEmpty).head?

/-- The first failure of an engine command is recorded (15 R357). -/
def Engine.fail (g : Engine) (c : Cause) (va : Word) (stop : BitVec 8) : Engine :=
  if g.cause = 0 then { g with cause := causeCode c, faddr := va, fstop := stop } else g

/-- A failure of an engine's follow-on command recorded while its engine still runs. -/
def State.failFollow (s : State) (c : MxCmd) (x : Cause) : State :=
  match c.eng with
  | some e => match nget s.engines e with
    | some g => { s with engines := nset s.engines e (g.fail x 0 c.stop) }
    | none => s
  | none => s

/-- Whether a command whose bead slot has been poisoned since its issue is refused as it starts (20 R426), and what it is
refused with: its engine records the refusal, and a thread takes it as an asynchronous event, for its word has retired
(DESIGN CHOICE, log 80). -/
def State.slotRefusal (s : State) (core : Nat) (th : Thread) (c : MxCmd) : Option MxRes :=
  match mxWord c.instr with
  | some ⟨f, n, a, .slot k, z⟩ =>
    if s.slotBad core th.part ⟨f, n, a, .slot k, z⟩ then
      let pa := s.slotPa core th.part k.toNat
      some { MxRes.empty with events := if c.eng.isSome then []
        else [⟨causeCode .memPoison, 1, BitVec.ofNat 64 pa, physInfo .memPoison pa 0, s.blockLabel pa⟩] }
    else none
  | _ => none

/-- The unit starts a command; a poisoned bank that it reads kills the holder (20 Table 20.5). -/
def State.mxStart (s : State) (core : Nat) : Option State :=
  let x := s.core core
  if x.mxRun.isSome then none
  else match nextSlot x with
  | none => none
  | some k =>
    match waitingCmds x k with
    | [] => none
    | c :: _ =>
      let tid := tidOf core k
      match s.thread? tid with
      | none => some (s.modCore core fun x => { x with mxQueue := x.mxQueue.filter fun m => m.serial ≠ c.serial })
      | some th =>
        let reads := match mxWord c.instr with | some w => if w.z then (0, 0) else (w.bank.toNat, w.form.kinds.length) | none => (0, 0)
        if anyPoison x reads.1 reads.2 then some (s.kill tid 4)
        else
          let bad := s.slotRefusal core th c
          let s := if bad.isSome then s.failFollow c .memPoison else s
          let (r, time, n) := match bad with
            | some r => (r, 1, 0)
            | none => s.mxCompute core th c
          some (s.modCore core fun x => { x with
            mxQueue := x.mxQueue.filter fun m => m.serial ≠ c.serial
            mxRun := some ⟨c, s.cycle, s.cycle + time, r⟩
            mxLast := k
            rodFaults := rodAge x.rodFaults n })

/-- The result of a command applied (14 R333). -/
def State.mxApply (s : State) (core : Nat) (c : MxCmd) (r : MxRes) : State :=
  let tid := tidOf core c.slot
  match s.thread? tid with
  | none => s
  | some th =>
    let counted := decide (0 < r.trans + r.unst + r.unloc) || r.mark.isSome
    let th := th.post r.flags r.lab
    let th := if r.rnsf then th.postRnsf r.lab else if counted then th.widen r.lab else th
    let th := if c.stoch then th.srStep else th
    let s := s.setThread tid th
    let s := s.modCore core fun x =>
      let x := (r.banks.filter fun b => !c.lost.getLsbD b.1).foldl (fun x (b, v) => x.setBank b v) x
      match r.mark with
      | some k => markRods x (1#6 <<< k)
      | none => x
    let s := s.modPCore core th.part fun p => { p with
      rnsTrans := p.rnsTrans + BitVec.ofNat 32 r.trans
      ambUnst := p.ambUnst + BitVec.ofNat 16 r.unst
      ambUnloc := p.ambUnloc + BitVec.ofNat 16 r.unloc }
    r.events.foldl (fun s e => s.deliverTo tid e) s

/-- Whether a CRM word that waits for the commands before it is still to take its effect: a command that entered the queue
after it posts after it (04 R117). -/
def State.crmFirst (s : State) (core : Nat) (c : MxCmd) : Bool :=
  match s.thread? (tidOf core c.slot) with
  | none => false
  | some th =>
    (match th.park.map (fun (p : Park) => p.cond) with
      | some (.posted _ bound) => decide (bound ≤ c.serial)
      | _ => false) ||
    (match th.again.map (fun (a : Again) => a.instr) with
      | some (.mfcr ..) | some (.mtcr ..) | some (.mtcrs ..) | some (.mtcrc ..) => true
      | _ => false)

/-- The running command ends: its result is applied, kept for a timed thread until it is due (14 R331), or discarded
with its killed thread (R332). -/
def State.mxFinish (s : State) (core : Nat) : Option State :=
  match (s.core core).mxRun with
  | none => none
  | some r =>
    if s.cycle < r.finish || s.crmFirst core r.cmd then none
    else
      let s := s.modCore core fun x => { x with mxRun := none }
      if 8 ≤ r.cmd.slot then some s
      else match r.cmd.due with
        | none => some (s.mxApply core r.cmd r.res)
        | some _ => some (s.modCore core fun x => { x with mxDone := x.mxDone ++ [r] })

/-- Whether the partition of the thread in a slot is frozen on its core. -/
def State.frozenSlot (s : State) (core slot : Nat) : Bool :=
  match s.thread? (tidOf core slot) with
  | some th => decide (s.rot < (s.pcore core th.part).frozenTo)
  | none => false

/-- A timed thread's command that has been computed is due, or writes in a freeze (14 R331, R332). -/
def State.mxDue (s : State) (core : Nat) : Option State :=
  match (s.core core).mxDone.find? fun r => match r.cmd.due with
      | some n => decide (n ≤ s.rot) || s.frozenSlot core r.cmd.slot
      | none => true with
  | none => none
  | some r =>
    some ((s.modCore core fun x => { x with mxDone := x.mxDone.filter fun q => q.cmd.serial ≠ r.cmd.serial }).mxApply core r.cmd r.res)

/-! ### Words: commands -/

/-- mma.f64 (14 R336). -/
def execMmaF64 (st : Stall) (n : Bank) (a : TReg) (b : BSrc) (z : Bool) (s : State) : Host.Outcome State Fault Refusal :=
  command (.mmaF64 st n a b z) s

/-- mma.f32 (14 R336). -/
def execMmaF32 (st : Stall) (n : Bank) (a : TReg) (b : BSrc) (z : Bool) (s : State) : Host.Outcome State Fault Refusal :=
  command (.mmaF32 st n a b z) s

/-- mma.bf16 (14 R336). -/
def execMmaBf16 (st : Stall) (n : Bank) (a : TReg) (b : BSrc) (z : Bool) (s : State) : Host.Outcome State Fault Refusal :=
  command (.mmaBf16 st n a b z) s

/-- mma.f16 (14 R336). -/
def execMmaF16 (st : Stall) (n : Bank) (a : TReg) (b : BSrc) (z : Bool) (s : State) : Host.Outcome State Fault Refusal :=
  command (.mmaF16 st n a b z) s

/-- mma.b8 (14 R337). -/
def execMmaB8 (st : Stall) (n : Bank) (a : TReg) (b : BSrc) (z : Bool) (s : State) : Host.Outcome State Fault Refusal :=
  command (.mmaB8 st n a b z) s

/-- mma.mxe4m3 (14 R337). -/
def execMmaMxe4m3 (st : Stall) (n : Bank) (a : TReg) (b : BSrc) (z : Bool) (s : State) : Host.Outcome State Fault Refusal :=
  command (.mmaMxe4m3 st n a b z) s

/-- mma.mxe5m2 (14 R337). -/
def execMmaMxe5m2 (st : Stall) (n : Bank) (a : TReg) (b : BSrc) (z : Bool) (s : State) : Host.Outcome State Fault Refusal :=
  command (.mmaMxe5m2 st n a b z) s

/-- rmma.i8 (14 R341). -/
def execRmmaI8 (st : Stall) (n : Bank) (a : TReg) (b : BSrc) (z : Bool) (s : State) : Host.Outcome State Fault Refusal :=
  command (.rmmaI8 st n a b z) s

/-- rmma.i16 (14 R341). -/
def execRmmaI16 (st : Stall) (n : Bank) (a : TReg) (b : BSrc) (z : Bool) (s : State) : Host.Outcome State Fault Refusal :=
  command (.rmmaI16 st n a b z) s

/-! ### Words: banks (14 R326 to R329) -/

/-- The accumulator banks of a partition's pool on a core. -/
def bankPool (p : PDie) : List Nat := (slotsOf p.smask).flatMap fun k => numsFrom (8 * k) 8

/-- The banks that threads of a core hold. -/
def State.heldBanks (s : State) (core : Nat) : Word :=
  s.threads.foldl (fun a (t, th) => if coreOf t = core then a ||| th.abown else a) 0

/-- The first of the lowest run of `n` free banks of a pool. -/
def freeRun (pool : List Nat) (held : Word) (n : Nat) : Option Nat :=
  pool.find? fun b => (numsFrom b n).all fun i => pool.contains i && !held.getLsbD i

/-- acqa: its tests in order: n, the allowance, the pool (14 R326). -/
def execAcqa (st : Stall) (x : SReg) (s : State) : Host.Outcome State Fault Refusal :=
  issue (.acqa st x) s fun th s =>
    let n := (th.sv x).toNat % 32
    let core := coreOf s.cur
    let lab := th.sl x ||| th.ctxl
    if n = 0 ∨ 16 < n then .done (th.putS x 0xFFFFFFFFFFFFFFFD#64 lab) s
    else if 8 * th.slotsM < popcNat th.abown.toNat 64 + n then .done (th.putS x 0xFFFFFFFFFFFFFFFE#64 lab) s
    else match freeRun (bankPool (s.pdie (dieOf core) th.part)) (s.heldBanks core) n with
      | none => .done (th.putS x 0xFFFFFFFFFFFFFFFF#64 lab) s
      | some b =>
        let th := { th with abown := th.abown ||| maskOf b n }
        .done (th.putS x (BitVec.ofNat 64 b) lab) (s.modCore core fun c => dropBanks c (maskOf b n))

/-- Engine follow-on commands of a thread that name banks of a mask and have not started. -/
def followOns (c : Core) (slot : Nat) (m : Word) : List MxCmd :=
  c.mxQueue.filter fun x => decide (x.slot = slot) && x.eng.isSome && decide (bankMask (touch x.instr).2 &&& m ≠ 0)

/-- ACC.BANK recorded in the completion object of a cancelled follow-on that still runs, with its stop (14 R327, 15 Table 15.1). -/
def State.cancelled (s : State) (l : List MxCmd) : State := l.foldl (fun s c => s.failFollow c .accBank) s

/-- Commands that rela waits for: those that the thread issued, and any that has started. -/
def State.issuedBusy (s : State) (tid : Nat) (m : Word) : Bool :=
  let c := s.core (coreOf tid)
  (s.cmds tid).any fun x => decide (bankMask (touch x.instr).2 &&& m ≠ 0) &&
    (x.eng.isNone || !(c.mxQueue.any fun y => decide (y.serial = x.serial)))

/-- rela (14 R327). -/
def execRela (st : Stall) (x : SReg) (s : State) : Host.Outcome State Fault Refusal :=
  issue (.rela st x) s fun th s =>
    let m := th.sv x
    let th := th.widen (th.sl x)
    let core := coreOf s.cur
    if m &&& ~~~th.abown ≠ 0 then accBank (.rela st x) th s (m &&& ~~~th.abown)
    else if s.issuedBusy s.cur m then parkOn th s (.rela st x) (.issued m)
    else
      let f := followOns (s.core core) (slotOf s.cur) m
      let s := (s.cancelled f).modCore core fun c =>
        { dropBanks c m with mxQueue := c.mxQueue.filter fun y => !f.any fun z => decide (z.serial = y.serial) }
      .done { th with abown := th.abown &&& ~~~m } s

/-- azero (14 R328). -/
def execAzero (st : Stall) (n : Bank) (s : State) : Host.Outcome State Fault Refusal :=
  issue (.azero st n) s fun th s =>
    let i := Instr.azero st n
    match bankFail i th s (coreOf s.cur) n.toNat [0] true with
    | some r => r
    | none =>
      if s.busy s.cur (maskOf n.toNat 1) 0 then parkOn th s i (.banks (maskOf n.toNat 1) 0)
      else .done th (s.modCore (coreOf s.cur) fun c =>
        (dropDue c (slotOf s.cur) s.rot (maskOf n.toNat 1)).setBank n.toNat ⟨0, 0, th.ctxl, false⟩)

/-- A tile format that ardt accepts (14 R329). -/
def ardtTag (g : Tag) : Bool := (tagInt g).isSome || ((tagFmt g).isSome && decide (g ≠ 0x0D) && decide (g ≠ 0x0E))

/-- The first elements of a tile, rows first, in front of what stands behind them. -/
def tileWith (old : TileBits) (w n : Nat) (f : Nat → Nat) : TileBits :=
  BitVec.ofNat 16384 (old.toNat / 2 ^ (w * n) * 2 ^ (w * n) + sumOver (nums n) fun x => f x % 2 ^ w * 2 ^ (w * x))

/-- The readout of a window into a tile: bank `b`, kind `kind`, `k` banks. -/
def ardtRead (th : Thread) (s : State) (core : Nat) (d : TReg) (b kind k : Nat) : Res :=
  let x := th.tsreg d
  let fmt := tsFmt x
  let cols := tsCols x
  let l := (numsFrom b k).map (bankOf (s.core core))
  let lab := labels (l.map (·.lab)) ||| th.ctxl
  let src : Tag := if kind = 1 then 0x09 else 0x0A
  let el (n : Nat) : Nat × Flags :=
    recode src fmt th.rnd n false (if kind = 0 then 0 else accElem kind l (th.accWin.toNat + n / cols) (n % cols))
  let n := tsRows x * cols
  let bits := tileWith (th.treg d).bits (elemBits fmt) n fun i => (el i).1
  let fl : Flags := (nums n).foldl (fun a i => a ||| (el i).2) 0
  .done ((th.putT d bits lab).post fl lab) s

/-- ardt (14 R329). -/
def execArdt (st : Stall) (n : Bank) (d : TReg) (s : State) : Host.Outcome State Fault Refusal :=
  issue (.ardt st n d) s fun th s =>
    let i := Instr.ardt st n d
    let core := coreOf s.cur
    let x := th.tsreg d
    let b := n.toNat
    if unshaped x then fmtShape i th s d
    else if !ardtTag (tsFmt x) then fmtTag i th s ⟨1, d.toNat, tsFmt x, false, 1⟩
    else match bankFail i th s core b [0] true with
    | some r => r
    | none => readout i s.cur th s b 1 (
      let kind := (bankOf (s.core core) b).kind.toNat
      if kind = 0 then ardtRead th s core d b 0 1
      else if kind = 4 then fmtAcc i th s b 4 3
      else if 8 ≤ kind then fmtAcc i th s b kind 0
      else
        let kinds : List Nat := if kind = 3 then [3, 4] else [kind]
        let (c, r) := if kind = 1 then (16, 16) else if kind = 2 then (16, 32) else (32, 32)
        match bankFail i th s core b kinds false with
        | some f => f
        | none => readout i s.cur th s b kinds.length (
          if tsCols x ≠ c ∨ r < th.accWin.toNat + tsRows x then fmtShape i th s d
          else ardtRead th s core d b kind kinds.length))

end Sys2Proof.Machine
end

