-- ==== Sys2Proof/Machine/SysWord.lean ====
section
/-! DEFINITION. The system words: opening the trap window, returning from a trap, saving and restoring, the software trap,
and the page pool (20 R410 to R421; 13 R316 to R319). -/

namespace Sys2Proof.Machine

/-! ### Windows and returns (20 R414, R415, R421) -/

/-- rten (R414). -/
def execRten (st : Stall) (s : State) : Host.Outcome State Fault Refusal :=
  issue (.rten st) s fun th s => .done { th with te := true } s

/-- tret (R415). -/
def execTret (st : Stall) (s : State) : Host.Outcome State Fault Refusal :=
  issue (.tret st) s fun th s =>
    let g := th.tepc
    if goodAddr g 4 then .moved th.trapReturn s
    else .trap th s .jumpTarget g (BitVec.ofNat 64 (b2n (decide (2 ^ 56 ≤ g.toNat)) * 2 + b2n (decide (g.toNat % 4 ≠ 0)))) 0

/-- swtrap (R421): TCAUSE records CTXL before it widens. -/
def execSwtrap (st : Stall) (y : SReg) (s : State) : Host.Outcome State Fault Refusal :=
  issue (.swtrap st y) s fun th s => .trap th s .swTrap (th.sv y) 0 (th.sl y)

/-! ### The save area (20 R416, R417) -/

/-- The local-store offset of a save or restore word. -/
def saveOff (th : Thread) (y : SReg) : Nat := (th.sv y).toNat % 2 ^ 19

/-- Whether an area lies in the partition's save area on a core. -/
def State.inSave (s : State) (core part o size : Nat) : Bool :=
  let d := s.pdie (dieOf core) part
  decide (o % 64 = 0) && decide (saveBase d ≤ o) && decide (o + size ≤ migBase d)

/-- MEM.RESV of a save or restore word. -/
def saveResv (th : Thread) (s : State) (o : Nat) : Res := .trap th s .memResv (BitVec.ofNat 64 o) 0 0

/-- PRIV.OP. -/
def privOp (i : Instr) (th : Thread) (s : State) : Res := .trap th s .privOp (wordOf i) 0 0

/-- MEM.POISON of a restore. -/
def savePoison (th : Thread) (s : State) (o pa : Nat) : Res :=
  .trap th s .memPoison (BitVec.ofNat 64 o) (physInfo .memPoison pa 0) 0

/-- A record written: every poisoned word of it is cleared, and its blocks widen. -/
def State.writeRecord (s : State) (pa : Nat) (l : List Byte) (lab : Label) : State :=
  let s := s.putBytes pa (l.map some)
  let s := { s with poison := s.poison.filter fun c => !(decide (pa / 8 ≤ c.1) && decide (c.1 < (pa + l.length) / 8)) }
  s.widenBlocks pa l.length lab

/-- The labels of the blocks of a range. -/
def State.blocksLabel (s : State) (pa n : Nat) : Label :=
  labels ((numsFrom (pa / 256) ((pa % 256 + n + 255) / 256)).map fun b => s.blockLabel (b * 256))

/-- The label that a save gives its blocks. -/
def saveLabel (th : Thread) : Label := th.ctxl ||| th.tcause.extractLsb' 48 16

/-- A 64-bit word's bytes. -/
def wordBytes (x : Word) : List Byte := toBytes 8 x.toNat
/-- A label's bytes. -/
def labBytes (x : Label) : List Byte := toBytes 2 x.toNat
/-- The word at an offset of a record. -/
def wordAt (l : List Byte) (o : Nat) : Word := BitVec.ofNat 64 (byteField l o 8)
/-- The label at an offset of a record. -/
def labAt (l : List Byte) (o : Nat) : Label := BitVec.ofNat 16 (byteField l o 2)

/-! ### Trap records (20 R416, R418, R419) -/

/-- The trap record of a thread. -/
def trapRecord (th : Thread) : List Byte :=
  wordBytes th.tepc ++ wordBytes th.tcause ++ wordBytes th.tinfo0 ++ wordBytes th.tinfo1 ++ wordBytes th.tsave ++
  toBytes 2 th.tsig.toNat ++ List.replicate 22 0

/-- hsave (R418). -/
def execHsave (st : Stall) (y : SReg) (s : State) : Host.Outcome State Fault Refusal :=
  issue (.hsave st y) s fun th s =>
    let o := saveOff th y
    if th.te then privOp (.hsave st y) th s
    else if !s.inSave (coreOf s.cur) th.part o 64 then saveResv th s o
    else .done th (s.writeRecord (localPa (coreOf s.cur) o) (trapRecord th) (saveLabel th))

/-- TCAUSE without its reserved bits (02 Table 2.6). -/
def keepCause (x : Word) : Word := x &&& 0xFFFF00FF0000FFFF#64

/-- FPC without its reserved bits (02 Table 2.5). -/
def keepFpc (x : Word) : Word := x &&& 0xFFFFFFFFFFFFF3FF#64

/-- A PC: bits [1:0] are always zero (02 Table 2.1). -/
def keepPc (x : Word) : Word := x &&& 0xFFFFFFFFFFFFFFFC#64

/-- The trap registers restored from a record. -/
def restoreTrap (th : Thread) (l : List Byte) (lab : Label) : Thread :=
  { th with
    tepc := wordAt l 0
    tcause := keepCause (wordAt l 8)
    tinfo0 := wordAt l 16
    tinfo1 := wordAt l 24
    tsave := wordAt l 32
    tsig := BitVec.ofNat 16 (byteField l 40 2)
    te := false
    ctxl := th.ctxl ||| lab }

/-- hrest (R419): accepted with TE = 1. It does not change the running flint state (R424). -/
def execHrest (st : Stall) (y : SReg) (s : State) : Host.Outcome State Fault Refusal :=
  issue (.hrest st y) s fun th s =>
    let o := saveOff th y
    let pa := localPa (coreOf s.cur) o
    if !s.inSave (coreOf s.cur) th.part o 64 then saveResv th s o
    else if s.isPoisoned pa 64 then savePoison th s o pa
    else .moved { (restoreTrap th (s.bytes pa 64) (s.blocksLabel pa 64)) with pc := th.pc + 4 } s

/-! ### Context records (20 R420, Table 20.4) -/

/-- Whether a record has the compute layout. -/
def isCompute (th : Thread) : Bool := decide (th.kind = .compute)
/-- The offset of the tail. -/
def tailOff (compute : Bool) : Nat := if compute then 0x4A80 else 0x0280
/-- The bytes of a record without banks. -/
def recordSize (compute : Bool) : Nat := tailOff compute + 1880
/-- The offset of the bank directory. -/
def dirOff (compute : Bool) : Nat := (recordSize compute + 63) / 64 * 64
/-- The bytes of a directory of `n` words. -/
def dirSize (n : Nat) : Nat := (8 * n + 63) / 64 * 64
/-- The bytes of a record with `n` banks. -/
def fullSize (compute : Bool) (n : Nat) : Nat := if n = 0 then recordSize compute else dirOff compute + dirSize n + 2048 * n

/-- KIND. -/
def kindNum : Kind → Nat
  | .control => 0 | .compute => 1 | .migrant => 2

/-- Whether a scalar register is a thread's own: s1 to s24 in a migrant (08 R205). -/
def ownsS (k : Kind) (i : Nat) : Bool := decide (k ≠ .migrant) || decide (i ≤ 24)

/-- Scalars, their labels, vectors and tiles; a migrant's record has s25 to s63 zero (R420). -/
def recordHead (th : Thread) : List Byte :=
  ((nums 64).flatMap fun i => wordBytes (if ownsS th.kind i then th.sv (BitVec.ofNat 6 i) else 0)) ++
  ((nums 64).flatMap fun i => labBytes (if ownsS th.kind i then th.sl (BitVec.ofNat 6 i) else 0)) ++
  (if isCompute th then
    ((nums 32).flatMap fun i => toBytes 64 (th.vreg (BitVec.ofNat 5 i)).bits.toNat) ++
    ((nums 8).flatMap fun i => toBytes 2048 (th.treg (BitVec.ofNat 3 i)).bits.toNat)
  else [])

/-- The fields of vector, mask and tile registers in the tail. -/
def recordVec (th : Thread) : List Byte :=
  if isCompute th then
    ((nums 8).flatMap fun i => toBytes 2 (th.kreg (BitVec.ofNat 3 i)).val.toNat) ++
    ((nums 8).flatMap fun i => labBytes (th.kreg (BitVec.ofNat 3 i)).lab) ++
    ((nums 32).flatMap fun i => toBytes 1 (th.vreg (BitVec.ofNat 5 i)).tag.toNat) ++
    ((nums 32).flatMap fun i => labBytes (th.vreg (BitVec.ofNat 5 i)).lab) ++
    ((nums 8).flatMap fun i => toBytes 1 (tsFmt (th.tsreg (BitVec.ofNat 3 i))).toNat) ++
    ((nums 8).flatMap fun i => labBytes (th.treg (BitVec.ofNat 3 i)).lab) ++
    ((nums 8).flatMap fun i => toBytes 4 (th.tsreg (BitVec.ofNat 3 i)).toNat)
  else List.replicate 184 0

/-- A pending record: TCAUSE, TINFO0, TINFO1. Its TCAUSE keeps the label of the location in [63:48] (log 44). -/
def pendBytes (e : PendEvent) : List Byte :=
  wordBytes (e.lab ++ 0#8 ++ e.cls ++ 0#16 ++ e.code) ++ wordBytes e.i0 ++ wordBytes e.i1

/-- The tail of a thread's record whose PC is `pc`. -/
def recordTail (th : Thread) (tstat pc : Word) : List Byte :=
  wordBytes pc ++ wordBytes tstat ++ wordBytes th.fpc ++ wordBytes th.tepc ++ wordBytes th.tcause ++ wordBytes th.tinfo0 ++
  wordBytes th.tinfo1 ++ wordBytes th.tsave ++
  labBytes th.ctxl ++ toBytes 2 th.tsig.toNat ++ toBytes 2 th.flint.toNat ++ toBytes 1 (kindNum th.kind) ++
  toBytes 1 th.predWord.toNat ++
  ((numsFrom 1 7).flatMap fun i => labBytes (th.preg (BitVec.ofNat 3 i)).lab) ++ [0, 0] ++
  toBytes 8 th.barPend.toNat ++ toBytes 8 th.accWin.toNat ++ toBytes 8 th.depSel.toNat ++
  wordBytes (if isCompute th then th.abown else 0) ++
  recordVec th ++
  toBytes 8 th.pendSet.length ++ th.pendSet.flatMap pendBytes ++ List.replicate (24 * (64 - th.pendSet.length) + 32) 0

/-- The numbers of the banks of a mask, in ascending order. -/
def banksIn (m : Word) : List Nat := (nums 64).filter fun i => m.getLsbD i

/-- The directory and images of held banks. -/
def recordBanks (c : Core) (compute : Bool) (l : List Nat) : List Byte :=
  if l.isEmpty then []
  else
    List.replicate (dirOff compute - recordSize compute) 0 ++
    (l.flatMap fun b => wordBytes (BitVec.ofNat 64 (b + (bankOf c b).kind.toNat * 2 ^ 8 + (bankOf c b).lab.toNat * 2 ^ 16))) ++
    List.replicate (dirSize l.length - 8 * l.length) 0 ++
    (l.flatMap fun b => toBytes 2048 (bankOf c b).bits.toNat)

/-- A thread leaves its slot in a switch (R428, R429; 21 R436). Its record holds its pending set; what is kept gathers the events
delivered to it from now on. -/
def State.vacate (s : State) (tid : Nat) (th : Thread) : State :=
  let core := coreOf tid
  ((s.delThread tid).modPCore core th.part fun p => { p with vacated := p.vacated ++ [(slotOf tid, { th with pendSet := [] })] }).vacantCheck
    core th.part

/-- csave once nothing of the thread is under way. -/
def csaveNow (tid : Nat) (th : Thread) (s : State) (o : Nat) : Res :=
  let core := coreOf tid
  let banks := if isCompute th then banksIn th.abown else []
  if banks.any fun b => (bankOf (s.core core) b).poisoned then .gone ((s.setThread tid th).kill tid 4)
  else
    let l := recordHead th ++ recordTail th (s.tstat tid th) (th.pc + 4) ++ recordBanks (s.core core) (isCompute th) banks
    let s := s.writeRecord (localPa core o) l (saveLabel th)
    if th.handling.isSome then .gone (s.vacate tid th) else .done th s

/-- csave (R420). -/
def execCsave (st : Stall) (y : SReg) (s : State) : Host.Outcome State Fault Refusal :=
  issue (.csave st y) s fun th s =>
    let o := saveOff th y
    let n := if isCompute th then popcNat th.abown.toNat 64 else 0
    if th.te then privOp (.csave st y) th s
    else if !s.inSave (coreOf s.cur) th.part o (fullSize (isCompute th) n) then saveResv th s o
    else if s.openIn s.cur th .sys then parkOn th s (.csave st y) (.scopeClosed .sys)
    else if !th.sched.isEmpty then parkOn th s (.csave st y) (.posted th.schedDue s.serial)
    else if !(s.cmds s.cur).isEmpty then parkOn th s (.csave st y) (.posted th.lastDue s.serial)
    else csaveNow s.cur th.flush s o

/-- A pending set read from a tail. -/
def pendOf (l : List Byte) : List PendEvent :=
  ((nums (min (byteField l 0x130 8) 64)).map fun j =>
    let o := 0x138 + 24 * j
    let c := wordAt l o
    ⟨c.extractLsb' 0 16, c.extractLsb' 32 8, wordAt l (o + 8), wordAt l (o + 16), c.extractLsb' 48 16⟩).filter
      fun (e : PendEvent) => decide (e.cls = 1) || decide (e.cls = 2)

/-- The vector, mask and tile registers restored. -/
def restoreVec (th : Thread) (h t : List Byte) (lab : Label) : Thread :=
  { th with
    v := Vector.ofFn fun i => ⟨BitVec.ofNat 512 (byteField h (0x280 + 64 * i.val) 64), BitVec.ofNat 6 (byteField t (0x98 + i.val) 1),
      labAt t (0xB8 + 2 * i.val) ||| lab⟩
    k := Vector.ofFn fun i => ⟨BitVec.ofNat 16 (byteField t (0x78 + 2 * i.val) 2), labAt t (0x88 + 2 * i.val) ||| lab⟩
    t := Vector.ofFn fun i => ⟨BitVec.ofNat 16384 (byteField h (0xA80 + 2048 * i.val) 2048), labAt t (0x100 + 2 * i.val) ||| lab⟩
    ts := Vector.ofFn fun i => shapeKeep (BitVec.ofNat 32 (byteField t (0x110 + 4 * i.val) 4)) }

/-- The pending set that crest leaves: the record's, then what has been delivered since and stands in no record (R411, R420;
DESIGN CHOICE, log 44). -/
def mergePend (l new : List PendEvent) : List PendEvent := (l ++ new.filter fun e => !l.contains e).take Config.pendingMax

/-- A context restored from the head and the tail of its record; `lab` is the union of the labels of the blocks read. Reserved bits
read as zero; any other value of the record is taken as it stands, an FPC.RM of 5 to 7 and a TSn that breaks R39 or R40 among
them: R42 gives CR.VALUE for writes alone (DESIGN CHOICE, log 79). -/
def restoreContext (th : Thread) (h t : List Byte) (lab : Label) : Thread :=
  let tstat := wordAt t 8
  let fpc := wordAt t 16
  let th := if isCompute th then restoreVec th h t lab else th
  { th with
    s := Vector.ofFn fun i => if 1 ≤ i.val ∧ ownsS th.kind i.val then ⟨wordAt h (8 * i.val), labAt h (0x200 + 2 * i.val) ||| lab⟩
      else ⟨0, 0⟩
    p := Vector.ofFn fun i => if i.val = 0 then ⟨false, 0⟩
      else ⟨bitAt (byteField t 0x47 1) i.val, labAt t (0x46 + 2 * i.val) ||| lab⟩
    pc := keepPc (wordAt t 0)
    sbc := tstat.getLsbD 0
    te := tstat.getLsbD 1
    fpc := keepFpc fpc
    tepc := wordAt t 24
    tcause := keepCause (wordAt t 32)
    tinfo0 := wordAt t 40
    tinfo1 := wordAt t 48
    tsave := wordAt t 56
    ctxl := th.ctxl ||| labAt t 0x40 ||| lab
    tsig := BitVec.ofNat 16 (byteField t 0x42 2)
    flint := BitVec.ofNat 16 (byteField t 0x44 2)
    barPend := BitVec.ofNat 5 (byteField t 0x58 8)
    accWin := BitVec.ofNat 5 (byteField t 0x60 8)
    depSel := BitVec.ofNat 8 (byteField t 0x68 8)
    pendSet := mergePend (pendOf t) th.pendSet
    preempt := false }

/-- A bank's kind and bits as a record gives them. A bank of kind ZERO reads as zeros whatever its image holds; a kind that is never
set is restored as ZERO (14 R324; DESIGN CHOICE, log 79). -/
def bankContents (kind : BitVec 4) (image : TileBits) : BitVec 4 × TileBits :=
  if kind = 0 ∨ (5 ≤ kind.toNat ∧ kind.toNat ≤ 7) ∨ 14 ≤ kind.toNat then (0, 0) else (kind, image)

/-- A bank re-acquired with its directory word and image. -/
def restoreBank (c : Core) (dir : Word) (image : List Byte) (lab : Label) : Core :=
  let (k, x) := bankContents (dir.extractLsb' 8 4) (BitVec.ofNat 16384 (fromBytes image))
  c.setBank (dir.toNat % 64) ⟨x, k, dir.extractLsb' 16 16 ||| lab, false⟩

/-- The banks named that are not free in a thread's pool; its own count as free. -/
def State.bankTaken (s : State) (tid : Nat) (th : Thread) (l : List Nat) : List Nat :=
  let pool := bankPool (s.pdie (dieOf (coreOf tid)) th.part)
  let held := s.heldBanks (coreOf tid) &&& ~~~th.abown
  l.filter fun b => !pool.contains b || held.getLsbD b

/-- A record restored into another slot than its thread's own carries no binding: the slot that the saved thread held
counts as ended (21 R436). -/
def State.slotLeft (s : State) (tid : Nat) (th : Thread) (tstat : Word) : State :=
  let k := fieldAt tstat.toNat 13 3
  if k = slotOf tid then s else s.slotsEnd (coreOf tid) th.part k

/-- crest once its record has been found whole: `dirs` are the directory words. -/
def crestNow (tid : Nat) (th : Thread) (s : State) (o n : Nat) (dirs : List Word) : Res :=
  let core := coreOf tid
  let pa := localPa core o
  let comp := isCompute th
  let lab := s.blocksLabel pa (fullSize comp n)
  let h := s.bytes pa (tailOff comp)
  let t := s.bytes (pa + tailOff comp) 1880
  let names := dirs.map fun d => d.toNat % 64
  let images := pa + dirOff comp + dirSize n
  let th' := { (restoreContext th.flush h t lab) with abown := names.foldl (fun m b => m ||| (1#64 <<< b)) 0 }
  let s := s.modCore core fun c =>
    (dirs.zip (nums n)).foldl (fun c (d, j) => restoreBank c d (s.bytes (images + 2048 * j) 2048) lab) (dropBanks c th.abown)
  .moved th' (s.slotLeft tid th (wordAt t 8))

/-- The checks of crest from its record's kind on. -/
def crestAt (i : Instr) (tid : Nat) (th : Thread) (s : State) (o : Nat) : Res :=
  let pa := localPa (coreOf tid) o
  let comp := isCompute th
  let tail := pa + tailOff comp
  if s.isPoisoned pa (recordSize comp) then savePoison th s o pa
  else if s.num (tail + 0x46) 1 ≠ kindNum th.kind then thrCtx th s i 5
  else
    let n := if comp then popcNat (s.num (tail + 0x70) 8) 64 else 0
    let dirs := (nums n).map fun j => BitVec.ofNat 64 (s.num (pa + dirOff comp + 8 * j) 8)
    let taken := s.bankTaken tid th (dirs.map fun d => d.toNat % 64)
    if !s.inSave (coreOf tid) th.part o (fullSize comp n) then saveResv th s o
    else if s.isPoisoned pa (fullSize comp n) then savePoison th s o pa
    else if !taken.isEmpty then accBank i th s (taken.foldl (fun m b => m ||| (1#64 <<< b)) 0)
    else crestNow tid th s o n dirs

/-- crest (R420): with TE = 1 it takes THR.CTX when its record names another kind of thread, else PRIV.OP (R417). -/
def execCrest (st : Stall) (y : SReg) (s : State) : Host.Outcome State Fault Refusal :=
  issue (.crest st y) s fun th s =>
    let o := saveOff th y
    let found := s.inSave (coreOf s.cur) th.part o (recordSize (isCompute th))
    let kind := s.num (localPa (coreOf s.cur) o + tailOff (isCompute th) + 0x46) 1
    if th.te then
      if found && decide (kind ≠ kindNum th.kind) then thrCtx th s (.crest st y) 5 else privOp (.crest st y) th s
    else if !found then saveResv th s o
    else if !(s.cmds s.cur).isEmpty then parkOn th s (.crest st y) (.posted th.lastDue s.serial)
    else crestAt (.crest st y) s.cur th s o

/-! ### The page pool (13 R316 to R319) -/

/-- POOL.ARG at the issuing core. -/
def poolArgTrap (th : Thread) (s : State) (va : Word) (r : Nat) : Res := .trap th s .poolArg va (BitVec.ofNat 64 r) 0

/-- A leaf whose size is not the pool's page size; under an invalid SZ, one that no pool could have (13 R316 step 3). -/
def wrongSize (p : PDie) (n : Nat) : Bool :=
  match poolSize p with
  | some z => decide (n ≠ z)
  | none => decide (65536 < n)

/-- The checks of pcommit and pfree, then the request to the die's pool unit. -/
def poolWord (i : Instr) (tid : Nat) (th : Thread) (s : State) (y : SReg) (op : PoolOp) : Res :=
  let va := th.sv y
  let d := dieOf (coreOf tid)
  match s.translate (whoIs tid th) va 1 with
  | (s, .error f) => f.trap th s
  | (s, .ok l) =>
    if l.level = 7 then poolArgTrap th s va 1
    else match leafFail (whoIs tid th) 1 va l (s.leafLabel l va) none with
    | some f => f.trap th s
    | none =>
      let n := leafSize l.level (s.num l.entry 16)
      if wrongSize (s.pdie d th.part) n then poolArgTrap th s va 2
      else askUnit i tid th s (.pool d) l.entry va (th.sl y ||| th.ctxl) (.pool op va (decide (n = 65536))) (.pool none va 0)

/-- pcommit (R316). -/
def execPcommit (st : Stall) (y : SReg) (s : State) : Host.Outcome State Fault Refusal :=
  issue (.pcommit st y) s fun th s => poolWord (.pcommit st y) s.cur th s y .commit

/-- pfree (R317). -/
def execPfree (st : Stall) (y : SReg) (s : State) : Host.Outcome State Fault Refusal :=
  issue (.pfree st y) s fun th s => poolWord (.pfree st y) s.cur th s y (.free 0)

/-- palloc (R318). -/
def execPalloc (st : Stall) (x y : SReg) (s : State) : Host.Outcome State Fault Refusal :=
  issue (.palloc st x y) s fun th s =>
    askUnit (.palloc st x y) s.cur th s (.pool (dieOf (coreOf s.cur))) 0 0 (th.sl y ||| th.ctxl)
      (.pool (.alloc ((th.sv y).toNat % 2 ^ 32)) 0 false) (.pool (some x) 0 (th.sl y ||| th.ctxl))

end Sys2Proof.Machine
end

