-- ==== Sys2Proof/Machine/Engine.lean ====
section
/-! DEFINITION. The words of the asynchronous engine: tours, copies, multicasts and their forks, bead slots, byte barriers,
join and poll (15 R355 to R381). -/

namespace Sys2Proof.Machine

/-! ### Traps (15 Table 15.10) -/

/-- ENG.ARG with its reason, and a stop for reasons 4 and 10. -/
def engArg (i : Instr) (th : Thread) (s : State) (r : Nat) (stop : Nat := 0) : Res :=
  .trap th s .engArg (wordOf i) (BitVec.ofNat 64 (stop * 256 + r)) 0

/-- ENG.HANDLE with its reason, and GEN for reason 3. -/
def engHandle (th : Thread) (s : State) (h r : Nat) (gen : Nat := 0) : Res :=
  .trap th s .engHandle (BitVec.ofNat 64 h) (BitVec.ofNat 64 (gen * 2 ^ 16 + r)) 0

/-! ### Completion objects (15 R357, Table 15.1) -/

/-- Causes of R267 that say an address breaks a placement. -/
def misplaced : Cause → Bool
  | .memAlign | .memPa | .memPart | .memResv | .memSumcell | .memWidth | .feSpace => true
  | _ => false

/-- Whether a place is plain memory of the partition's banks. -/
def State.isPlain (s : State) (part : Nat) (p : Place) : Bool :=
  decide (spaceOf p.pa = 1) && decide (areaOf (s.pdie (dieOf (coreOfPa p.pa)) part) (p.pa % 2 ^ 19) = .plain)

/-- What the check of a completion object finds. -/
inductive ObjCheck where
  | ok (s : State) (p : Place)
  | stop (r : Res)

/-- The check of a completion object. -/
def objCheck (i : Instr) (tid : Nat) (th : Thread) (s : State) (va : Word) : ObjCheck :=
  match s.check (whoIs tid th) { kind := 1, size := 64 } va with
  | (s, .error f) => .stop (if misplaced f.cause then engArg i th s 1 else f.trap th s)
  | (s, .ok p) =>
    if !p.here || !s.isPlain th.part p || p.leaf.sc then .stop (engArg i th s 1)
    else if s.isPoisoned p.pa 1 then
      .stop (.trap th s .memPoison va (physInfo .memPoison p.pa 1) (s.blockLabel p.pa))
    else if s.num p.pa 1 = 1 then .stop (.trap th s .engBusy va 0 0)
    else .ok s p

/-- KIND. -/
def engKind : EngKind → Nat
  | .tour => 1 | .copy => 2 | .mcast => 3

/-- The 64 bytes of a completion object with the given state and end time. -/
def objBytes (g : Engine) (state : Nat) (fin : Word) : List Byte :=
  toBytes 1 state ++ toBytes 1 (engKind g.kind) ++ toBytes 2 g.cause.toNat ++ toBytes 2 g.visited.toNat ++
  toBytes 2 g.missed.toNat ++ toBytes 2 g.skipped.toNat ++ toBytes 2 g.revisited.toNat ++ toBytes 2 g.tag.toNat ++
  toBytes 1 g.fstop.toNat ++ toBytes 1 0 ++ toBytes 8 g.bytes ++ toBytes 8 g.faddr.toNat ++ toBytes 8 g.resumeOff ++
  toBytes 8 g.issueQ.toNat ++ toBytes 8 fin.toNat ++ toBytes 8 0

/-- A 64-byte object written at its home, every waiter of it that may go on released (12 R289, 15 R379). -/
def State.writeObject (s : State) (pa : Nat) (l : List Byte) : State :=
  let home := Node.core (coreOfPa pa)
  let m : Msg := {
    src := home, dst := home, pl := .p, owner := .outside, idx := 0, pa := pa, va := 0, part := 0, ctrl := true
    world := true, mlab := 0, mx := false, inbound := false, lv := 0, req := .write (l.map some), others := [] }
  let s := s.putBytes pa (l.map some)
  let s := { s with poison := s.poison.filter fun c => !(decide (pa / 8 ≤ c.1) && decide (c.1 < pa / 8 + 8)) }
  let (s, o) := releaseAll m s.waiters.length s
  s.sendOuts home o

/-! ### Forking (15 R356, 12 R291) -/

/-- Engine commands of a slot that have forked and not finished. -/
def State.engineCount (s : State) (core slot : Nat) : Nat :=
  (s.engines.filter fun (_, (g : Engine)) => decide (g.core = core) && decide (g.slot = slot)).length

/-- The labels of the three operands and CTXL. -/
def engLabel (th : Thread) (x y z : SReg) : Label := th.sl x ||| th.sl y ||| th.sl z ||| th.ctxl

/-- An engine thread as it forks, with nothing of its own kind set. -/
def State.newEngine (s : State) (kind : EngKind) (tid : Nat) (th : Thread) (lab : Label) (p : Place) (offset : Nat) : Engine where
  kind := kind
  tid := tid
  gen := th.gen
  core := coreOf tid
  slot := slotOf tid
  part := th.part
  ctrl := decide (th.kind = .control)
  world := th.world
  launch := th.launch
  lab := lab
  obj := p.pa
  objVa := p.va
  preds := (s.openEntries tid th).map (·.serial)
  predSched := (th.sched.filter fun x => decide (x.acc.outstanding ≠ 0)).map (·.id)
  offset := if s.isTimed tid th then th.timed.map fun g => (g, offset) else none
  todo := []
  outstanding := 0
  ready := []
  bead := []
  blab := lab
  fmt := 0
  tag := 0
  len := 0
  src := 0
  dst := 0
  follow := 0
  dslot := none
  slotReady := false
  written := 0
  stopped := false
  followDone := false
  qmask := 0
  failed := 0
  doff := 0
  boff := none
  stops := []
  todoStops := []
  norev := false
  pos := .none
  clock := 0
  offered := false
  ended := none
  cause := 0
  visited := 0
  missed := 0
  skipped := 0
  revisited := 0
  fstop := 0xFF
  bytes := 0
  faddr := 0
  resumeOff := 0
  issueQ := s.quartz
  cancelled := false

/-- The fork: four commands of the slot at most; the object is written whole in the Issue move, with every field but STATE,
KIND, TAG, ISSUE and FSTOP zero. -/
def forkNow (i : Instr) (tid : Nat) (th : Thread) (s : State) (p : Place) (g : Engine) : Res :=
  if 4 ≤ s.engineCount (coreOf tid) (slotOf tid) then parkOn th s i .engineRoom
  else
    let s := s.setDirty (whoIs tid th) p
    let s := s.writeObject p.pa (objBytes { g with skipped := 0 } 1 0)
    .done th { s with engines := nset s.engines s.serial g }.tick1

/-- A legal follow-on MMA word with STALL 0 (15 R362, R373), rmma words included (DEDUCED, log 6); its B operand is
`slot` when one is given. -/
def legalFollow (w : InstrWord) (slot : Option Nat) : Bool :=
  match decode? w with
  | none => false
  | some i =>
    match mxWord i with
    | none => false
    | some m => decide (stallOf i = 0) && (match slot, m.b with
      | none, _ => true
      | some n, .slot k => decide (k.toNat = n)
      | some _, .tile _ => false)

/-- A command record of one line read in phase 0, to go on in phase 1. -/
def readRecord (i : Instr) (tid : Nat) (th : Thread) (s : State) (y : Word) : Res :=
  if y.toNat % 64 ≠ 0 then engArg i th s 2
  else access1 i tid th s { kind := 0, size := 64 } { ships := false, sched := false } (.resume 1) y fun _ => .read 64

/-- Whether a range of a record is zero. -/
def zeroAt (l : List Byte) (o n : Nat) : Bool := decide (byteField l o n = 0)

/-! ### btour (15 R359 to R362) -/

/-- A tensor descriptor. -/
structure Tensor where
  base : Word
  stride : Nat
  rows : Nat
  cols : Nat
  gen : Nat
  fmt : Tag
  rest : Bool
  v : Bool
  deriving DecidableEq, Repr

/-- A tensor descriptor's bytes taken apart; `rest` when a reserved bit is set or FMT is no tag. -/
def tensorOf (l : List Byte) : Tensor where
  base := wordAt l 0
  stride := byteField l 8 8
  rows := byteField l 0x10 4
  cols := byteField l 0x14 4
  gen := byteField l 0x18 2 % 4096
  fmt := BitVec.ofNat 6 (byteField l 0x1A 1)
  rest := decide (4096 ≤ byteField l 0x18 2) || decide (64 ≤ byteField l 0x1A 1) || decide (2 ≤ byteField l 0x1B 1) || !zeroAt l 0x1C 4
  v := bitAt (byteField l 0x1B 1) 0

/-- The place of entry `k` of a partition's tensor table. -/
def tensPa (p : PPkg) (k : Nat) : Nat := fieldAt p.tensTbl.toNat 6 46 * 64 + 32 * k

/-- The entries of a partition's tensor table. -/
def tensCount (p : PPkg) : Nat := 2 ^ min (p.tensTbl.toNat % 32) 20

/-- A mapping that stands for a physical address. -/
def plainLeaf (pa : Nat) : Leaf where
  base := pa
  size := 1
  size1 := 1
  pa := pa
  w := false
  x := false
  world := false
  cm := true
  sc := false
  mx := false
  rp := none
  lab := 0
  entry := 0
  via := none
  level := 7
  entry2 := none
  pa1 := 0
  pa2 := 0
  w1 := false
  x1 := false
  world1 := false
  d1 := true
  d2 := true

/-- The descriptor read at its home by its physical address. -/
def readTensor (i : Instr) (tid : Nat) (th : Thread) (s : State) (pa : Nat) : Res :=
  let va : Word := BitVec.ofNat 64 pa
  match s.home pa with
  | none => .trap th s .memPa va (physInfo .memPa pa 0) 0
  | some h =>
    if s.homeBusy tid th [h] then parkOn th s i (s.holdOn tid th [h])
    else startPieces i tid th s { sched := false } (.resume 1)
      [(⟨va, va, 0, 32, fun _ => .read 32⟩, ⟨va, pa, plainLeaf pa, h, decide (h = .core (coreOf tid)), false⟩)]

/-- The first failure of a handle (R360), reasons 2 to 4. -/
def handleFail (t : Tensor) (h : Nat) : Option Nat :=
  let e := elemSize t.fmt
  if !t.v then some 2
  else if t.gen ≠ h % 4096 then some 3
  else if t.rest || decide (t.fmt = 0) || !tagAssigned t.fmt || decide (t.base.toNat % e ≠ 0) || decide (t.stride % e ≠ 0) ||
      decide (t.rows = 0) || decide (t.cols = 0) then some 4
  else none

/-- Stop `k` of an itinerary whose stops' bytes are given. -/
def stopOf (l : List Byte) (k : Nat) : Stop where
  follow := BitVec.ofNat 32 (byteField l (16 * k) 4)
  core := byteField l (16 * k + 4) 2
  slot := byteField l (16 * k + 6) 1
  hold := byteField l (16 * k + 8) 4

/-- The reserved bits of a stop. -/
def stopRsv (l : List Byte) (k : Nat) : Bool :=
  decide (2048 ≤ byteField l (16 * k + 4) 2) || decide (16 ≤ byteField l (16 * k + 6) 1) || !zeroAt l (16 * k + 7) 1 || !zeroAt l (16 * k + 12) 4

/-- Whether a stop's slot or core does not exist. -/
def State.badStop (s : State) (bslots : Nat) (x : Stop) : Bool :=
  decide (bslots ≤ x.slot) || decide (s.diesOf ≤ x.core / 1024) || decide (liveN (s.die (x.core / 1024)) ≤ x.core % 1024)

/-- The reserved fields of an itinerary's header. -/
def headRsv (l : List Byte) : Bool := decide (2 ≤ byteField l 1 1) || !zeroAt l 2 2 || !zeroAt l 0x12 46

/-- The geometry of a bead: its first row and column, rows, columns, and element size. -/
structure BeadGeom where
  row : Nat
  col : Nat
  rows : Nat
  cols : Nat
  esize : Nat
  deriving DecidableEq, Repr

/-- The geometry that a header and a descriptor give. -/
def geomOf (l : List Byte) (t : Tensor) : BeadGeom :=
  let r := byteField l 0x10 1
  let c := byteField l 0x11 1
  ⟨byteField l 8 4, byteField l 12 4, if r = 0 then t.rows else r, if c = 0 then t.cols else c, elemSize t.fmt⟩

/-- A tile out of range (R362, reason 5). -/
def geomBad (g : BeadGeom) (t : Tensor) : Bool :=
  decide (64 < g.rows) || decide (64 < g.cols) || decide (g.rows * g.cols = 0) || decide (8192 < g.rows * g.cols * g.esize) ||
  decide (t.rows < g.row + g.rows) || decide (t.cols < g.col + g.cols)

/-- The rows of a tile: offset in the bead, address and bytes of each (R363). -/
def beadRows (g : BeadGeom) (t : Tensor) : List (Nat × Word × Nat) :=
  (nums g.rows).map fun r =>
    (r * g.cols * g.esize, t.base + BitVec.ofNat 64 ((g.row + r) * t.stride + g.col * g.esize), g.cols * g.esize)

/-- btour with everything read: the descriptor (32 bytes), the header (64) and the stops. -/
def tourFork (i : Instr) (tid : Nat) (th : Thread) (s : State) (x y z : SReg) (p : Place) : Res :=
  let l := th.readSoFar
  let t := tensorOf l
  let head := l.drop 32
  let body := l.drop 96
  let n := byteField head 0 1
  let stops := (nums n).map (stopOf body)
  let g := geomOf head t
  let bslots := (s.pdie (dieOf (coreOf tid)) th.part).bslots
  if (nums n).any (stopRsv body) then engArg i th s 2
  else match (nums n).find? fun k => s.badStop bslots (stopOf body k) with
  | some k => engArg i th s 4 k
  | none =>
    if geomBad g t then engArg i th s 5
    else match (nums n).find? fun k => decide ((stopOf body k).follow ≠ 0) && !legalFollow (stopOf body k).follow (some (stopOf body k).slot) with
    | some k => engArg i th s 10 k
    | none =>
      let opt := ((th.chain.bind (·.itin)).getD false) || bitAt (byteField head 1 1) 0
      let e := s.newEngine .tour tid th (engLabel th x y z) p (byteField head 4 4)
      forkNow i tid th s p { e with
        tag := (th.sv z).extractLsb' 32 16
        fmt := t.fmt
        stops := stops
        todoStops := (nums n).map fun k => (k, false)
        norev := opt
        todo := beadRows g t }

/-- btour from the descriptor on: the handle, the record's header, its stops. -/
def tourRead (i : Instr) (tid : Nat) (th : Thread) (s : State) (x y z : SReg) (p : Place) : Res :=
  let h := (th.sv z).toNat % 2 ^ 32
  let l := th.readSoFar
  let t := tensorOf l
  let head := l.drop 32
  let rec_ := th.sv y
  let n := byteField head 0 1
  match handleFail t h with
  | some r => engHandle th s h r (if r = 3 then t.gen else 0)
  | none =>
    if (th.sv z).extractLsb' 48 16 ≠ 0 then engArg i th s 6
    else if rec_.toNat % 64 ≠ 0 then engArg i th s 2
    else if th.phase = 1 then
      access1 i tid th s { kind := 0, size := 64 } { ships := false, sched := false } (.resume 2) rec_ fun _ => .read 64
    else if headRsv head then engArg i th s 2
    else if n = 0 ∨ 16 < n then engArg i th s 3
    else if th.phase = 2 then
      let ps : List Piece := (piecesOf (rec_ + 64) (16 * n)).map fun (o, k) =>
        ⟨rec_ + 64 + BitVec.ofNat 64 o, rec_ + 64 + BitVec.ofNat 64 o, o, k, fun _ => .read k⟩
      access i tid th s { kind := 0, size := 64 } { ships := false, sched := false } (.resume 3) ps
    else tourFork i tid th s x y z p

/-- btour (R361). -/
def execBtour (st : Stall) (x y z : SReg) (s : State) : Host.Outcome State Fault Refusal :=
  issue (.btour st x y z) s fun th s =>
    let i : Instr := .btour st x y z
    match objCheck i s.cur th s (th.sv x) with
    | .stop r => r
    | .ok s p =>
      let h := (th.sv z).toNat % 2 ^ 32
      if th.phase = 0 then
        if tensCount (s.pp th.part) ≤ h / 4096 then engHandle th s h 1
        else readTensor i s.cur th s (tensPa (s.pp th.part) (h / 4096))
      else tourRead i s.cur th s x y z p

/-! ### copy (15 R373, R374) -/

/-- What the destination of a copy is. -/
inductive CopyDst where
  | memory
  | slot (n : Nat)
  | bad

/-- A destination in a reserved area is the first byte of a bead slot of the issuer's core, or is refused. Any other
failure of its translation is recorded after the fork. -/
def copyDst (tid : Nat) (th : Thread) (s : State) (dst : Word) : State × CopyDst :=
  match s.translate (whoIs tid th) dst 1 with
  | (s, .error _) => (s, .memory)
  | (s, .ok l) =>
    let pa := leafPa l dst
    let core := coreOfPa pa
    let d := s.pdie (dieOf core) th.part
    let off := pa % 2 ^ 19
    if (leafFail (whoIs tid th) 1 dst l l.lab (some 0)).isSome || l.rp.isSome || decide (spaceOf pa ≠ 1) || (s.home pa).isNone || !ownsOff d off then
      (s, .memory)
    else match areaOf d off with
      | .plain => (s, .memory)
      | .bead n => (s, if core = coreOf tid ∧ off = slotOff d n then .slot n else .bad)
      | .migrant | .save => (s, .bad)

/-- Whether two ranges of addresses overlap. -/
def overlap (a b : Word) (n : Nat) : Bool := decide (a.toNat < b.toNat + n) && decide (b.toNat < a.toNat + n)

/-- A copy whose record has been read. -/
def copyFork (i : Instr) (tid : Nat) (th : Thread) (s : State) (x y z : SReg) (p : Place) : Res :=
  let l := th.readSoFar
  let dst := wordAt l 0
  let src := wordAt l 8
  let follow : InstrWord := BitVec.ofNat 32 (byteField l 0x10 4)
  let n := (th.sv z).toNat
  let fmt := byteField l 0x1A 1
  let e : Engine := { (s.newEngine .copy tid th (engLabel th x y z) p (byteField l 0x14 4)) with
    tag := BitVec.ofNat 16 (byteField l 0x18 2)
    fmt := BitVec.ofNat 6 fmt
    len := n
    src := src
    dst := dst
    follow := follow
    todo := [(0, src, n)] }
  if !zeroAt l 0x1B 37 then engArg i th s 2
  else if n = 0 ∨ 2 ^ 31 < n then engArg i th s 6
  else if overlap src dst n then engArg i th s 7
  else match copyDst tid th s dst with
  | (s, .bad) => engArg i th s 9
  | (s, .memory) => if follow ≠ 0 && !legalFollow follow none then engArg i th s 10 else forkNow i tid th s p e
  | (s, .slot k) =>
    if 8192 < n ∨ fmt = 0 ∨ 64 ≤ fmt ∨ !tagAssigned (BitVec.ofNat 6 fmt) then engArg i th s 9
    else if follow ≠ 0 && !legalFollow follow (some k) then engArg i th s 10
    else forkNow i tid th s p { e with dslot := some k }

/-- copy. -/
def execCopy (st : Stall) (x y z : SReg) (s : State) : Host.Outcome State Fault Refusal :=
  issue (.copy st x y z) s fun th s =>
    let i : Instr := .copy st x y z
    match objCheck i s.cur th s (th.sv x) with
    | .stop r => r
    | .ok s p => if th.phase = 0 then readRecord i s.cur th s (th.sv y) else copyFork i s.cur th s x y z p

/-! ### mcast (15 R376) -/

/-- The core at receiver position `q` of a core's quad; none when it is fused off. -/
def State.receiver (s : State) (core q : Nat) : Option Nat :=
  let (x, y) := s.xy core
  (logicalOf (s.die (dieOf core)).hmap.toList (x / 2 * 2 + q % 2) (y / 2 * 2 + q / 2)).map fun l => dieOf core * 1024 + l

/-- The receiver positions of a mask. -/
def positions (m : BitVec 4) : List Nat := (nums 4).filter fun q => m.getLsbD q

/-- A local-store range of a partition's banks outside the reserved areas. -/
def plainRange (d : PDie) (o n : Nat) : Bool := decide (lsBase d ≤ o) && decide (o + n ≤ saveBase d)

/-- A multicast whose record has been read. -/
def mcastFork (i : Instr) (tid : Nat) (th : Thread) (s : State) (x y z : SReg) (p : Place) : Res :=
  let l := th.readSoFar
  let core := coreOf tid
  let d := s.pdie (dieOf core) th.part
  let n := (th.sv z).toNat
  let doff := byteField l 8 4
  let boff := byteField l 12 4
  let qmask : BitVec 4 := BitVec.ofNat 4 (byteField l 0x10 1)
  let live := (positions qmask).filter fun q => (s.receiver core q).isSome
  let here : BitVec 4 := BitVec.ofNat 4 (sumOver live fun q => 2 ^ q)
  if decide (16 ≤ byteField l 0x10 1) || !zeroAt l 0x11 3 || !zeroAt l 0x18 40 then engArg i th s 2
  else if n = 0 ∨ 524288 < n then engArg i th s 6
  else if qmask = 0 then engArg i th s 8
  else if doff % 8 ≠ 0 || !plainRange d doff n ||
      (decide (boff ≠ 0xFFFFFFFF) && (decide (boff % 8 ≠ 0) || !plainRange d boff 8)) then engArg i th s 9
  else
    let e := s.newEngine .mcast tid th (engLabel th x y z) p (byteField l 0x14 4)
    forkNow i tid th s p { e with
      len := n
      src := wordAt l 0
      qmask := here
      skipped := (qmask &&& ~~~here).setWidth 16
      doff := doff
      boff := if boff = 0xFFFFFFFF then none else some boff
      todo := [(0, wordAt l 0, n)] }

/-- mcast. -/
def execMcast (st : Stall) (x y z : SReg) (s : State) : Host.Outcome State Fault Refusal :=
  issue (.mcast st x y z) s fun th s =>
    let i : Instr := .mcast st x y z
    match objCheck i s.cur th s (th.sv x) with
    | .stop r => r
    | .ok s p => if th.phase = 0 then readRecord i s.cur th s (th.sv y) else mcastFork i s.cur th s x y z p

/-! ### Bead slots (15 R370 to R372) -/

/-- The bead slot that a register names. -/
def slotNum (th : Thread) (x : SReg) : Nat := (th.sv x).toNat % 16

/-- A bead slot changed. -/
def State.modSlot (s : State) (core part n : Nat) (f : BSlot → BSlot) : State :=
  s.modPCore core part fun p => { p with bslots := vset p.bslots n (f (vget p.bslots n)) }

/-- btag (R370): CTXL widens even when the word traps (R381). -/
def execBtag (st : Stall) (x y : SReg) (s : State) : Host.Outcome State Fault Refusal :=
  issue (.btag st x y) s fun th s =>
    let core := coreOf s.cur
    let n := slotNum th x
    let etag := (th.sv y).setWidth 16
    let th := th.widen (th.sl x ||| th.sl y)
    if !s.hasSlot core th.part n then engArg (.btag st x y) th s 4
    else .done th (s.modSlot core th.part n fun b => { b with
      bound := true
      holder := BitVec.ofNat 3 (slotOf s.cur)
      dead := false
      chk := 0
      etag := etag
      state := if b.state = 4 then 0 else b.state })

/-- The information of a bwait that expires (R371). -/
def bwaitInfo (n : Nat) (b : BSlot) : Word × Word :=
  (BitVec.ofNat 64 (7 + n * 16 + b.state.toNat * 256), BitVec.ofNat 64 (b.tag.toNat * 2 ^ 16 + b.etag.toNat))

/-- bwait by the slot's state. LIM takes E where the word is done or waits; a trap leaves it (R381 over R371; log 38). -/
def bwaitAt (i : Instr) (tid : Nat) (th : Thread) (s : State) (n : Nat) (e : BitVec 6) : Res :=
  let core := coreOf tid
  let b := s.bslot core th.part n
  let pa := s.slotPa core th.part n
  let a : Word := BitVec.ofNat 64 pa
  let lab := s.blockLabel pa
  let t := s.modSlot core th.part n fun b => { b with lim := e }
  let p : Park := ⟨i, .slot n false a, th.firstTry s, e, true, none, none, none, (bwaitInfo n b).1, (bwaitInfo n b).2, lab, 0, []⟩
  if th.again.isNone && !s.entryFree tid th.part then .retry th t p
  else if b.state = 2 then
    if b.tag ≠ b.etag then .trap th s .schedTag a (schedTagInfo n b) lab
    else .done (th.widen lab) (t.modSlot core th.part n fun b => { b with chk := b.chk ||| (1#8 <<< slotOf tid) })
  else if b.state = 4 then .trap th s .schedMissed a (schedStateInfo n b) lab
  else if !s.entryFree tid th.part then .retry th t p
  else .park th t p

/-- bwait (R371). -/
def execBwait (st : Stall) (x : SReg) (e : BitVec 6) (s : State) : Host.Outcome State Fault Refusal :=
  issue (.bwait st x e) s fun th s =>
    let core := coreOf s.cur
    let n := slotNum th x
    if !s.hasSlot core th.part n then engArg (.bwait st x e) th s 4
    else bwaitAt (.bwait st x e) s.cur th s n e

/-- bpass (R372). -/
def execBpass (st : Stall) (x : SReg) (s : State) : Host.Outcome State Fault Refusal :=
  issue (.bpass st x) s fun th s =>
    let core := coreOf s.cur
    let n := slotNum th x
    let here := s.hasSlot core th.part n
    let b := s.bslot core th.part n
    let state := if here then b.state.toNat else 0
    let holder := here && b.bound && decide (b.holder.toNat = slotOf s.cur)
    if state = 2 && holder then
      .done th ((s.endVisit b.eng 0).modSlot core th.part n fun b => { b with state := 0, leaving := true })
    else .trap th s .schedPass (wordOf (.bpass st x)) (BitVec.ofNat 64 (n + state * 16 + b2n (!holder) * 256)) 0

/-! ### Joining (15 R379) -/

/-- join and poll: the object's place is checked after the checks of R267. -/
def objWord (i : Instr) (tid : Nat) (th : Thread) (s : State) (va : Word) (h : How) (wait : Bool) (c : Cont) : Res :=
  let q : Want := { kind := 0, size := 1, word := true }
  match s.check (whoIs tid th) q va with
  | (s, .error f) => f.trap th s
  | (s, .ok p) =>
    if va.toNat % 64 ≠ 0 ∨ spaceOf p.pa ≠ 1 then engArg i th s 1
    else access1 i tid th s q h c va fun _ => .objState wait

/-- join. -/
def execJoin (st : Stall) (x : SReg) (e : BitVec 6) (s : State) : Host.Outcome State Fault Refusal :=
  issue (.join st x e) s fun th s =>
    let a := th.sv x
    objWord (.join st x e) s.cur th s a { carry := th.sl x ||| th.ctxl, wait := some ⟨e, 8, a, false⟩ } true (.waitRead x (th.sl x ||| th.ctxl))

/-- poll. -/
def execPoll (st : Stall) (x y : SReg) (s : State) : Host.Outcome State Fault Refusal :=
  issue (.poll st x y) s fun th s => objWord (.poll st x y) s.cur th s (th.sv y) {} false (.read x (th.sl y ||| th.ctxl))

/-! ### Byte barriers (15 R377, R378) -/

/-- The place of a byte barrier. -/
def barrierWordAt (i : Instr) (tid : Nat) (th : Thread) (s : State) (kind : Nat) (va : Word) (body : State → Res) : Res :=
  match s.check (whoIs tid th) { kind := kind, size := 8 } va with
  | (s, .error f) => if misplaced f.cause then engArg i th s 9 else f.trap th s
  | (s, .ok p) => if p.leaf.rp.isNone && !s.isPlain th.part p then engArg i th s 9 else body s

/-- bbset (R377). -/
def execBbset (st : Stall) (x y : SReg) (s : State) : Host.Outcome State Fault Refusal :=
  issue (.bbset st x y) s fun th s =>
    let lv := storeLv th y x
    barrierWordAt (.bbset st x y) s.cur th s 1 (th.sv x) fun s =>
      access1 (.bbset st x y) s.cur th s { kind := 1, size := 8 } { lv := some lv, carry := lv } .ack (th.sv x)
        fun _ => .bbset ((th.sv y).setWidth 32)

/-- bbwait (R378). -/
def execBbwait (st : Stall) (x : SReg) (e : BitVec 6) (s : State) : Host.Outcome State Fault Refusal :=
  issue (.bbwait st x e) s fun th s =>
    barrierWordAt (.bbwait st x e) s.cur th s 0 (th.sv x) fun s =>
      access1 (.bbwait st x e) s.cur th s { kind := 0, size := 8 } { carry := th.sl x ||| th.ctxl, wait := some ⟨e, 9, 0, false⟩ }
        .ackWait (th.sv x) fun _ => .bbwait

end Sys2Proof.Machine
end

