-- ==== Sys2Proof/Machine/EngineMove.lean ====
section
/-! DEFINITION. The moves of engine threads: pieces, beads on their way and in bead slots, follow-on commands, the end of
a command, and the drain at a context switch (12 R291 to R293; 14 R338; 15 R356 to R376; 20 R428). -/

namespace Sys2Proof.Machine

/-! ### Engine threads -/

/-- An engine thread changed in place. -/
def State.modEngine (s : State) (e : Nat) (f : Engine → Engine) : State :=
  match nget s.engines e with
  | some g => { s with engines := nset s.engines e (f g) }
  | none => s

/-- A failure after which no further piece is sent (15 R363, R373). A multicast still sends the pieces it has read. -/
def Engine.halt (g : Engine) (c : Cause) (va : Word) : Engine :=
  let g := g.fail c va 0xFF
  { g with todo := [], ready := if g.kind = .mcast then g.ready else [] }

/-- For whom an engine makes its accesses: its issuer's partition and world (15 R355, 18 R398). -/
def Engine.who (g : Engine) : Who := ⟨g.core, g.part, g.world, true, false⟩

/-- Whether an engine thread may send: its predecessor set has retired, its start offset has passed, it is not stopped,
and its partition is not frozen (12 R291; 15 R358; 08 R210). -/
def State.engineReady (s : State) (g : Engine) : Bool :=
  !((s.core g.core).journal.any fun j => g.preds.contains j.serial) &&
  (match s.thread? g.tid with
    | some th => decide (th.gen ≠ g.gen) ||
        !(th.sched.any fun x => g.predSched.contains x.id && decide (x.acc.outstanding ≠ 0))
    | none => true) &&
  !(g.predSched.any fun id => s.schedOpen g.tid g.gen id) &&
  g.offset.isNone && !g.stopped && decide ((s.pcore g.core g.part).frozenTo ≤ s.rot)

/-! ### Pieces (12 R292; 15 R363, R373, R376) -/

/-- Which piece a response answers: a read. -/
def readIdx (off : Nat) : Nat := off * 8 + 7

/-- A message of an engine thread. -/
def engineMsg (e : Nat) (g : Engine) (dst : Node) (idx pa : Nat) (va : Word) (l : Leaf) (lv : Label) (req : Req) : Msg where
  src := .core g.core
  dst := dst
  pl := planeOf req
  owner := .engine e
  idx := idx
  pa := pa
  va := va
  part := g.part
  ctrl := g.ctrl
  world := g.world
  mlab := l.lab
  mx := l.mx
  inbound := l.rp.isSome
  lv := lv
  req := req
  others := []

/-- A piece of an engine thread placed in its channel. -/
def State.enginePiece (s : State) (e : Nat) (m : Msg) : State :=
  (s.request m).modEngine e fun g => { g with outstanding := g.outstanding + 1 }

/-- The address that the pieces of a source are aligned to besides their own (15 R373, R376). -/
def Engine.otherEnd (g : Engine) (off : Nat) (a : Word) : Nat :=
  match g.kind with
  | .tour => a.toNat
  | .copy => if g.dslot.isSome then a.toNat else g.dst.toNat + off
  | .mcast => g.doff + off

/-- The next piece of the source read. -/
def State.engineRead (s : State) (e : Nat) (g : Engine) : State :=
  match g.todo with
  | [] => s
  | (off, a, len) :: l =>
    let k := pieceSize a.toNat (g.otherEnd off a) len
    match s.check g.who { kind := 0, size := k } a with
    | (s, .error f) => s.modEngine e fun g => g.halt f.cause f.i0
    | (s, .ok p) =>
      let rest := if k = len then l else (off + k, a + BitVec.ofNat 64 k, len - k) :: l
      (s.modEngine e fun g => { g with todo := rest }).enginePiece e
        (engineMsg e g p.home (readIdx off) p.pa a p.leaf 0 (.read k))

/-- A copy's piece written (15 R373). -/
def State.copyWrite (s : State) (e : Nat) (g : Engine) (l : List Byte) (lab : Label) : State :=
  let va := g.dst + BitVec.ofNat 64 g.written
  let lv := lab ||| g.lab
  match s.check g.who { kind := 1, size := l.length } va with
  | (s, .error f) => s.modEngine e fun g => g.halt f.cause f.i0
  | (s, .ok p) =>
    let s := s.setDirty g.who p
    match s.labelFail g.part lv p with
    | some f => s.modEngine e fun g => g.halt f.cause f.i0
    | none =>
      (s.modEngine e fun g => { g with
        written := g.written + l.length
        ready := g.ready.filter fun x => decide (x.1 ≠ g.written) }).enginePiece e
          (engineMsg e g p.home (8 * g.written) p.pa va p.leaf lv (.write (l.map some)))

/-- A multicast piece sent to every receiver (15 R376). No mapping leads to a receiver, so MX is 0 there. -/
def State.mcastSend (s : State) (e : Nat) (g : Engine) (off : Nat) (l : List Byte) (lab : Label) : State :=
  let send (s : State) (q : Nat) : State :=
    match s.receiver g.core q with
    | none => s
    | some c =>
      let pa := localPa c (g.doff + off)
      s.enginePiece e (engineMsg e g (.core c) (8 * off + q) pa (BitVec.ofNat 64 pa) (plainLeaf pa) (lab ||| g.lab)
        (.mcast l (g.boff.map fun b => localPa c b) q))
  (positions g.qmask).foldl send
    (s.modEngine e fun g => { g with ready := g.ready.filter fun x => decide (x.1 ≠ off) })

/-- An Engine step: a piece that has been read is sent on, else the next is read. -/
def State.engineStep (s : State) (e : Nat) : Option State :=
  match nget s.engines e with
  | none => none
  | some g =>
    if !s.engineReady g then none
    else match g.kind with
    | .copy =>
      match g.ready.find? fun x => decide (x.1 = g.written) with
      | some (_, l, lab) => some (s.copyWrite e g l lab)
      | none => if g.todo.isEmpty then none else some (s.engineRead e g)
    | .mcast =>
      match g.ready with
      | (off, l, lab) :: _ => some (s.mcastSend e g off l lab)
      | [] => if g.todo.isEmpty then none else some (s.engineRead e g)
    | .tour => if g.todo.isEmpty then none else some (s.engineRead e g)

/-- A piece of the source has been read. -/
def Engine.took (g : Engine) (off : Nat) (l : List Byte) (lab : Label) : Engine :=
  let g := { g with bytes := g.bytes + l.length }
  match g.kind, g.dslot with
  | .tour, _ | .copy, some _ => { g with bead := g.bead ++ [⟨off, l, lab, 0⟩], blab := g.blab ||| lab }
  | .copy, none => if g.cause = 0 then { g with ready := g.ready ++ [(off, l, lab)] } else g
  | .mcast, _ => { g with ready := g.ready ++ [(off, l, lab)] }

/-- A tour whose tile has been read whole sends its bead to stop 0 (15 R363). -/
def Engine.launched (g : Engine) : Engine :=
  if g.kind = .tour && g.todo.isEmpty && decide (g.outstanding = 0) && decide (g.cause = 0) && decide (g.pos = .none) then
    { g with pos := .flying }
  else g

/-- A response counted by its engine thread (12 R277). -/
def Engine.count (g : Engine) (idx : Nat) (r : Resp) : Engine :=
  let g := { g with outstanding := g.outstanding - 1 }
  let va := refusedVa r
  (if idx % 8 = 7 then (if r.ok then g.took (idx / 8) r.bytes r.lab else g.halt r.cause va)
  else if r.ok then g
  else match g.kind with
    | .mcast => { (g.fail r.cause va (BitVec.ofNat 8 (idx % 8))) with failed := g.failed ||| (1#4 <<< (idx % 8)) }
    | .copy | .tour => g.halt r.cause va).launched

/-- The stop that a tour's bead is at or goes to: its number, whether it is a revisit, its core and its slot. -/
def Engine.head (g : Engine) : Option (Nat × Bool × Stop) :=
  match g.todoStops with
  | [] => none
  | (i, rev) :: _ => (g.stops[i]?).map fun x => (i, rev, x)

/-- A bead that has just left a core is sent to the core of its next stop, on the B plane (12 Table 12.2). -/
def State.fly (s : State) (e core : Nat) : State :=
  match (nget s.engines e).filter fun g => decide (g.pos = .flying) with
  | none => s
  | some g => match g.head with
    | some (_, _, x) => s.send (.core core) (.core x.core) .b (.bead e)
    | none => s

/-- A response that reaches an engine thread. -/
def State.completeEngine (s : State) (e idx : Nat) (r : Resp) : State :=
  match nget s.engines e with
  | none => s
  | some g =>
    let t := s.modEngine e fun g => g.count idx r
    if g.pos = .none then t.fly e g.core else t

/-! ### Visits (15 R365, R368, R369) -/

/-- A visit ends with an outcome: 0 visited, 1 missed, 2 skipped, 3 missed with no revisit. -/
def Engine.over (g : Engine) (o : Nat) : Engine :=
  match g.todoStops with
  | [] => g
  | (i, rev) :: l =>
    let bit := 1#16 <<< i
    let again := decide (o = 1) && !rev && !g.norev
    { g with
      todoStops := l ++ (if again then [(i, true)] else [])
      pos := .flying
      clock := 0
      offered := false
      ended := none
      visited := if o = 0 then g.visited ||| bit else g.visited
      missed := if o = 1 ∨ o = 3 then g.missed ||| bit else g.missed
      skipped := if o = 2 then g.skipped ||| bit else g.skipped
      revisited := if again then g.revisited ||| bit else g.revisited }

/-- A slot that holds the place of a revisit for a tag becomes LAPSED final. -/
def BSlot.final (b : BSlot) (tag : BitVec 16) : BSlot := if b.state = 3 && b.tag = tag then { b with state := 4 } else b

/-- A visit is skipped, and the bead goes on at once. -/
def State.skipVisit (s : State) (e : Nat) (g : Engine) (rev : Bool) (core n : Nat) : State :=
  let s := if rev then s.modSlot core g.part n fun b => b.final g.tag else s
  (s.modEngine e fun g => g.over 2).fly e core

/-- Whether a bead may land in a slot. -/
def landable (b : BSlot) (rev : Bool) (tag : BitVec 16) : Bool :=
  !b.leaving && (decide (b.state = 0) || decide (b.state = 4) || (decide (b.state = 3) && rev && decide (b.tag = tag)))

/-- Whether another bead that waits at the core for the slot comes before. -/
def State.beadBefore (s : State) (e : Nat) (g : Engine) (core n : Nat) (b : BSlot) : Bool :=
  s.engines.any fun (k, (h : Engine)) =>
    decide (k ≠ e) && decide (h.part = g.part) && decide (h.pos = .waiting) && (match h.head with
      | some (_, rev, x) => decide (x.core = core) && decide (x.slot = n) && landable b rev h.tag &&
          (decide (g.pos = .come) || decide (g.clock < h.clock) || (decide (g.clock = h.clock) && decide (k < e)))
      | none => false)

/-- A bead reaches a core, or waits there: it is skipped, lands, or begins to wait. -/
def State.beadArrival (s : State) (e : Nat) : Option State :=
  match nget s.engines e with
  | none => none
  | some g =>
    match g.head with
    | none => none
    | some (_, rev, x) =>
      let b := s.bslot x.core g.part x.slot
      if g.pos ≠ .come ∧ g.pos ≠ .waiting then none
      else if !s.inService x.core || decide (2 ≤ (s.pcore x.core g.part).phase) || b.dead || decide (g.ended = some 2) then
        some (s.skipVisit e g rev x.core x.slot)
      else if landable b rev g.tag && !s.beadBefore e g x.core x.slot b then
        some ((s.modSlot x.core g.part x.slot fun b => { b with state := 1, tag := g.tag, eng := some e }).modEngine e
          fun g => { g with pos := .landing })
      else if g.pos = .come then some (s.modEngine e fun g => { g with pos := .waiting, clock := 0 })
      else none

/-- The bytes of a bead: its elements, then zeros up to 8,192. -/
def Engine.beadBytes (g : Engine) : List Byte :=
  let l := assemble g.bead
  (l ++ List.replicate (8192 - l.length) 0).take 8192

/-- A bead slot's bytes written, with every block of it at the bead's label. -/
def State.fillSlot (s : State) (core part n : Nat) (l : List Byte) (lab : Label) : State :=
  let pa := s.slotPa core part n
  let s := s.putBytes pa (l.map some)
  let s := { s with poison := s.poison.filter fun c => !(decide (pa / 8 ≤ c.1) && decide (c.1 < pa / 8 + 1024)) }
  (nums 32).foldl (fun s i => s.setBlockLabel (pa + 256 * i) lab) s

/-- Where the bead of an engine stands: the core and slot of a tour's stop, or a copy's slot. -/
def Engine.place (g : Engine) : Option (Nat × Nat) :=
  match g.kind with
  | .tour => stopPlace g
  | .copy => g.dslot.map fun n => (g.core, n)
  | .mcast => none

/-- The last byte of a bead is written: HELD. A slot that has left LANDING meanwhile takes nothing. -/
def State.beadLanded (s : State) (e : Nat) : Option State :=
  match nget s.engines e with
  | none => none
  | some g =>
    match g.place with
    | none => none
    | some (core, n) =>
      let b := s.bslot core g.part n
      if g.pos ≠ .landing ∨ g.ended.isSome then none
      else
        let s := s.modEngine e fun g => { g with pos := .held, written := g.len }
        if b.state = 1 && b.eng = some e && !b.leaving then
          some ((s.fillSlot core g.part n g.beadBytes g.blab).modSlot core g.part n fun b =>
            { b with state := 2, chk := 0, fmt := g.fmt, lab := g.blab })
        else some s

/-- The hold of a visit has run out by `slack` cycles (R365). -/
def State.holdExpiry (s : State) (e slack : Nat) : Option State :=
  match nget s.engines e with
  | none => none
  | some g =>
    match g.head with
    | none => none
    | some (_, rev, x) =>
      if g.kind ≠ .tour ∨ g.ended.isSome ∨ x.hold = 0 ∨ g.clock < x.hold + slack then none
      else if g.pos = .waiting then some ((s.modEngine e fun g => g.over 1).fly e x.core)
      else if g.pos = .landing ∨ g.pos = .held then
        some ((s.modSlot x.core g.part x.slot fun b =>
          { b with state := if rev || g.norev then 4 else 3, leaving := true }).modEngine e fun g => { g with ended := some 1 })
      else none

/-- Whether a queued command of a partition names a bead slot and has not read it (14 R338). -/
def State.slotNamed (s : State) (core part n : Nat) : Bool :=
  (s.core core).mxQueue.any fun c => (s.pdie (dieOf core) part).smask.getLsbD c.slot && (match mxWord c.instr with
    | some w => (match w.b with | .slot k => decide (k.toNat = n) | .tile _ => false)
    | none => false)

/-- A bead departs from its slot (14 R338). A cancelled bead leaves its slot LAPSED final (15 R369). -/
def State.beadDeparture (s : State) (core part n : Nat) : Option State :=
  let b := s.bslot core part n
  if !b.leaving || s.slotNamed core part n then none
  else
    let s := s.modSlot core part n fun b => { b with
      leaving := false
      state := if b.state = 1 ∨ b.state = 2 then 4 else b.state
      eng := if b.state = 3 then b.eng else none }
    some (match b.eng with
      | none => s
      | some e => match (nget s.engines e).bind (·.ended) with
        | some o => (s.modEngine e fun g => g.over o).fly e core
        | none => s)

/-! ### Follow-on commands (15 R367, R375) -/

/-- A follow-on tried as though the thread had issued it: in its queue, or its failed check recorded. A follow-on
stands at no PC of the thread, so the PC that its command reports is a free value (DESIGN CHOICE, log 6). -/
def State.tryFollow (s : State) (e tid : Nat) (th : Thread) (w : InstrWord) (stop : BitVec 8) : State :=
  let th := { th with chain := none }
  let bad (c : Cause) : State := s.modEngine e fun g => g.fail c 0 stop
  match decode? w with
  | none => s
  | some i =>
    match mxWord i with
    | none => s
    | some m =>
      if th.kind = .control then bad .unitAbsent
      else match mxFail i (coreOf tid) th s m none with
      | some (.trap _ _ c _ _ _) => bad c
      | some _ => bad .illegalOp
      | none =>
        if s.slotBad (coreOf tid) th.part m then bad .memPoison
        else { s with freeCtr := s.freeCtr + 1 }.enqueue (coreOf tid)
          { s.mkCmd tid th i m none (some e) with pc := Config.freeWord s.freeCtr, stop := stop }

/-- A slot's matrix queue has room (14 R330). -/
def State.queueRoom (s : State) (tid : Nat) : Bool := decide ((waitingCmds (s.core (coreOf tid)) (slotOf tid)).length < 2)

/-- The holder of a bead slot that runs (R367). -/
def State.holder (s : State) (core part n : Nat) : Option (Nat × Thread) :=
  let b := s.bslot core part n
  let tid := tidOf core b.holder.toNat
  if !b.bound || decide ((s.pcore core part).phase ≠ 0) || !s.queueRoom tid then none
  else (s.thread? tid).bind fun th => if th.preempt then none else some (tid, th)

/-- The follow-on of a held bead is dealt with. -/
def State.followOn (s : State) (e : Nat) : Option State :=
  match nget s.engines e with
  | none => none
  | some g =>
    match g.head with
    | none => none
    | some (i, _, x) =>
      if g.kind ≠ .tour ∨ g.pos ≠ .held ∨ g.ended.isSome ∨ g.offered ∨ x.follow = 0 then none
      else match s.holder x.core g.part x.slot with
      | none => none
      | some (tid, th) =>
        let b := s.bslot x.core g.part x.slot
        let stop := BitVec.ofNat 8 i
        let s := s.modEngine e fun g => { g with offered := true }
        some (if b.tag ≠ b.etag then s.modEngine e fun g => g.fail .schedTag 0 stop else s.tryFollow e tid th x.follow stop)

/-- The bead slot that a follow-on word names. -/
def followSlot (w : InstrWord) : Option Nat :=
  match (decode? w).bind mxWord with
  | some m => (match m.b with | .slot k => some k.toNat | .tile _ => none)
  | none => none

/-- A copy's follow-on as its issuer would issue it: the slot rule after the checks of R335 (R375). -/
def State.copyTry (s : State) (e : Nat) (g : Engine) (th : Thread) : Option State :=
  let told (s : State) : State := s.modEngine e fun g => { g with followDone := true }
  let bad (c : Cause) : State := told (s.modEngine e fun g => g.fail c 0 0xFF)
  let fails : Bool := match (decode? g.follow) with
    | some i => (match mxWord i with
      | some m => (mxFail i g.core { th with chain := none } s m none).isSome || decide (th.kind = .control)
      | none => false)
    | none => false
  match followSlot g.follow with
  | none => some (told (s.tryFollow e g.tid th g.follow 0xFF))
  | some n =>
    let b := s.bslot g.core g.part n
    if fails then some (told (s.tryFollow e g.tid th g.follow 0xFF))
    else if b.state = 2 then
      if !b.chk.getLsbD g.slot && decide (b.tag ≠ b.etag) then some (bad .schedTag)
      else some (told ((s.modSlot g.core g.part n fun b => { b with chk := b.chk ||| (1#8 <<< g.slot) }).tryFollow e g.tid
        th g.follow 0xFF))
    else if b.state = 3 then
      if g.clock = 0 then some (s.modEngine e fun g => { g with clock := max 1 s.cycle })
      else if b.lim.toNat < 63 ∧ g.clock + 2 ^ b.lim.toNat ≤ s.cycle then some (bad .waitExpired)
      else none
    else some (bad (if b.state = 4 then .schedMissed else .schedEmpty))

/-- Whether a copy has written everything, and every write has been acknowledged. -/
def Engine.copied (g : Engine) : Bool :=
  decide (g.kind = .copy) && decide (g.outstanding = 0) && decide (g.written = g.len) && (g.dslot.isNone || decide (g.pos = .held))

/-- A copy's follow-on enters its issuer's queue (R375). -/
def State.copyFollow (s : State) (e : Nat) : Option State :=
  match nget s.engines e with
  | none => none
  | some g =>
    if !g.copied || g.followDone || g.stopped || decide (g.follow = 0) || decide (g.cause ≠ 0) then none
    else if (s.pcore g.core g.part).vacated.any fun x => decide (x.2.gen = g.gen) then none
    else match (s.thread? g.tid).filter fun th => decide (th.gen = g.gen) with
    | none => some (s.modEngine e fun g => { (g.fail .engOrphan 0 0xFF) with followDone := true })
    | some th => if s.queueRoom g.tid then s.copyTry e g th else none

/-- A copy that fills a bead slot proceeds once the slot is EMPTY or LAPSED final (R374). -/
def State.copyFill (s : State) (e : Nat) : Option State :=
  match nget s.engines e with
  | none => none
  | some g =>
    match g.dslot with
    | none => none
    | some n =>
      if !g.todo.isEmpty ∨ g.outstanding ≠ 0 ∨ g.cause ≠ 0 ∨ g.slotReady ∨ g.stopped ∨ g.bytes ≠ g.len ∨
          !landable (s.bslot g.core g.part n) false 0 then none
      else some ((s.modSlot g.core g.part n fun b => { b with state := 1, tag := g.tag, eng := some e }).modEngine e
        fun g => { g with slotReady := true, pos := .landing })

/-! ### Finish (12 R293, 15 R357) -/

/-- Whether an engine thread has come to its end. -/
def Engine.finished (g : Engine) : Bool :=
  decide (g.outstanding = 0) && g.todo.isEmpty && g.ready.isEmpty &&
  (match g.kind with
    | .tour => (decide (g.pos = .none) && decide (g.cause ≠ 0)) || ((decide (g.pos = .flying) || decide (g.pos = .come)) && g.todoStops.isEmpty)
    | .copy => decide (g.cause ≠ 0) || (!g.stopped && g.copied && (decide (g.follow = 0) || g.followDone))
    | .mcast => true)

/-- The slots that still hold the place of a revisit of an ended tour become LAPSED final (15 R365). -/
def State.lapsedFinal (s : State) (e : Nat) (g : Engine) : State :=
  g.stops.foldl (fun s x => s.modSlot x.core g.part x.slot fun b =>
    if b.state = 3 && b.eng = some e then { b with state := 4, eng := none } else b) s

/-- A completion object written whole, its block's label widened, and the engine thread gone. -/
def State.finishEngine (s : State) (e : Nat) : Option State :=
  match nget s.engines e with
  | none => none
  | some g =>
    if !g.finished then none
    else
      let g := if g.kind = .mcast && decide (g.bytes = g.len) then { g with visited := (g.qmask &&& ~~~g.failed).setWidth 16 } else g
      let st := if g.cancelled then 4 else if g.cause ≠ 0 then 3 else 2
      let s := if g.kind = .tour then s.lapsedFinal e g else s
      let s := s.setBlockLabel g.obj (s.blockLabel g.obj ||| g.lab)
      some ({ s with engines := ndel s.engines e }.writeObject g.obj (objBytes g st s.quartz))

/-! ### Start offsets (15 R358) -/

/-- A timed command begins: the core's VCC has reached its offset, or its group has left timed mode. -/
def State.startOffset (s : State) (e : Nat) : Option State :=
  match nget s.engines e with
  | none => none
  | some g =>
    match g.offset with
    | none => none
    | some (k, off) =>
      let passed := match nget s.tgroups k with
        | some x => !x.started || decide (off ≤ (nget x.vcc g.core).getD 0)
        | none => true
      if passed then some (s.modEngine e fun g => { g with offset := none }) else none

/-! ### The drain of a partition (20 R428, 15 R369, R375) -/

/-- A tour cancelled at the drain limit: what it has not reached is missed. -/
def Engine.cancel (g : Engine) : Engine :=
  let g := match g.ended with | some o => g.over o | none => g
  let rest := if g.pos = .waiting then g.todoStops.tail else g.todoStops
  { g with
    cause := causeCode .tourDrain
    missed := rest.foldl (fun a x => a ||| (1#16 <<< x.1)) g.missed
    todo := []
    todoStops := []
    pos := .flying
    cancelled := true }

/-- A cancelled bead's slot: it departs as R338 allows, and becomes LAPSED final then. -/
def State.cancelTour (s : State) (e : Nat) (g : Engine) : State :=
  let s := match g.head with
    | some (_, _, x) =>
      if (decide (g.pos = BeadPos.landing) || decide (g.pos = BeadPos.held)) && g.ended.isNone then
        s.modSlot x.core g.part x.slot fun b => { b with leaving := true, eng := none }
      else s
    | none => s
  s.modEngine e Engine.cancel

/-- The engine threads of a partition that drain on a core. -/
def State.draining (s : State) (core part : Nat) : List (Nat × Engine) :=
  s.engines.filter fun (_, (g : Engine)) => decide (g.core = core) && decide (g.part = part) && !g.ctrl

/-- What the drain limit does to one engine thread. -/
def State.limitEngine (s : State) (x : Nat × Engine) : State :=
  match x.2.kind with
  | .tour => if x.2.cancelled then s else s.cancelTour x.1 x.2
  | .copy => s.modEngine x.1 fun g => { g with stopped := true, todo := [], ready := [] }
  | .mcast => s

/-- Whether the drain limit still has something to do to an engine thread. -/
def limitDue (g : Engine) : Bool :=
  match g.kind with
  | .tour => !g.cancelled && !g.finished
  | .copy => !g.stopped && !g.finished
  | .mcast => false

/-- The drain limit. -/
def State.drainLimit (s : State) (core part : Nat) : Option State :=
  let p := s.pcore core part
  let l := (s.draining core part).filter fun x => limitDue x.2
  if p.phase ≠ 2 ∨ s.cycle < p.phase2At + p.drain.toNat ∨ l.isEmpty then none
  else some (l.foldl State.limitEngine s)

/-- The lowest destination offset that a stopped copy has not written. -/
def Engine.unwritten (g : Engine) : Nat := if g.dslot.isSome then (if g.pos = .held then g.len else 0) else g.written

/-- A stopped copy with nothing under way. -/
def Engine.rests (g : Engine) : Bool :=
  g.stopped && decide (g.outstanding = 0) && decide (g.pos ≠ .landing) && decide (g.cause = 0)

/-- A stopped copy's RESUME, in the engine and in its completion object. -/
def State.noteResume (s : State) (x : Nat × Engine) : State :=
  (s.modEngine x.1 fun g => { g with resumeOff := g.unwritten }).putNum (x.2.obj + 0x20) 8 x.2.unwritten

/-- No drained command runs on the core: PHASE 3. -/
def State.switchedOut (s : State) (core part : Nat) : Option State :=
  let l := s.draining core part
  if (s.pcore core part).phase ≠ 2 ∨ l.any (fun x => !Engine.rests x.2) then none
  else some ((l.foldl State.noteResume s).modPCore core part fun p => { p with phase := 3 })

end Sys2Proof.Machine
end

