-- ==== Sys2Proof/Machine/Residue.lean ====
section
/-! DEFINITION. The residue words (14 R349 to R353). -/

namespace Sys2Proof.Machine

/-- The kinds of the six banks of a residue accumulator. -/
def rnsKinds : List Nat := [8, 9, 10, 11, 12, 13]

/-- UNIT.DOWN, when residue instructions are unavailable (14 R347). -/
def unitDown (i : Instr) (th : Thread) (s : State) (core : Nat) (body : Res) : Res :=
  if (s.core core).rodOff then .trap th s .unitDown (wordOf i) (s.rodFailReg core) 0 else body

/-- The checks of a window: the tile's shape and tag (14 R349, R350). -/
def rnsWindow (i : Instr) (th : Thread) (s : State) (d : TReg) (ok : Tag → Bool) (req : Nat) (body : Res) : Res :=
  let x := th.tsreg d
  if unshaped x then fmtShape i th s d
  else if !ok (tsFmt x) then fmtTag i th s ⟨1, d.toNat, tsFmt x, false, req⟩
  else if tsCols x ≠ 32 ∨ 32 < th.accWin.toNat + tsRows x then fmtShape i th s d
  else body

/-- The banks of a residue accumulator, once its commands are done and its kinds are right. -/
def rnsBanks (i : Instr) (tid : Nat) (th : Thread) (s : State) (b : Nat) (body : List BankVal → Res) : Res :=
  if s.busy tid (maskOf b 6) 0 then parkOn th s i (.banks (maskOf b 6) 0)
  else match bankFail i th s (coreOf tid) b rnsKinds false with
    | some r => r
    | none => readout i tid th s b 6 (body ((numsFrom b 6).map (bankOf (s.core (coreOf tid)))))

/-- The residues of element `n` of an accumulator. -/
def rnsAt (l : List BankVal) (n : Nat) : List Nat := l.map fun b => b.bits.toNat / 2 ^ (16 * n) % 65536

/-- A bank of residues with the elements of a window replaced. -/
def rnsPut (b : BankVal) (r first n : Nat) (f : Nat → Nat) (lab : Label) : BankVal :=
  let old (x : Nat) : Nat := b.bits.toNat / 2 ^ (16 * x) % 65536
  let el (x : Nat) : Nat := if first ≤ x ∧ x < first + n then f (x - first) % 65536 else old x
  ⟨BitVec.ofNat 16384 (sumOver (nums 1024) fun x => el x * 2 ^ (16 * x)), BitVec.ofNat 4 (8 + r), b.lab ||| lab, b.poisoned⟩

/-- Element `n` of an integer tile. -/
def tileInt (th : Thread) (d : TReg) (n : Nat) : Int :=
  let (sg, w) := (tagInt (tsFmt (th.tsreg d))).getD (true, 8)
  intOf sg w ((th.treg d).bits.toNat / 2 ^ (w * n) % 2 ^ w)

/-- rfwd (14 R349). -/
def execRfwd (st : Stall) (n : Bank) (d : TReg) (s : State) : Host.Outcome State Fault Refusal :=
  issue (.rfwd st n d) s fun th s =>
    let i := Instr.rfwd st n d
    let core := coreOf s.cur
    unitDown i th s core (rnsWindow i th s d (fun g => (tagInt g).isSome) 1 (rnsBanks i s.cur th s n.toNat fun l =>
      let first := 32 * th.accWin.toNat
      let cnt := 32 * tsRows (th.tsreg d)
      let out := (nums cnt).find? fun x => !inRange (tileInt th d x)
      let val (x : Nat) : Int := let v := tileInt th d x; if inRange v then v else rnsSat v
      let lab := (th.treg d).lab ||| th.ctxl
      match (if th.ovt then out else none) with
      | some x => .trap th s .rnsOvf (wordOf i) (BitVec.ofNat 64 (first + x)) 0
      | none =>
        let s := s.modCore core fun c => (nums 6).foldl (fun c r =>
          (dropDue c (slotOf s.cur) s.rot (maskOf (n.toNat + r) 1)).setBank (n.toNat + r) (rnsPut (l.getD r BankVal.zero) r first cnt (fun x => (val x % (rodMod r : Int)).toNat) lab)) c
        .done (if out.isSome then th.postRnsf lab else th) s))

/-- A checked readout of elements (14 R343 to R345): its outcome; the rod event as a precise trap when FPC.RMT is 1, else
RNSF. The retry reads the banks again. -/
def rnsChecked (i : Instr) (core : Nat) (th : Thread) (s : State) (l : List BankVal) (ids : List Nat)
    (body : RodOut → Thread → State → Res) : Res :=
  let live := liveRods (s.core core).rodFail
  let c := ids.map fun n => checkRods live (rnsAt l n)
  let o := decideRods c c
  let lab := labels (l.map (·.lab)) ||| th.ctxl
  let count (s : State) : State := s.modPCore core th.part fun p => { p with
    rnsTrans := if o.kind = .transient then p.rnsTrans + 1 else p.rnsTrans
    ambUnst := if o.kind = .unstable then p.ambUnst + 1 else p.ambUnst
    ambUnloc := p.ambUnloc + BitVec.ofNat 16 (unlocs o) }
  let info := rodInfo o (ids.getD o.first 0)
  match o.kind with
  | .mark r =>
    let s := s.modCore core fun c => markRods c (1#6 <<< r)
    if th.rmt then .trap (th.widen lab) s .rodLocated (wordOf i) info 0 else body o (th.postRnsf lab) s
  | .unstable =>
    if th.rmt then .trap th s .rodUnstable (wordOf i) info 0 else .done (th.postRnsf lab) (count s)
  | .transient => body o (th.widen lab) (count s)
  | .clean => body o (if 0 < unlocs o then th.widen lab else th) (count s)

/-- rrev into an integer type of `w` bits (14 R350). -/
def rrev (i : Instr) (w : Nat) (tag : Tag) (n : Bank) (d : TReg) (s : State) : Host.Outcome State Fault Refusal :=
  issue i s fun th s =>
    let core := coreOf s.cur
    unitDown i th s core (rnsWindow i th s d (oneTag tag) tag.toNat (rnsBanks i s.cur th s n.toNat fun l =>
      let first := 32 * th.accWin.toNat
      let cnt := 32 * tsRows (th.tsreg d)
      let lab := labels (l.map (·.lab)) ||| th.ctxl
      let ovt := th.ovt
      let th₀ := th
      rnsChecked i core th s l (numsFrom first cnt) fun o th s' =>
        let val (c : Chk) : Int := if c.overflow then rnsSat c.val else c.val
        let sat (y : Int) : Int := satInt y (intLo true w) (intHi true w)
        match (if ovt then o.fin.findIdx? Chk.overflow else none) with
        | some x => .trap (match o.kind with | .mark _ => th₀.widen lab | _ => th₀)
            (match o.kind with | .mark _ => s' | _ => s) .rnsOvf (wordOf i) (BitVec.ofNat 64 (first + x)) 0
        | none =>
          let bits := tileWith (th.treg d).bits w cnt fun x => intBits w (sat (val (o.fin.getD x (.ok 0))))
          let rnsf := o.fin.any fun c => c.overflow || decide (sat (val c) ≠ val c)
          let th := th.putT d bits lab
          .done (if rnsf then th.postRnsf lab else th) s'))

/-- rrev.i64 (14 R350). -/
def execRrevI64 (st : Stall) (n : Bank) (d : TReg) (s : State) : Host.Outcome State Fault Refusal :=
  rrev (.rrevI64 st n d) 64 0x04 n d s

/-- rrev.i32 (14 R350). -/
def execRrevI32 (st : Stall) (n : Bank) (d : TReg) (s : State) : Host.Outcome State Fault Refusal :=
  rrev (.rrevI32 st n d) 32 0x03 n d s

/-- rchk (14 R351). -/
def execRchk (st : Stall) (n : Bank) (x : SReg) (s : State) : Host.Outcome State Fault Refusal :=
  issue (.rchk st n x) s fun th s =>
    let i := Instr.rchk st n x
    let core := coreOf s.cur
    unitDown i th s core (rnsBanks i s.cur th s n.toNat fun l =>
      let lab := labels (l.map (·.lab)) ||| th.ctxl
      let before := (nums 1024).map fun n => checkRods (liveRods (s.core core).rodFail) (rnsAt l n)
      rnsChecked i core th s l (nums 1024) fun o th s =>
        let ovf := (o.fin.filter Chk.overflow).length
        let healed := ((before.zip o.fin).filter fun (a, b) => a.bad && (match b with | .ok _ => true | _ => false)).length
        let rod := match o.kind with | .mark r => r | _ => 7
        .done (th.putS x (BitVec.ofNat 64 (rod * 2 ^ 32 + healed * 2 ^ 16 + ovf)) lab) s)

/-- rodrd (14 R352). -/
def execRodrd (st : Stall) (x : SReg) (s : State) : Host.Outcome State Fault Refusal :=
  issue (.rodrd st x) s fun th s =>
    let c := s.core (coreOf s.cur)
    let v := b2n c.rodOff * 2 ^ 7 + b2n (decide (c.rodFail = 0)) * 2 ^ 6 + (~~~c.rodFail).toNat
    .done (th.putS x (BitVec.ofNat 64 v) th.ctxl) s

/-- The phase in which roddeg marks its rods. -/
def degPhase : Nat := 1

/-- roddeg: it waits until every command that started before it has completed (14 R353). -/
def execRoddeg (st : Stall) (x : SReg) (s : State) : Host.Outcome State Fault Refusal :=
  issue (.roddeg st x) s fun th s =>
    let i := Instr.roddeg st x
    let core := coreOf s.cur
    if th.kind ≠ .control || !th.world then .trap th s .privOp (wordOf i) 0 0
    else match (if th.phase = degPhase then none else (s.core core).mxRun) with
      | some r => .park th s ⟨i, .unitIdle r.cmd.serial, th.firstTry s, 63, false, none, none, none, 0, 0, 0, degPhase, []⟩
      | none => .done (th.widen (th.sl x)) (s.modCore core fun c => markRods c ((th.sv x).setWidth 6))

end Sys2Proof.Machine
end

