-- ==== Sys2Proof/Machine/ThreadMove.lean ====
section
/-! DEFINITION. The moves of threads: results written, parks that end, limits that are reached, events that are taken,
engine words that fork, migrants that ship and become resident (02 R45, R46, R51; 03 R59; 08 R183, R206, R207, R211;
09 R217, R234; 12 R294; 13 R308; 20 R411). -/

namespace Sys2Proof.Machine

/-- A move: where it may not be taken, nothing changes. -/
def move (s : State) (o : Option State) : Host.Outcome State Fault Refusal := .next (o.getD s)

/-! ### Turns (02 R44, R45; 08 R178, R179, R210, R212) -/

/-- Whether a timed group is paused in a rotation. -/
def TGroup.pausedIn (g : TGroup) (rot : Nat) : Bool :=
  match g.pausedFrom with
  | some n => decide (n ≤ rot) && (match g.resumeAt with | some r => decide (rot < r) | none => true)
  | none => false

/-- Whether a thread's turns in a rotation are bubbles: its partition is frozen, or its group is paused. -/
def State.heldIn (s : State) (rot : Nat) (x : Nat × Thread) : Bool :=
  decide (rot < (s.pcore (coreOf x.1) x.2.part).frozenTo) ||
  (match x.2.timed.bind (nget s.tgroups ·) with | some g => g.started && g.pausedIn rot | none => false)

/-- Whether a thread has a turn in this cycle that no freeze, pause or throttle takes away. Until a start is ready, and in minimal
mode, every core is held in reset (23 R453, R458). -/
def State.atTurn (s : State) (x : Nat × Thread) : Bool :=
  (s.turns x.1).contains (s.cycle % 8) && !s.throttled && !s.heldIn s.rot x && s.inService (coreOf x.1) && decide (s.bootMode = 1)

/-- Whether a thread may act in this cycle: it has a turn, and no stall count is running. -/
def State.mayAct (s : State) (x : Nat × Thread) : Bool := s.atTurn x && decide (x.2.nextRot ≤ s.rot)

/-! ### Results (02 R46; 04 R95; 06 R156; 08 R211) -/

/-- A thread whose word has ended while it was parked: it retires, and the next word's rotation is counted from here. -/
def State.wakeWith (s : State) (tid : Nat) (th : Thread) (i : Instr) : State :=
  s.setThread tid { th.retire i with nextRot := s.afterWake tid th i }

/-- The rotation in which a handler that is entered now issues its first word. -/
def State.entryRot (s : State) (tid : Nat) (th : Thread) : Nat := max (s.ownRot tid) th.nextRot

/-- A scheduled access that is complete and due (R211); in a thread that has left timed mode, complete. -/
def State.schedReady (s : State) (tid : Nat) (th : Thread) (x : Sched) : Bool :=
  decide (x.acc.outstanding = 0) && (decide (x.due ≤ s.rot) || !s.isTimed tid th)

/-- An event whose entry still waits goes back to the pending set when an earlier word of the thread traps first (20 R408,
R411). -/
def Thread.putBack (th : Thread) : Thread :=
  match th.park with
  | some ⟨_, .trapEntry code cls i0 i1 lab _, _, _, _, _, _, _, _, _, _, _, _⟩ =>
    { th with
      park := none
      pendSet := if cls = 1 ∨ cls = 2 then ⟨code, cls, i0, i1, lab⟩ :: th.pendSet else th.pendSet
      handling := if th.handling = some 0 then none else th.handling }
  | _ => { th with park := none }

/-- Whether later words have taken every register that a scheduled access was to write (02 R49). -/
def Sched.lost (x : Sched) : Bool := !x.dests.isEmpty && x.dests.all fun d => decide (d = .none)

/-- A scheduled access writes its result, or only what it does besides when later words have taken its register (02 R49); a
refused one takes its trap, with TEPC at its own word or the first prefix of its chain (13 R301, 20 R408). -/
def State.schedWrite (s : State) (tid : Nat) (th : Thread) (x : Sched) : State :=
  let th := { th with sched := th.sched.filter fun y => decide (y.id ≠ x.id) }
  match x.acc.refused with
  | some (c, i0, i1, lab) => s.takeTrap tid th.putBack (causeCode c) 0 i0 i1 lab x.tpc (s.entryRot tid th)
  | none =>
    let fl : Flags := x.acc.got.foldl (fun a g => a ||| g.flags) 0
    let th' := x.acc.cont.apply th (assemble x.acc.got) (labels (x.acc.got.map (·.lab))) fl
    s.setThread tid (if x.lost then { th with fpc := th'.fpc, ctxl := th'.ctxl } else th')

/-- Pending results that are due are written. -/
def State.resultWrite (s : State) (tid : Nat) : Option State :=
  match s.thread? tid with
  | none => none
  | some th =>
    match th.sched.find? fun x => s.schedReady tid th x with
    | some x => some (s.schedWrite tid th x)
    | none => if th.pend.any fun w => decide (w.due ≤ s.rot) then some (s.setThread tid (th.settle s.rot)) else none

/-- RESULT_WRITE. -/
def execResultWrite (tid : Nat) (s : State) : Host.Outcome State Fault Refusal := move s (s.resultWrite tid)

/-- Whether a slow result may be written: when it is due, or earlier in an untimed thread. -/
def State.slowReady (s : State) (tid : Nat) (th : Thread) (first due : Nat) : Bool :=
  decide (due ≤ s.cycle) || (!s.isTimed tid th && decide (first ≤ s.cycle))

/-- A divide's or remainder's result written. -/
def State.divideResult (s : State) (tid : Nat) : Option State :=
  match s.thread? tid with
  | none => none
  | some th =>
    match th.park with
    | some ⟨i, .divide issued due d x, _, _, _, _, _, _, _, _, _, _, _⟩ =>
      if s.slowReady tid th (issued + Config.divMin) due then some (s.wakeWith tid (th.putS d x.val x.lab) i) else none
    | _ => none

/-- DIVIDE_RESULT. -/
def execDivideResult (tid : Nat) (s : State) : Host.Outcome State Fault Refusal := move s (s.divideResult tid)

/-- vdiv's or vsqrt's result written, or FP.EXC taken: that at the thread's own turn alone (06 R156). -/
def State.vectorDivideResult (s : State) (tid : Nat) : Option State :=
  match s.thread? tid with
  | none => none
  | some th =>
    match th.park with
    | some ⟨i, .vdivide issued due d x fl exc, _, _, _, _, _, _, _, _, _, _, _⟩ =>
      if s.slowReady tid th (issued + Config.vdivMin) due then
        match exc with
        | some (m, l) =>
          if s.mayAct (tid, th) then some (s.preciseTrap tid { th with park := none } .fpExc m l 0 (s.rot + 1)) else none
        | none => some (s.wakeWith tid ((th.putV d x.bits x.tag x.lab).post fl x.lab) i)
      else none
    | _ => none

/-- VECTOR_DIVIDE_RESULT. -/
def execVectorDivideResult (tid : Nat) (s : State) : Host.Outcome State Fault Refusal := move s (s.vectorDivideResult tid)

/-! ### Parks that end (02 R45; 03 R59) -/

/-- The command that roddeg waits for has ended (14 R353). -/
def State.unitPast (s : State) (core serial : Nat) : Bool :=
  match (s.core core).mxRun with
  | some r => decide (r.cmd.serial ≠ serial)
  | none => true

/-- The clock that waitq waits on, at the first cycle of the rotation (09 R235). -/
def State.rotClock (s : State) (tid : Nat) (th : Thread) (vcc : Bool) : Nat :=
  if vcc then s.vcc (coreOf tid) th - s.cycle % 8 else s.rotQuartz.toNat

/-- Whether what a park waits for holds. -/
def State.waitOver (s : State) (tid : Nat) (th : Thread) (p : Park) : Bool :=
  match p.cond with
  | .access | .divide _ _ _ _ | .vdivide _ _ _ _ _ _ | .tgstart _ | .engineRoom | .ship _ _ _ | .trapEntry _ _ _ _ _ _ => false
  | .barrier k => s.phaseOver k tid
  | .clock vcc target => decide (target ≤ s.rotClock tid th vcc)
  | .slot n read _ =>
    let b := s.bslot (coreOf tid) th.part n
    if read then decide (b.state ≠ 1) && decide (b.state ≠ 3) else decide (b.state = 2) || decide (b.state = 4)
  | .journalFree => (s.freeEntry? tid th).isSome
  | .homesClosed l | .held l => !s.homeBusy tid th l
  | .scopeClosed c => !s.openIn tid th c
  | .posted due bound => decide (due ≤ s.rot) && !((s.cmds tid).any fun c => decide (c.serial < bound))
  | .banks mask tiles => !((s.cmds tid).filter fun c => c.due.isNone).any (cmdMeets mask tiles)
  | .issued mask => !s.issuedBusy tid mask
  | .queueRoom => s.queueRoom tid
  | .time due => decide (due ≤ s.cycle)
  | .unitIdle k => s.unitPast (coreOf tid) k

/-- A park whose end is its word's own completion, or a trap's entry, or that only holds back the access of a word that has issued:
no event comes between (20 R410, R411; 12 R296). -/
def Park.firm (p : Park) : Bool :=
  match p.cond with
  | .barrier _ | .clock _ _ | .slot _ false _ | .tgstart _ | .held _ | .trapEntry _ _ _ _ _ _ => true
  | _ => false

/-- A park's word goes on. -/
def Park.goOn (p : Park) (th : Thread) : Thread :=
  { th with park := none, again := some ⟨p.instr, p.first, p.phase, p.data, p.lab, p.firm⟩ }

/-- A park that ends: the word goes on at the thread's turn, or the handler that waited is entered. -/
def State.parkWake (s : State) (tid : Nat) : Option State :=
  match s.thread? tid with
  | none => none
  | some th =>
    match th.park with
    | none => none
    | some p =>
      match p.cond with
      | .trapEntry code cls i0 i1 lab pc =>
        if (s.cmds tid).isEmpty && th.sched.isEmpty then
          some (s.enterTrap tid { th with park := none } code cls i0 i1 lab pc (s.entryRot tid th))
        else none
      | _ => if s.waitOver tid th p then some (s.setThread tid (p.goOn th)) else none

/-- A park that ends before any event is taken. -/
def State.firmWake (s : State) (tid : Nat) : Option State :=
  match (s.thread? tid).bind (·.park) with
  | some p => if p.firm then s.parkWake tid else none
  | none => none

/-- PARK_WAKE. -/
def execParkWake (tid : Nat) (s : State) : Host.Outcome State Fault Refusal := move s (s.parkWake tid)

/-! ### Limits (02 R51, 08 R183, 09 R217, R234, 13 R307, 15 R366 to R379) -/

/-- The limit of a wait, counted from its first attempt, has passed: what comes true in the cycle in which it is reached still
ends the wait (02 R51, 09 R217). -/
def State.limitUp (s : State) (p : Park) : Bool := decide (p.lim.toNat < 63) && decide (p.first + 2 ^ p.lim.toNat < s.cycle)

/-- The kind of WAIT.EXPIRED. -/
def Park.kind (p : Park) : Nat := p.i0.toNat % 16

/-- The information of a wait that expires, as the core knows it, and the label of the location waited on. -/
def State.expiryOf (s : State) (tid : Nat) (th : Thread) (p : Park) : Word × Word × Label :=
  match p.cond with
  | .barrier k =>
    let m := s.members k
    (p.i0, BitVec.ofNat 64 (m * 2 ^ 32 + (m - s.waitedFor k)), 0)
  | .slot n read _ =>
    let lab := s.blockLabel (s.slotPa (coreOf tid) th.part n)
    if read then (p.i0, p.i1, p.lab) else
      let (a, b) := bwaitInfo n (s.bslot (coreOf tid) th.part n)
      (a, b, lab)
  | _ => (p.i0, p.i1, p.lab)

/-- WAIT.EXPIRED taken by a thread whose wait is over; its entry widens CTXL by the label of the location waited on (18 R393, 20
R410). -/
def State.expire (s : State) (tid : Nat) (th : Thread) (i0 i1 : Word) (lab : Label) : State :=
  s.preciseTrap tid { th with park := none, again := none, retry := none } .waitExpired i0 i1 lab (s.entryRot tid th)

/-- The waiting request of a thread. -/
def State.waiterOf (s : State) (tid gen : Nat) : Option Msg :=
  s.waiters.find? fun m => isOwner tid gen m.owner && !(match m.req with | .pool _ _ _ => true | _ => false)

/-- The expiry of a wait at a home. One that a home decides by order of arrival sends a withdrawal when it is remote; the
others end when their waiter still stands at the home. -/
def State.expireAccess (s : State) (tid : Nat) (th : Thread) (p : Park) : Option State :=
  let here := match p.at_ with | some (home, _, _) => decide (home = .core (coreOf tid)) | none => true
  if p.wd.isSome then none
  else if !here then
    match p.at_ with
    | none => none
    | some (home, pl, pa) =>
      some ((s.send (.core (coreOf tid)) home pl (.withdraw (.thread tid th.gen) pa)).setThread tid
        { th with park := some { p with wd := some true } })
  else match s.waiterOf tid th.gen with
  | none => none
  | some m =>
    let lab := s.labelAt m.pa m.mlab
    let (i0, i1) := if p.at_.isSome then expiryInfo p (withdrawnInfo s m)
      else if p.kind = 9 then (p.i0, BitVec.ofNat 64 (s.num m.pa 8)) else (p.i0, p.i1)
    some ((s.dropWaiter tid th.gen).expire tid th i0 i1 lab)

/-- A word that expires while it retries: what its home would have reported is a free value. -/
def State.expireRetry (s : State) (tid : Nat) (th : Thread) (p : Park) : State :=
  let (i0, i1, lab) := s.expiryOf tid th p
  let x := Config.freeWord s.freeCtr
  let k := p.kind
  let i0 := if k = 6 then i0 ||| (if x.getLsbD 0 then 64 else 0) else i0
  let i1 := if k = 2 ∨ k = 3 ∨ k = 9 then x else i1
  { s with freeCtr := s.freeCtr + 1 }.expire tid th i0 i1 lab

/-- A wait whose limit is reached while its condition does not hold. -/
def State.waitExpired (s : State) (tid : Nat) : Option State :=
  match s.thread? tid with
  | none => none
  | some th =>
    match th.park, th.retry with
    | some p, _ =>
      if !p.entry || !s.limitUp p || s.waitOver tid th p then none
      else match p.cond with
      | .access => s.expireAccess tid th p
      | _ =>
        let (i0, i1, lab) := s.expiryOf tid th p
        some (s.expire tid th i0 i1 lab)
    | none, some p => if s.limitUp p && !s.entryFree tid th.part then some (s.expireRetry tid th p) else none
    | none, none => none

/-- WAIT_EXPIRED. -/
def execWaitExpired (tid : Nat) (s : State) : Host.Outcome State Fault Refusal := move s (s.waitExpired tid)

/-! ### Pending events (20 R411) -/

/-- What a pending event does to a parked thread. -/
inductive Abandon where
  /-- The wait is abandoned, or there is none: the event is taken now. -/
  | now (th : Thread) (s : State)
  /-- A withdrawal is sent. -/
  | sent (s : State)
  /-- The event waits. -/
  | wait

/-- A wait at a home under a pending event (R217, R234, R308). -/
def State.abandonAccess (s : State) (tid : Nat) (th : Thread) (p : Park) : Abandon :=
  let here := match p.at_ with | some (home, _, _) => decide (home = .core (coreOf tid)) | none => true
  if !p.entry || p.wd.isSome then .wait
  else if !here then
    match p.at_ with
    | none => .wait
    | some (home, pl, pa) =>
      .sent ((s.send (.core (coreOf tid)) home pl (.withdraw (.thread tid th.gen) pa)).setThread tid
        { th with park := some { p with wd := some false } })
  else match s.waiterOf tid th.gen with
  | none => .wait
  | some m => .now ({ th with park := none }.widen (s.labelAt m.pa m.mlab)) (s.dropWaiter tid th.gen)

/-- A parked thread under a pending event. -/
def State.abandon (s : State) (tid : Nat) (th : Thread) (p : Park) : Abandon :=
  match p.cond with
  | .access => s.abandonAccess tid th p
  | .held _ | .trapEntry _ _ _ _ _ _ => .wait
  | .tgstart _ =>
    match p.instr with
    | .tgstart _ _ => .now { th with park := none } (s.leaveTimed tid th)
    | _ => .wait
  | .slot n false _ => .now ({ th with park := none }.widen (s.blockLabel (s.slotPa (coreOf tid) th.part n))) s
  | .divide _ _ _ _ | .vdivide _ _ _ _ _ _ | .slot _ true _ | .barrier _ | .clock _ _ | .journalFree | .homesClosed _ | .scopeClosed _ | .posted _ _ | .banks _ _
  | .issued _ | .queueRoom | .engineRoom | .time _ | .unitIdle _ | .ship _ _ _ => .now { th with park := none } s

/-- The event that is taken first: the oldest asynchronous trap, and only then the oldest interrupt. -/
def firstEvent (l : List PendEvent) : Option PendEvent := (l.find? fun e => decide (e.cls = 1)).or l.head?

/-- A pending event taken; an abandoned word issues again from its chain's first prefix (03 R85, 06 R156). -/
def State.takeEvent (s : State) (tid : Nat) (th : Thread) (e : PendEvent) : State :=
  let th := { th with
    pendSet := th.pendSet.erase e
    again := none
    retry := none
    handling := if e.code = 0x0602 ∧ th.handling.isNone then some 0 else th.handling }
  s.takeTrap tid th e.code e.cls e.i0 e.i1 e.lab th.trapPc (s.rot + 1)

/-- Whether the thread's park is a vector divide under way, which an event abandons with its chain (06 R156). -/
def Thread.dividing (th : Thread) : Bool :=
  match th.park with
  | some ⟨_, .vdivide .., _, _, _, _, _, _, _, _, _, _, _⟩ => true
  | _ => false

/-- The oldest pending event of a thread that may take one, at its own turn. A chain is not split (03 R84), and a wait word that has
been waited out comes first; a word that has not taken effect is abandoned (09 R220, R221, R229; 18 R403), as is a divide under
way (04 R96, 06 R156). -/
def State.takePending (s : State) (tid : Nat) : Option State :=
  match s.thread? tid with
  | none => none
  | some th =>
    match firstEvent th.pendSet with
    | none => none
    | some e =>
      if !th.te || (th.chain.isSome && !th.dividing) || (match th.again with | some a => a.firm | none => false) then none
      else match th.park with
      | none => some (s.takeEvent tid th e)
      | some p =>
        match s.abandon tid th p with
        | .now th s => some (s.takeEvent tid th e)
        | .sent s => some s
        | .wait => none

/-- TAKE_PENDING_EVENT. -/
def execTakePendingEvent (tid : Nat) (s : State) : Host.Outcome State Fault Refusal := move s (s.takePending tid)

/-! ### Fork (12 R291, 15 R356) -/

/-- An engine word that waited for one of its slot's four commands to finish forks. -/
def State.fork (s : State) (tid : Nat) : Option State :=
  match s.thread? tid with
  | none => none
  | some th =>
    match th.park with
    | some ⟨i, .engineRoom, first, _, _, _, _, _, _, _, lab, phase, data⟩ =>
      if 4 ≤ s.engineCount (coreOf tid) (slotOf tid) then none
      else
        let s' := { s with cur := tid }.setThread tid { th with park := none, again := some ⟨i, first, phase, data, lab, false⟩ }
        let r := match i with
          | .btour st x y z => execBtour st x y z s'
          | .copy st x y z => execCopy st x y z s'
          | .mcast st x y z => execMcast st x y z s'
          | _ => .next s'
        match r with
        | .next t => some { t with cur := s.cur }
        | _ => none
    | _ => none

/-- FORK. -/
def execFork (tid : Nat) (s : State) : Host.Outcome State Fault Refusal := move s (s.fork tid)

/-! ### Migrants (08 R206, R207; 12 R294) -/

/-- A migrant's record leaves its host slot, once no posted store of it is open. -/
def State.shipOut (s : State) (tid : Nat) : Option State :=
  match s.thread? tid with
  | none => none
  | some th =>
    match th.park with
    | some ⟨_, .ship k va pa, _, _, _, _, _, _, _, _, _, _, _⟩ =>
      if !(s.openEntries tid th).isEmpty then none
      else
        let core := coreOf tid
        some ((((s.delThread tid).noteFreed core (slotOf tid)).send (.core core) (.core k) .q
          (.migrant { th with park := none, retry := none } core va pa)).vacantCheck core th.part)
    | _ => none

/-- SHIP. -/
def execShip (tid : Nat) (s : State) : Host.Outcome State Fault Refusal := move s (s.shipOut tid)

/-- The head of a migrant arrival queue becomes resident in the host slot, in the world of the core (18 R398). While the partition
is switched out of the core none does. -/
def State.migrantResident (s : State) (core part : Nat) : Option State :=
  let p := s.pcore core part
  let d := s.pdie (dieOf core) part
  let k := topSlot d
  let tid := tidOf core k
  match p.migQ with
  | [] => none
  | th :: l =>
    if !d.v || !d.migh || decide (p.phase ≠ 0) || (s.thread? tid).isSome || s.justFreed core k || (s.core core).scrubs.any (fun x => decide (x.1 = k)) ||
        p.vacated.any (fun x => decide (x.1 = k)) || !s.inService core then none
    else some ((s.modPCore core part fun p => { p with migQ := l }).setThread tid { th with
      world := s.worldOf core
      nextRot := if s.cycle % 8 = 0 then s.rot else s.rot + 1 })

/-- MIGRANT_RESIDENT. -/
def execMigrantResident (core part : Nat) (s : State) : Host.Outcome State Fault Refusal := move s (s.migrantResident core part)

end Sys2Proof.Machine
end

