-- ==== Sys2Proof/Machine/TimedMove.lean ====
section
/-! DEFINITION. The moves of timed mode: freezes, pauses, the lag limit, the start of a timed group and its bound (08 R209
to R215; 09 R237, R238; 12 R296). -/

namespace Sys2Proof.Machine

/-! ### Rotations that are taken away (08 R210, R212) -/

/-- A number of a rotation put off by one, when it has not passed. -/
def later1 (rot n : Nat) : Nat := if rot ≤ n then n + 1 else n

/-- What a thread is to do from a rotation on, put off by one rotation: its next word, and its scheduled accesses, which are due on
VCC (R215, Table 8.11). Fixed-latency results and matrix commands keep their rotations (02 R46, 14 R332). -/
def Thread.putOff (th : Thread) (rot : Nat) : Thread :=
  { th with
    nextRot := later1 rot th.nextRot
    sched := th.sched.map fun (x : Sched) => { x with due := later1 rot x.due } }

/-- A thread loses rotation `rot`. -/
def State.loseRot (s : State) (rot : Nat) (x : Nat × Thread) : State := s.setThread x.1 (x.2.putOff rot)

/-! ### FREEZE (08 R210) -/

/-- A thread whose partition freezes: its fixed-latency results are written, its matrix commands that are not yet due write as they
complete (02 R50), and it loses the rotation unless a pause takes
it already. -/
def State.freezeThread (s : State) (rot : Nat) (x : Nat × Thread) : State :=
  (s.freeCmds x.1).setThread x.1 (if s.heldIn rot x then x.2.flush else x.2.flush.putOff rot)

/-- A partition is frozen on a core for a number of rotations, from the start of the present one on: every slot of it there, those
of other timed groups of the partition too, whose VCC stops with it (R210 over R214; DESIGN CHOICE, log 71). -/
def State.freeze (s : State) (core part rots : Nat) : Option State :=
  if s.cycle % 8 ≠ 0 ∨ rots = 0 then none
  else
    let rot := s.rot
    let l := s.threads.filter fun x => decide (coreOf x.1 = core) && decide (x.2.part = part)
    some ((l.foldl (fun s x => s.freezeThread rot x) s).modPCore core part fun p => { p with frozenTo := max p.frozenTo rot + rots })

/-- The partitions whose timed commands are missing on a core though they are due (14 R331). -/
def State.missingCmds (s : State) (core : Nat) : List Nat :=
  let c := s.core core
  let late := ((c.mxRun.map (·.cmd)).toList ++ c.mxQueue).filter fun m =>
    decide (m.slot < 8) && match m.due with | some n => decide (n ≤ s.rot) | none => false
  late.filterMap fun m => (s.thread? (tidOf core m.slot)).map (·.part)

/-- A timed command that is missing when due freezes its partition on the core, a rotation at a time until it has been computed. -/
def State.missFreeze (s : State) (core : Nat) : Option State :=
  match (s.missingCmds core).find? fun p => decide ((s.pcore core p).frozenTo ≤ s.rot) with
  | some p => s.freeze core p 1
  | none => none

/-- FREEZE. -/
def execFreeze (core part rots : Nat) (s : State) : Host.Outcome State Fault Refusal := move s (s.freeze core part rots)

/-! ### PAUSE_NOTICE and PAUSE_RESUME (08 R212; 12 R296) -/

/-- Whether a parked word of a timed thread is held by its earlier scheduled accesses. -/
def State.heldBySched (s : State) (tid : Nat) (th : Thread) : Bool :=
  let l := th.sched.filter fun x => decide (x.acc.outstanding ≠ 0)
  match th.park.map (fun (p : Park) => p.cond) with
  | some (.homesClosed hs) | some (.held hs) => l.any fun x => x.acc.homes.any hs.contains
  | some (.scopeClosed c) => l.any fun x => x.acc.pas.any fun h => s.coversHome (coreOf tid) c h.1 h.2.1 h.2.2
  | _ => false

/-- What a thread of a group is late with: its number, the scheduled access, and the first rotation of the pause. A hold
has the next serial number. -/
def State.lateOf (s : State) (gid tid : Nat) : Option (Nat × Nat × Nat) :=
  match (s.thread? tid).filter fun th => decide (th.timed = some gid) with
  | none => none
  | some th =>
    match th.sched.find? fun x => decide (x.acc.outstanding ≠ 0) && decide (8 * x.due ≤ s.cycle + 4) with
    | some x => some (tid, x.id, max x.due s.rot)
    | none =>
      match th.park with
      | some p => if s.heldBySched tid th && decide (p.first / 8 < s.rot) then some (tid, s.serial, s.rot) else none
      | none => none

/-- The threads of a group lose the present rotation when the pause has begun with it. -/
def State.pauseNow (s : State) (g : TGroup) (start : Nat) : State :=
  if start ≤ s.rot then
    let l := s.threads.filter fun x => g.tids.contains x.1 && !s.heldIn s.rot x
    l.foldl (fun s x => s.loseRot s.rot x) s
  else s

/-- The pause notices of a group, from the issuing core to its other cores on the K plane (R212). -/
def State.tellPause (s : State) (gid core : Nat) (g : TGroup) : State :=
  (g.cores.filter fun c => decide (c ≠ core)).foldl (fun s c => s.send (.core core) (.core c) .k (.pause gid)) s

/-- A late scheduled access pauses its group. -/
def State.pauseNotice (s : State) (gid : Nat) : Option State :=
  match nget s.tgroups gid with
  | none => none
  | some g =>
    if !g.started || g.pausedFrom.isSome then none
    else match g.tids.findSome? fun t => s.lateOf gid t with
    | none => none
    | some (t, id, start) =>
      let s := ((s.pauseNow g start).tellPause gid (coreOf t) g).tick1
      some { s with tgroups := nset s.tgroups gid { g with pausedFrom := some start, resumeAt := none, late := some (t, id) } }

/-- PAUSE_NOTICE. -/
def execPauseNotice (gid : Nat) (s : State) : Host.Outcome State Fault Refusal := move s (s.pauseNotice gid)

/-- Whether what a group waits for has come. -/
def State.lateIn (s : State) (x : Nat × Nat) : Bool :=
  match s.thread? x.1 with
  | none => true
  | some th =>
    match th.sched.find? fun y => decide (y.id = x.2) with
    | some y => decide (y.acc.outstanding = 0)
    | none => !s.heldBySched x.1 th

/-- The resume rotation is named: the first rotation boundary at least 4 cc after the arrival. -/
def State.pauseResume (s : State) (gid : Nat) : Option State :=
  match nget s.tgroups gid with
  | none => none
  | some g =>
    if g.pausedFrom.isNone || g.resumeAt.isSome || !(match g.late with | some x => s.lateIn x | none => true) then none
    else some { s with tgroups := nset s.tgroups gid { g with resumeAt := some ((s.cycle + 11) / 8) } }

/-- PAUSE_RESUME. -/
def execPauseResume (gid : Nat) (s : State) : Host.Outcome State Fault Refusal := move s (s.pauseResume gid)

/-! ### TIMING_LAG (08 R215) -/

/-- A core's lag, as a number; 0 while it runs ahead. -/
def State.lagOf (s : State) (g : TGroup) (core : Nat) : Nat := s.quartz.toNat - (g.t0.getD 0 + (nget g.vcc core).getD 0)

/-- What is kept of a strand that csave has vacated takes an event of its group, and is timed no more. -/
def lagSaved (gid slot : Nat) (e : PendEvent) (x : Nat × Thread) : Nat × Thread :=
  if x.1 = slot ∧ x.2.timed = some gid then (x.1, { x.2 with timed := none, pendSet := x.2.pendSet ++ [e] }) else x

/-- A strand of a group takes TIMING.LAG and is timed no more; one that is saved finds it when it is resumed (20 R411, R429). -/
def State.lagStrand (s : State) (gid part : Nat) (e : PendEvent) (tid : Nat) : State :=
  let s := s.modPCore (coreOf tid) part fun p => { p with vacated := p.vacated.map (lagSaved gid (slotOf tid) e) }
  match s.thread? tid with
  | some th => if th.timed = some gid then (s.deliverTo tid e).modThread tid fun th => { th with timed := none } else s
  | none => s

/-- Whether a strand of a group is live, or saved by csave, in a place. -/
def State.timedHere (s : State) (gid part tid : Nat) : Bool :=
  ((s.thread? tid).map (·.timed)) = some (some gid) ||
  (s.pcore (coreOf tid) part).vacated.any fun x => decide (x.1 = slotOf tid) && decide (x.2.timed = some gid)

/-- A core's lag above TBUDGET ends timed mode for the group, while a strand of it is left. -/
def State.timingLag (s : State) (gid core : Nat) : Option State :=
  match nget s.tgroups gid with
  | none => none
  | some g =>
    if !g.started || decide (g.budget = 0) || !g.cores.contains core || decide (s.lagOf g core ≤ g.budget) ||
        !g.tids.any (s.timedHere gid g.part) then none
    else
      let e : PendEvent := ⟨causeCode .timingLag, 1, BitVec.ofNat 64 (s.lagOf g core), BitVec.ofNat 64 g.budget, 0⟩
      let s := g.tids.foldl (fun s t => s.lagStrand gid g.part e t) { s with tgroups := ndel s.tgroups gid }
      some (match g.launch with
        | some l => (match nget s.launches l with
          | some x => { s with launches := nset s.launches l { x with timing := true } }
          | none => s)
        | none => s)

/-- TIMING_LAG. -/
def execTimingLag (gid core : Nat) (s : State) : Host.Outcome State Fault Refusal := move s (s.timingLag gid core)

/-! ### TIMED_GROUP_START (08 R209, 09 R238) -/

/-- A strand that waits for the start goes on in the present rotation. -/
def State.startStrand (s : State) (gid tid : Nat) : State :=
  match s.thread? tid with
  | none => s
  | some th =>
    match th.park with
    | some p =>
      if p.cond ≠ .tgstart gid then s
      else match p.instr with
        | .tgstart _ _ => s.setThread tid { (p.goOn th) with nextRot := s.rot }
        | _ => s.setThread tid { th with park := none, nextRot := s.rot }
    | none => s

/-- s[y] of strand 0 among the arrivals at a tgstart. -/
def State.startWord (s : State) (g : TGroup) : Option Word :=
  (g.arrived.find? fun a => match s.thread? a.1 with | some th => decide (th.strId = 0) | none => false).map (·.2)

/-- A timed group starts at T0: the first rotation in which the quartz has reached it. -/
def State.timedStart (s : State) (gid : Nat) : Option State :=
  match nget s.tgroups gid with
  | none => none
  | some g =>
    match g.nextT0 with
    | none => none
    | some t =>
      if s.cycle % 8 ≠ 0 ∨ s.quartz.toNat < t then none
      else
        let (budget, lat) := match s.startWord g with
          | some v => (v.toNat % 2 ^ 32, tgLat v)
          | none => (g.budget, g.rlat)
        let g' := { g with
          t0 := some t
          started := true
          nextT0 := none
          budget := budget
          rlat := lat
          vcc := g.cores.foldl (fun m c => nset m c 0) []
          arrived := []
          pausedFrom := none
          resumeAt := none
          late := none }
        some (g.tids.foldl (fun s t => s.startStrand gid t) { s with tgroups := nset s.tgroups gid g' })

/-- TIMED_GROUP_START. -/
def execTimedGroupStart (gid : Nat) (s : State) : Host.Outcome State Fault Refusal := move s (s.timedStart gid)

/-! ### TGSTART_BOUND_EXPIRY (09 R238) -/

/-- An arrived strand expires. -/
def State.expireArrival (s : State) (i1 : Word) (tid : Nat) : State :=
  match s.thread? tid with
  | none => s
  | some th => s.expire tid th 5 i1 0

/-- Not every strand has arrived within the bound, the cycle in which it is reached included: every arrived strand expires, and its
arrival is withdrawn. -/
def State.tgBoundUp (s : State) (gid : Nat) : Option State :=
  match nget s.tgroups gid with
  | none => none
  | some g =>
    if g.arrived.isEmpty || g.nextT0.isSome || decide (s.cycle ≤ g.firstAt + Config.tgBound) then none
    else
      let i1 := BitVec.ofNat 64 (g.size * 2 ^ 32 + g.arrived.length)
      some (g.arrived.foldl (fun s a => s.expireArrival i1 a.1) { s with tgroups := nset s.tgroups gid { g with arrived := [] } })

/-- TGSTART_BOUND_EXPIRY. -/
def execTgstartBoundExpiry (gid : Nat) (s : State) : Host.Outcome State Fault Refusal := move s (s.tgBoundUp gid)

end Sys2Proof.Machine
end

