-- ==== Sys2Proof/Machine/NodeMove.lean ====
section
/-! DEFINITION. The rows of messages, engine threads, matrix commands, dispatchers and the context switch: each takes the
move of its unit (12 Table 12.3; 14 R330, R333; 15 R365 to R376; 08 R197 to R200; 09 R224; 11 R272; 20 R428, R429). -/

namespace Sys2Proof.Machine

/-! ### Messages (12 R277; 09 R234; 22 R443) -/

/-- DELIVER. -/
def execDeliver (src dst : Node) (pl : Plane) (s : State) : Host.Outcome State Fault Refusal := move s (s.deliver src dst pl)

/-- COMBINE. -/
def execCombine (a b dst : Node) (s : State) : Host.Outcome State Fault Refusal := move s (s.combine a b dst)

/-- PERFORM. -/
def execPerform (home : Node) (s : State) : Host.Outcome State Fault Refusal := move s (s.performHead home)

/-- WITHDRAWAL. -/
def execWithdrawal (home : Node) (s : State) : Host.Outcome State Fault Refusal := move s (s.withdrawHead home)

/-- A response reaches whoever waits for it. -/
def State.completeOwner (s : State) (o : Owner) (idx : Nat) (r : Resp) : State :=
  match o with
  | .thread tid gen => s.completeThread tid gen idx r
  | .sched tid gen id => s.completeSched tid gen id idx r
  | .journal core e => s.completeJournal core e r
  | .engine e => s.completeEngine e idx r
  | .status d part => if r.ok then s else s.lostStatusWrite d part
  | .outside => s

/-- The oldest response delivered to a node completes. -/
def State.complete (s : State) (n : Node) : Option State :=
  match klist s.inbox n with
  | [] => none
  | .resp _ o i r :: l => some ({ s with inbox := kputList s.inbox n l }.completeOwner o i r)
  | _ :: l => some { s with inbox := kputList s.inbox n l }

/-- COMPLETE. -/
def execComplete (n : Node) (s : State) : Host.Outcome State Fault Refusal := move s (s.complete n)

/-! ### Engine threads (12 R291 to R293; 15) -/

/-- ENGINE_STEP. -/
def execEngineStep (e : Nat) (s : State) : Host.Outcome State Fault Refusal := move s (s.engineStep e)

/-- ENGINE_START_OFFSET. -/
def execEngineStartOffset (e : Nat) (s : State) : Host.Outcome State Fault Refusal := move s (s.startOffset e)

/-- FINISH. -/
def execFinish (e : Nat) (s : State) : Host.Outcome State Fault Refusal := move s (s.finishEngine e)

/-- BEAD_ARRIVAL. -/
def execBeadArrival (e : Nat) (s : State) : Host.Outcome State Fault Refusal := move s (s.beadArrival e)

/-- BEAD_LANDED. -/
def execBeadLanded (e : Nat) (s : State) : Host.Outcome State Fault Refusal := move s (s.beadLanded e)

/-- HOLD_EXPIRY: taken in the cycle after the clock reaches HOLD, so that a bpass of that cycle comes first (15 R365). -/
def execHoldExpiry (e : Nat) (s : State) : Host.Outcome State Fault Refusal := move s (s.holdExpiry e 1)

/-- BEAD_DEPARTURE. -/
def execBeadDeparture (core part n : Nat) (s : State) : Host.Outcome State Fault Refusal := move s (s.beadDeparture core part n)

/-- FOLLOW_ON_ENTRY. -/
def execFollowOnEntry (e : Nat) (s : State) : Host.Outcome State Fault Refusal := move s (s.followOn e)

/-- COPY_FOLLOW_ON. -/
def execCopyFollowOn (e : Nat) (s : State) : Host.Outcome State Fault Refusal := move s (s.copyFollow e)

/-- COPY_SLOT_FILL. -/
def execCopySlotFill (e : Nat) (s : State) : Host.Outcome State Fault Refusal := move s (s.copyFill e)

/-! ### Matrix commands (14 R330 to R333) -/

/-- MATRIX_COMMAND_START. -/
def execMatrixCommandStart (core : Nat) (s : State) : Host.Outcome State Fault Refusal := move s (s.mxStart core)

/-- The running command ends, or a timed thread's command that has been computed is due. -/
def State.mxComplete (s : State) (core : Nat) : Option State := (s.mxFinish core).or (s.mxDue core)

/-- MATRIX_COMMAND_COMPLETE. -/
def execMatrixCommandComplete (core : Nat) (s : State) : Host.Outcome State Fault Refusal := move s (s.mxComplete core)

/-! ### Dispatchers and barriers (08 R197 to R200; 09 R224) -/

/-- GROUP_DEAL. -/
def execGroupDeal (die part : Nat) (s : State) : Host.Outcome State Fault Refusal := move s (s.groupDeal die part)

/-- LAUNCH_AGING. -/
def execLaunchAging (lid : Nat) (s : State) : Host.Outcome State Fault Refusal := move s (s.launchAging lid)

/-- LAUNCH_COMPLETION. -/
def execLaunchCompletion (lid : Nat) (s : State) : Host.Outcome State Fault Refusal := move s (s.launchCompletion lid)

/-- BARRIER_COMPLETE. -/
def execBarrierComplete (k : BarKey) (s : State) : Host.Outcome State Fault Refusal := move s (s.barrierComplete k)

/-- DEP_VAL: the access that has arrived first at the dispatcher is performed. -/
def execDepVal (die : Nat) (s : State) : Host.Outcome State Fault Refusal := move s (s.performHead (.disp die))

/-- PFREE_APPEND. -/
def execPfreeAppend (tid : Nat) (s : State) : Host.Outcome State Fault Refusal := move s (s.pfreeStep tid)

/-! ### The context switch (20 R428, R429) -/

/-- CSW_CTL_REQ: ignored unless PHASE is 0. -/
def execCswCtlReq (core part : Nat) (s : State) : Host.Outcome State Fault Refusal := .next (s.cswReq core part)

/-- A thread that the switch has sent PREEMPT to and that has not vacated its slot in time. -/
def State.overdue (s : State) (core part : Nat) : List Nat :=
  (s.threads.filter fun (t, th) => decide (coreOf t = core) && decide (th.part = part) && decide (th.kind ≠ .control) &&
    th.preempt).map (·.1)

/-- The threads that have not vacated in time are killed with reason 6. -/
def State.preemptTimeout (s : State) (core part : Nat) : Option State :=
  let p := s.pcore core part
  if p.phase ≠ 1 ∨ s.cycle < p.reqAt + Config.preemptLimit then none
  else some ((s.overdue core part).foldl (fun s t => s.kill t 6) s)

/-- PREEMPT_TIMEOUT. -/
def execPreemptTimeout (core part : Nat) (s : State) : Host.Outcome State Fault Refusal := move s (s.preemptTimeout core part)

/-- DRAIN_LIMIT. -/
def execDrainLimit (core part : Nat) (s : State) : Host.Outcome State Fault Refusal := move s (s.drainLimit core part)

/-- SWITCHED_OUT. -/
def execSwitchedOut (core part : Nat) (s : State) : Host.Outcome State Fault Refusal := move s (s.switchedOut core part)

/-- CSW_CTL_RES: ignored unless PHASE is 3. -/
def execCswCtlRes (core part : Nat) (s : State) : Host.Outcome State Fault Refusal := .next (s.cswRes core part)

end Sys2Proof.Machine
end

