-- ==== Sys2Proof/Machine/Outside.lean ====
section
/-! DEFINITION. What comes from outside the cores: uncorrectable errors and the end of a scrub, the watchdog, interrupts,
functions, inbound accesses, budgets, links, the pod's quartz, power, and writes through the device-register window
(11 R270; 12 R288; 14 R348; 17 R385; 18 R388, R397; 20 R426, R427, R432; 22 R439, R446 to R452; 23 R456 to R461). -/

namespace Sys2Proof.Machine

/-! ### Uncorrectable errors (20 Table 20.5; 08 R201) -/

/-- Whether a response to a thread is under way; one to an earlier thread of its slot is not. -/
def State.answering (s : State) (tid gen : Nat) : Bool :=
  let isIt (it : Item) : Bool := match it with
    | .resp _ (.thread t g) _ _ | .resp _ (.sched t g _) _ _ => decide (t = tid) && decide (g = gen)
    | _ => false
  s.channels.any (fun c => c.2.any isIt) || s.inbox.any (fun c => c.2.any isIt)

/-- The message of a dropped store: taken out, or, when others were combined with it, owned by nobody. -/
def dropOwner (o : Owner) (it : Item) : Option Item :=
  match it with
  | .req m =>
    if m.owner = o then (if m.others.isEmpty then none else some (.req { m with owner := .outside }))
    else some (.req { m with others := m.others.map fun (n, p, i, fl) => (n, if p = o then .outside else p, i, fl) })
  | _ => some it

/-- A store that has not been performed is dropped, in a spill buffer too. -/
def State.dropStore (s : State) (o : Owner) : State :=
  { s with
    channels := s.channels.map fun (k, l) => (k, l.filterMap (dropOwner o))
    arrivals := s.arrivals.map fun (k, l) => (k, l.filterMap (dropOwner o))
    cores := s.cores.map fun (k, (c : Core)) =>
      (k, { c with parts := c.parts.map fun (p : PCore) => { p with spill := p.spill.filterMap (dropOwner o) } }) }

/-- A journal entry lost: its store is dropped and its thread killed with reason 2. -/
def State.journalError (s : State) (core entry : Nat) : Option State :=
  match (s.core core).journal.find? fun j => decide (j.num = entry) with
  | none => none
  | some j =>
    let s := s.dropStore (.journal core j.serial)
    let s := s.modCore core fun c => { c with journal := c.journal.filter fun x => decide (x.serial ≠ j.serial) }
    some (match s.thread? j.tid with
      | some th => if th.gen = j.gen then s.kill j.tid 2 else s
      | none => s)

/-- A dispatcher queue entry lost: what is dealt ends, and the launch fails. -/
def State.queueError (s : State) (lid : Nat) : Option State :=
  match nget s.launches lid with
  | none => none
  | some x =>
    if !x.queued then none
    else
      some { s with launches := nset s.launches lid { x with poisoned := true, checked := decide (x.dealt ≠ 0) } }

/-- A bead in flight dies. -/
def State.beadError (s : State) (e : Nat) : Option State :=
  match nget s.engines e with
  | none => none
  | some g =>
    if g.kind ≠ .tour ∨ g.pos = .landing ∨ g.pos = .held ∨ g.ended.isSome then none
    else some (s.modEngine e fun g =>
      { (g.fail .memPoison 0 0xFF) with todo := [], todoStops := [], pos := if g.pos = .none then .none else .flying })

/-- An uncorrectable error. -/
def State.hardError (s : State) (site : ErrSite) : Option State :=
  match site with
  | .register tid => (s.thread? tid).map fun _ => s.kill tid 1
  | .response tid => (s.thread? tid).bind fun th => if s.answering tid th.gen then some (s.kill tid 7) else none
  | .journal core entry => s.journalError core entry
  | .waitEntry tid =>
    match (s.thread? tid).bind (·.park) with
    | some p => if p.entry then some (s.kill tid 3) else none
    | none => none
  | .bank core b => some (s.modCore core fun c => c.setBank (b % 64) { (bankOf c (b % 64)) with poisoned := true })
  | .memory pa => if (s.home pa).isSome && decide (spaceOf pa ≠ 3) then some (s.poisonAt pa) else none
  | .queueEntry lid => s.queueError lid
  | .counter d part ctr =>
    some (s.modPDie d part fun p =>
      { p with deps := nset p.deps (ctr % 256) { ((nget p.deps (ctr % 256)).getD ⟨0, false, 0⟩) with psn := true } })
  | .bead e => s.beadError e
  | .rodPath core rod elem delta times =>
    some (s.modCore core fun c => { c with rodFaults := c.rodFaults ++ [(rod, elem, delta, times)] })

/-- UNCORRECTABLE_ERROR. -/
def execUncorrectableError (site : ErrSite) (s : State) : Host.Outcome State Fault Refusal := move s (s.hardError site)

/-- A killed slot's scrub ends: the slot is free from the rotation after (20 R427). -/
def State.scrubEnd (s : State) (tid : Nat) : Option State :=
  if (s.core (coreOf tid)).scrubs.any fun x => decide (x.1 = slotOf tid) then
    some ((s.modCore (coreOf tid) fun c => { c with scrubs := c.scrubs.filter fun x => decide (x.1 ≠ slotOf tid) }).noteFreed
      (coreOf tid) (slotOf tid))
  else none

/-- SCRUB_END. -/
def execScrubEnd (tid : Nat) (s : State) : Host.Outcome State Fault Refusal := move s (s.scrubEnd tid)

/-! ### The watchdog (20 R432) -/

/-- The lowest core of a die that is in service. -/
def State.lowCore (s : State) (d : Nat) : Option Nat :=
  ((nums (liveN (s.die d))).map fun l => d * 1024 + l).find? s.inService

/-- HANG delivered once. -/
def State.hang (s : State) (d part : Nat) : Option State :=
  let p := s.pdie d part
  if p.wdLim = 0 ∨ p.wdCnt < p.wdLim ∨ p.hangSent then none
  else match s.lowCore d with
  | none => none
  | some c => some ((s.deliverTo (s.ctrlTid c part) ⟨0x0605, 2, p.wdCnt, p.wdLim, 0⟩).modPDie d part fun p => { p with hangSent := true })

/-- HANG. -/
def execHang (die part : Nat) (s : State) : Host.Outcome State Fault Refusal := move s (s.hang die part)

/-! ### Interrupts and functions (22 R448, R449, R451) -/

/-- INT_REQ: the label given is the writer's CTXL; the row names no core, and the request leaves from core 0. -/
def execIntReq (part : Nat) (vec : BitVec 8) (lab : Label) (s : State) : Host.Outcome State Fault Refusal :=
  .next (s.intRequest 0 part lab vec)

/-- INT_REQ_ARRIVAL. -/
def execIntReqArrival (part : Nat) (s : State) : Host.Outcome State Fault Refusal := .next (s.intArrive part)

/-- VF_RUN. -/
def execVfRun (part : Nat) (s : State) : Host.Outcome State Fault Refusal := .next (s.vfSet part 0)

/-- VF_DESCHEDULE. -/
def execVfDeschedule (part : Nat) (s : State) : Host.Outcome State Fault Refusal := .next (s.vfSet part 1)

/-- VF_PAUSE. -/
def execVfPause (part : Nat) (s : State) : Host.Outcome State Fault Refusal := .next (s.vfSet part 2)

/-- VF_RESET. -/
def execVfReset (part : Nat) (s : State) : Host.Outcome State Fault Refusal := .next (s.vfSet part 3)

/-! ### Inbound accesses (18 R397; 22 R444, R447) -/

/-- For whom an inbound access is made: the partition it names, in the non-secure world. -/
def inboundWho (part : Nat) : Who := ⟨0, part, false, true, false⟩

/-- Whether what lies beyond the package reaches it: host links and Delfort ports of a GW9-M that has started (00 R2; 23 R453,
R458). -/
def State.presented (s : State) : Bool := s.isModule && decide (s.bootMode = 1)

/-- Whether a function may reach the package: each virtual function belongs to a partition that is configured (22 R447). -/
def State.functionOf (s : State) (fab : Bool) (part : Nat) : Bool :=
  s.presented && (fab || s.dies.toList.any fun d => (vget d.parts part).v)

/-- The home of an inbound piece that a partition may reach: its own banks outside the reserved areas, device memory, and, from
another package, device registers and the host window (11 R244, R246, R250; 22 R444). -/
def State.inboundHome (s : State) (fab : Bool) (part pa : Nat) (q : Want) : Option Node :=
  if (!fab && decide (spaceOf pa = 3)) || (placeFail s (inboundWho part) q (plainLeaf pa) pa).isSome then none else s.home pa

/-- Whether a function is kept from a location: its world is not secure, and the location is (18 R398). A message from another
package has passed that check where it was issued. Whether the location is secure is a free value (DESIGN CHOICE, log 78). -/
def State.inboundBarred (s : State) (fab : Bool) (part : Nat) : Bool :=
  !fab && !s.worldOf (funKey part) && Config.freeSecure s.freeCtr

/-- An inbound request. -/
def inboundMsg (s : State) (fab : Bool) (part pa : Nat) (home : Node) (req : Req) : Msg where
  src := .host 0
  dst := home
  pl := planeOf req
  owner := .outside
  idx := 0
  pa := pa
  va := BitVec.ofNat 64 pa
  part := part
  ctrl := false
  world := false
  mlab := Config.freeLabel s.freeCtr
  mx := fab && Config.freeMx s.freeCtr
  inbound := true
  lv := 0
  req := req
  others := []

/-- A refusal of an inbound request before it reaches a home; a refused read is counted (18 R397). -/
def State.inboundRefused (s : State) (part pa : Nat) (q : Want) (req : Req) (c : Cause) : State × Option Resp :=
  (if isReading req then s.denied part else s, some (refusal c (physInfo c pa q.kind) 0))

/-- An inbound request performed at its home: its answer, when it has one at once. -/
def State.inbound (s : State) (fab : Bool) (part pa : Nat) (q : Want) (req : Req) : State × Option Resp :=
  match s.inboundHome fab part pa q with
  | none => s.inboundRefused part pa q req .memPa
  | some home =>
    if s.inboundBarred fab part then { s with freeCtr := s.freeCtr + 1 }.inboundRefused part pa q req .memWorld
    else
      let (t, r, o) := { s with freeCtr := s.freeCtr + 1 }.performAt (inboundMsg s fab part pa home req)
      (t.sendOuts home o, r)

/-- The answer of an inbound access noted. -/
def State.answerHost (s : State) (x : Option (List Byte)) : State := { s with hostReads := x :: s.hostReads }

/-- An inbound access in pieces, up to the first that is refused: the bytes read. -/
def inboundPieces (fab : Bool) (part : Nat) (kind : Nat) (req : Nat → Nat → Req) :
    List (Nat × Nat × Nat) → State → State × Option (List Byte)
  | [], s => (s, some [])
  | (off, pa, n) :: l, s =>
    match s.inbound fab part pa { kind := kind, size := n } (req off n) with
    | (s, some r) =>
      if r.ok then
        match inboundPieces fab part kind req l s with
        | (s, some x) => (s, some (r.bytes ++ x))
        | (s, none) => (s, none)
      else (s, none)
    | (s, none) => inboundPieces fab part kind req l s

/-- The pieces of a range of physical addresses: offset, address and size. -/
def inboundCut (pa n : Nat) : List (Nat × Nat × Nat) := (cutPieces n pa 0 n).map fun (o, k) => (o, pa + o, k)

/-- A byte of the device-register window. -/
def State.windowByte (s : State) (a : Nat) : Byte :=
  BitVec.ofNat 8 ((s.windowRead (a / 2 ^ 44 % 4) (a % 2 ^ 44 / 8 * 8)).toNat / 2 ^ (8 * (a % 8)))

/-- Whether a read of the device-register window through a host link is performed: PF0 of either link reads it once the package has
started, and PF0 of link 0 in minimal mode (22 R447; 23 R456, R458). -/
def State.windowShown (s : State) (pa : Nat) : Bool :=
  s.presented || (s.isModule && decide (s.bootMode = 2) && decide (pa / 2 ^ 44 % 4 = 0))

/-- The 4 KiB page of a function's BAR0 (22 R447), which has no physical address: the rows name its offset `off` as the address
2^52 + off (DESIGN CHOICE, log 77). -/
def isVfPage (pa : Nat) : Bool := decide (2 ^ 52 ≤ pa) && decide (pa < 2 ^ 52 + 4096)

/-- An access to the mailbox word of a partition (22 R447). -/
def State.mailbox (s : State) (part : Nat) (kind : Nat) (op : FeOp) (v : Word) : State × Option Resp :=
  let pa := (s.pp part).mboxAddr.toNat
  if spaceOf pa ≠ 1 then (s, some (refusal .feSpace (physInfo .feSpace pa kind) 0))
  else s.inbound false part pa { kind := kind, size := 8, fe := true } (.fe op v)

/-- A read of a function's page: MBSTAT reads the mailbox word's full/empty bit, and every other offset zero (22 R447). -/
def State.vfPageRead (s : State) (part off n : Nat) : State :=
  let rest := List.replicate n (0 : Byte)
  if off + n ≤ 8 ∨ 16 ≤ off then s.answerHost (some rest)
  else match s.mailbox part 0 .tst 0 with
    | (s, some r) => s.answerHost (if r.ok then some ((nums n).map fun i => if 8 ≤ off + i then r.bytes.getD (off + i - 8) 0 else 0) else none)
    | (s, none) => s

/-- An inbound read. A device register is read by every agent (23 R456); from another package under the rule of its label. -/
def State.inboundRead (s : State) (fab : Bool) (part pa n : Nat) : State :=
  if !fab && isDevReg pa && (s.home pa).isSome then
    s.answerHost (if s.windowShown pa then some ((nums n).map fun i => s.windowByte (pa + i)) else none)
  else if !s.functionOf fab part then s.answerHost none
  else if !fab && isVfPage pa then s.vfPageRead part (pa - 2 ^ 52) n
  else
    let (s, x) := inboundPieces fab part 0 (fun _ k => .read k) (inboundCut pa n) s
    s.answerHost x

/-- INBOUND_READ: the host link answers it, or the fabric. -/
def execInboundRead (fab : Bool) (part pa n : Nat) (s : State) : Host.Outcome State Fault Refusal :=
  .next (s.inboundRead fab part pa n)

/-- A write of MBOX: stfe.force on the mailbox word with the partition's O as label (22 R447). -/
def State.mboxWrite (s : State) (part : Nat) (v : Word) : State :=
  if !s.functionOf false part then s.answerHost none
  else match s.mailbox part 1 .force v with
    | (s, some r) => s.answerHost (if r.ok then some [] else none)
    | (s, none) => s

/-- An inbound write; a device register refuses one from a function (23 R456), and a function's page ignores one but that of MBOX
(22 R447). -/
def State.inboundWrite (s : State) (fab : Bool) (part pa : Nat) (l : List Byte) : State :=
  if !s.functionOf fab part then s.answerHost none
  else if !fab && isVfPage pa then
    if pa = 2 ^ 52 ∧ l.length = 8 then s.mboxWrite part (BitVec.ofNat 64 (fromBytes l)) else s.answerHost (some [])
  else
    let (s, x) := inboundPieces fab part 1 (fun o k => .write (((l.drop o).take k).map some)) (inboundCut pa l.length) s
    s.answerHost (x.map fun _ => [])

/-- INBOUND_WRITE. -/
def execInboundWrite (fab : Bool) (part pa : Nat) (l : List Byte) (s : State) : Host.Outcome State Fault Refusal :=
  .next (s.inboundWrite fab part pa l)

/-- MBOX. -/
def execMbox (part : Nat) (v : Word) (s : State) : Host.Outcome State Fault Refusal := .next (s.mboxWrite part v)

/-! ### Budgets (22 R450) -/

/-- A new budget epoch of a partition. -/
def State.budgetEpoch (s : State) (part : Nat) : Option State :=
  if s.cycle - (s.pp part).epochAt < Config.epochLen then none
  else some (s.modPP part fun p =>
    { p with epochAt := s.cycle / Config.epochLen * Config.epochLen, spent := Vector.replicate 3 0 })

/-- BUDGET_EPOCH. -/
def execBudgetEpoch (part : Nat) (s : State) : Host.Outcome State Fault Refusal := move s (s.budgetEpoch part)

/-! ### Links and the pod's quartz (22 R439, R446) -/

/-- A row link at a new width, on both dies, and the change counted. -/
def State.setLink (s : State) (row : Nat) (w : BitVec 2) : State :=
  { s with dies := s.dies.map fun (d : Die) => { d with links := vset d.links row w, narrow := d.narrow + 1 } }

/-- A link one step narrower. A form of one die has no boundary, and no row links (00 R2). -/
def State.linkNarrow (s : State) (row : Nat) : Option State :=
  let w := vget (s.die 0).links row
  if s.diesOf = 1 ∨ 2 ≤ w.toNat then none else some (s.setLink row (w + 1))

/-- LINK_NARROW. -/
def execLinkNarrow (row : Nat) (s : State) : Host.Outcome State Fault Refusal := move s (s.linkNarrow row)

/-- A link at full width again. -/
def State.linkWiden (s : State) (row : Nat) : Option State :=
  if s.diesOf = 1 ∨ vget (s.die 0).links row = 0 then none else some (s.setLink row 0)

/-- LINK_WIDEN. -/
def execLinkWiden (row : Nat) (s : State) : Host.Outcome State Fault Refusal := move s (s.linkWiden row)

/-- Whether the package belongs to a pod group whose master is another package. -/
def State.follows (s : State) : Bool :=
  s.ppkg.toList.any fun p => decide (p.podCfg.extractLsb' 0 16 ≠ 0) && !p.podCfg.getLsbD 40

/-- An increment added to the quartz, or the next one withheld; at most one in 1,024 cc. Only a GW9-M has the Delfort ports over which
its master is followed (00 R2). -/
def State.quartzSlew (s : State) (up : Bool) : Option State :=
  if !s.isModule || !s.follows || (match s.slewAt with | some c => decide (s.cycle < c + 1024) | none => false) then none
  else if up then some { s with quartz := s.quartz + 1, slewAt := some s.cycle }
  else some { s with slewHold := true, slewAt := some s.cycle }

/-- QUARTZ_SLEW. -/
def execQuartzSlew (up : Bool) (s : State) : Host.Outcome State Fault Refusal := move s (s.quartzSlew up)

/-! ### Checkpoints (22 R452) -/

/-- Device memory: HBM and the second tier. -/
def isDevice (pa : Nat) : Bool := decide (spaceOf pa = 0) || decide (spaceOf pa = 2)

/-- Every line of device memory and its poison marks, sealed: what the image holds is kept, and its sealed bytes, which nothing
determines, go to host memory (DESIGN CHOICE, log 61). -/
def State.takeCheckpoint (s : State) : Option State :=
  if !s.presented then none
  else
    let x : Sealed := ⟨s.fixed.serial, s.mem.filter fun c => isDevice c.1, s.poison.filter fun c => isDevice (8 * c.1)⟩
    let out := (Config.sealedCells s.freeCtr).filter fun c => isHostWin c.1 && (s.home c.1).isSome
    some { s with
      sealedImage := some x
      freeCtr := s.freeCtr + 1
      mem := out.foldl (fun m c => Memory.set m c.1 c.2) s.mem }

/-- CHECKPOINT. -/
def execCheckpoint (s : State) : Host.Outcome State Fault Refusal := move s s.takeCheckpoint

/-- A sealed image restored, on the device that wrote it. -/
def State.restoreCheckpoint (s : State) : Option State :=
  match s.sealedImage with
  | none => none
  | some x =>
    if !s.presented ∨ x.serial ≠ s.fixed.serial then none
    else some { s with
      mem := x.mem.foldl (fun m c => Memory.set m c.1 c.2) (s.mem.filter fun c => !isDevice c.1)
      poison := x.poison.foldl (fun m c => nset m c.1 c.2) (s.poison.filter fun c => !isDevice (8 * c.1)) }

/-- CHECKPOINT_RESTORE. -/
def execCheckpointRestore (s : State) : Host.Outcome State Fault Refusal := move s s.restoreCheckpoint

/-! ### Power (23 R460) and HBM scrub (23 R461) -/

/-- A supply sag begins: counted on each die. -/
def State.droop (s : State) : Option State :=
  if s.sag then none
  else some { s with sag := true, dies := s.dies.map fun (d : Die) => { d with droopEvt := d.droopEvt + 1 } }

/-- SUPPLY_DROOP. -/
def execSupplyDroop (s : State) : Host.Outcome State Fault Refusal := move s s.droop

/-- A supply sag ends; the stretch goes on for exactly 256 cc, where the spec asks for at least that many (23 R460; DESIGN CHOICE,
log 72). -/
def State.endSag (s : State) : Option State := if s.sag then some { s with sag := false, sagEnd := s.cycle + 256 } else none

/-- SAG_END. -/
def execSagEnd (s : State) : Host.Outcome State Fault Refusal := move s s.endSag

/-- The package is above PWR.CAP from this rotation on. -/
def State.powerThrottle (s : State) : Option State :=
  if s.cycle % 8 ≠ 0 ∨ s.throttled then none else some { s with throttled := true }

/-- POWER_THROTTLE. -/
def execPowerThrottle (s : State) : Host.Outcome State Fault Refusal := move s s.powerThrottle

/-- The package is back under the cap from this rotation on. -/
def State.backUnderCap (s : State) : Option State :=
  if s.cycle % 8 ≠ 0 ∨ !s.throttled then none else some { s with throttled := false }

/-- BACK_UNDER_CAP. -/
def execBackUnderCap (s : State) : Host.Outcome State Fault Refusal := move s s.backUnderCap

/-- The counts of a stack added, once in each period of 2^24 cc, and the lines of it that it reports poisoned (23 R461). -/
def State.hbmScrub (s : State) (stack ce : Nat) (ue : List Nat) : Option State :=
  let bad := ue.filter fun pa => match s.home pa with | some (.hbm n) => decide (n / 32 = stack) | _ => false
  if 8 ≤ stack ∨ s.hbmSize = 0 ∨ s.cycle / Config.scrubPeriod ≤ vget (s.die (stack / 4)).scrubbed (stack % 4) then none
  else
    let s := s.modDie (stack / 4) fun d => { d with
      hbmCe := vset d.hbmCe (stack % 4) (vget d.hbmCe (stack % 4) + BitVec.ofNat 32 ce)
      hbmUe := vset d.hbmUe (stack % 4) (vget d.hbmUe (stack % 4) + BitVec.ofNat 16 bad.length)
      scrubbed := vset d.scrubbed (stack % 4) (s.cycle / Config.scrubPeriod) }
    some (bad.foldl State.poisonAt s)

/-- HBM_SCRUB. -/
def execHbmScrub (stack ce : Nat) (ue : List Nat) (s : State) : Host.Outcome State Fault Refusal := move s (s.hbmScrub stack ce ue)

/-! ### Writes through the window (23 R456 to R459; 11 R270; 12 R288; 14 R348; 18 R388; 20 R431) -/

/-- CFG_REQ: ignored where a write of CFG.REQn is; else firmware checks the request and applies it. -/
def execCfgReq (die part : Nat) (v : Word) (s : State) : Host.Outcome State Fault Refusal :=
  .next (if s.cfgTakes die then (s.cfgWrite die part v).cfgDone die else s)

/-- CORE_KILL. -/
def execCoreKill (core : Nat) (m : BitVec 8) (s : State) : Host.Outcome State Fault Refusal := .next (s.coreKill core m)

/-- CORE_SVC. -/
def execCoreSvc (core : Nat) (s : State) : Host.Outcome State Fault Refusal := .next (s.outOfService core)

/-- ROD_FAIL_SET. -/
def execRodFailSet (core : Nat) (m : BitVec 6) (s : State) : Host.Outcome State Fault Refusal :=
  .next (s.modCore core fun c => markRods c m)

/-- PRINCIPAL_REGISTER. -/
def execPrincipalRegister (p : Nat) (s : State) : Host.Outcome State Fault Refusal := .next (s.register p)

/-- PRINCIPAL_DEREGISTER. -/
def execPrincipalDeregister (p : Nat) (s : State) : Host.Outcome State Fault Refusal := .next (s.deregister p)

/-- SCOPE_SET. -/
def execScopeSet (part : Nat) (v : Word) (s : State) : Host.Outcome State Fault Refusal := .next (s.scopeSet part v)

/-- The value of an XLAT.INV write (11 R270). -/
def invWord (op page : Nat) : Word := BitVec.ofNat 64 (page % 2 ^ 44 * 4096 + op)

/-- An XLAT.INV write of an operation and a page, once every access translated through what it drops has been performed. -/
def State.invalidate (s : State) (part op page : Nat) : Option State :=
  if s.invDrained part (invWord op page) then some (s.eachPCore part (xlatDrop op page)) else none

/-- XLAT_INV_PAGE. -/
def execXlatInvPage (part page : Nat) (s : State) : Host.Outcome State Fault Refusal := move s (s.invalidate part 0 page)

/-- XLAT_INV_ALL. -/
def execXlatInvAll (part : Nat) (s : State) : Host.Outcome State Fault Refusal := move s (s.invalidate part 1 0)

/-- XLAT_INV_STAGE2. -/
def execXlatInvStage2 (part page : Nat) (s : State) : Host.Outcome State Fault Refusal := move s (s.invalidate part 2 page)

/-- Whether a write of the window may be performed: one of XLAT.INV waits (11 R270). -/
def State.writeReady (s : State) (off : Nat) (v : Word) : Bool :=
  if 0x800 ≤ off ∧ off < 0x900 ∧ off % 0x40 = 0x18 then s.invDrained ((off - 0x800) / 0x40) v else true

/-- REGISTER_WRITE. -/
def execRegisterWrite (who : Writer) (die off : Nat) (v : Word) (s : State) : Host.Outcome State Fault Refusal :=
  .next (if die < s.diesOf && s.writeReady off v then s.windowWrite who die off v else s)

end Sys2Proof.Machine
end

