-- ==== Sys2Proof/Machine/Boot.lean ====
section
/-! DEFINITION. Starting the package: the stages of a start, discovery, the firmware image, failed starts, and the loss of
power (23 R453 to R458). -/

namespace Sys2Proof.Machine

/-! ### Failing (23 R453, R458) -/

/-- A start that fails records its reason and resets the package. -/
def State.failStart (s : State) (r : BitVec 4) : State :=
  { (State.coldStart { s with fixed := { s.fixed with recorded := some r } }) with stage := 1 }

/-- What the hardware decides in the start under way. -/
def State.env (s : State) : BootEnv := s.bootEnv.getD ⟨true, true, true, true, true, [], [], none, []⟩

/-! ### The stages (23 Table 23.1) -/

/-- The failed-start rule of stage 2 (R458). -/
def countStart (f : Fixed) : Fixed :=
  if f.started then { f with failN := f.failN + 1, reason := f.recorded.getD 9, recorded := none }
  else { f with started := true, recorded := none }

/-- Stage 2: GATE.BOOT counts the start before anything can fail. -/
def State.stage2Boot (s : State) : State :=
  let env := s.env
  let f := countStart { s.fixed with gateBoot := if env.bootInc then s.fixed.gateBoot + 1 else s.fixed.gateBoot }
  let s := { s with fixed := f }
  if 3 ≤ f.failN.toNat then { s with bootMode := 2, stage := 0 }
  else if !env.bootInc then s.failStart 10
  else if !env.fusesOk then s.failStart 1
  else { s with stage := 3 }

/-- The routers of the dies, by die, y and x. -/
def routerKey (d x y : Nat) : Nat := d * 1024 + y * 32 + x

/-- Whether a discovery flit reaches a router that takes part and has none yet. -/
def State.flitAt (s : State) (d x y : Nat) : Bool :=
  decide (s.stage = 3) && !s.env.deadRouters.contains (routerKey d x y) && decide (d < s.diesOf) && decide (x < 32) && decide (y < 32) && (nget s.found (routerKey d x y)).isNone &&
  ((decide (x = 0) && decide (y = 0)) || (decide (0 < x) && (nget s.found (routerKey d (x - 1) y)).isSome) ||
    (decide (0 < y) && (nget s.found (routerKey d x (y - 1))).isSome))

/-- A router takes its coordinates and forwards the flit (R455). -/
def State.discoveryFlit (s : State) (d x y : Nat) : Option State :=
  if s.flitAt d x y then some { s with found := nset s.found (routerKey d x y) true } else none

/-- DISCOVERY_FLIT. -/
def execDiscoveryFlit (die x y : Nat) (s : State) : Host.Outcome State Fault Refusal := move s (s.discoveryFlit die x y)

/-- Every router has reported. -/
def State.discovered (s : State) : Bool := decide (1024 * s.diesOf ≤ s.found.length)

/-- Reports are still missing 512 nc after power-good. -/
def State.discoveryTimeout (s : State) : Option State :=
  if s.stage = 3 ∧ !s.discovered ∧ Config.discoveryNc ≤ Config.ncPerCc * (s.cycle - s.powerAt) then some (s.failStart 2) else none

/-- DISCOVERY_TIMEOUT. -/
def execDiscoveryTimeout (s : State) : Host.Outcome State Fault Refusal := move s s.discoveryTimeout

/-- The check of the firmware image in the module's store: its reason, or 0 (R454). -/
def State.imageReason (s : State) : BitVec 4 :=
  let l := Memory.read s.store 0 192
  let len := byteField l 0x08 8
  let key := (l.drop 0x10).take 32
  let fits := decide (192 + len ≤ 2 ^ 24)
  if byteField l 0 4 ≠ 0x39574C5A ∨ byteField l 0x70 16 ≠ 0 ∨ !fits then 6
  else if fromBytes (sha512 key) ≠ s.fixed.rootHash.toNat then 6
  else if fromBytes (sha512 (Memory.read s.store 192 len)) ≠ byteField l 0x30 64 then 6
  else if !edVerify key (l.take 0x80) ((l.drop 0x80).take 64) then 6
  else if byteField l 0x04 4 < s.fixed.svnMin.toNat then 7
  else 0

/-- The worlds that firmware sets as it starts (18 R398; 23 R453). -/
def State.setWorlds (s : State) (l : List (Nat × Bool)) : State :=
  { s with worlds := l.foldl (fun m x => nset m x.1 x.2) s.worlds }

/-- The next stage of a start that waits for nothing; none when none is under way, discovery is, or the stage hangs. -/
def State.bootStage (s : State) : Option State :=
  let env := s.env
  if s.stage < 7 ∧ env.hang = some s.stage then none
  else if s.stage = 1 then some s.stage2Boot
  else if s.stage = 3 then
    if !s.discovered then none
    else if s.diesOf ≠ 1 ∧ !env.linksOk then some (s.failStart 3)
    else some { s with stage := 4 }
  else if s.stage = 4 then
    if s.hbmSize ≠ 0 ∧ !env.hbmOk then some (s.failStart 4)
    else if s.tierSize ≠ 0 ∧ !env.tierOk then some (s.failStart 5)
    else some { s with stage := 5 }
  else if s.stage = 5 then
    let r := s.imageReason
    some (if r = 0 then { s with stage := 6 } else s.failStart r)
  else if s.stage = 6 then
    some ((env.badCores.foldl State.outOfService { s with stage := 7 }).setWorlds env.worlds)
  else if s.stage = 7 then some { s with bootMode := 1, stage := 8 }
  else none

/-- Power-good: stage 1 of a start, with QUARTZ at 0. -/
def State.powerGood (s : State) (env : BootEnv) : State :=
  { (State.coldStart s) with stage := 1, bootEnv := some env }

/-- POWER_GOOD. -/
def execPowerGood (env : BootEnv) (s : State) : Host.Outcome State Fault Refusal := .next (s.powerGood env)

/-- A start that has not reached stage 7 in time. -/
def State.startExpired (s : State) : Option State :=
  if 1 ≤ s.stage ∧ s.stage < 7 ∧ s.powerAt + Config.startLimit ≤ s.cycle then some (s.failStart 8) else none

/-- START_TIMER_EXPIRY. -/
def execStartTimerExpiry (s : State) : Host.Outcome State Fault Refusal := move s s.startExpired

/-- BOOT_OK. -/
def execBootOk (s : State) : Host.Outcome State Fault Refusal := .next s.bootOk

/-- POWER_LOSS: what nonvolatile store holds stays, and nothing else does. -/
def execPowerLoss (s : State) : Host.Outcome State Fault Refusal := .next { (State.coldStart s) with bootEnv := none }

end Sys2Proof.Machine
end

