-- ==== Sys2Proof/Machine/Fetch.lean ====
section
/-! DEFINITION. Fetching: the word at a thread's PC, and the traps of a word that cannot be fetched or decoded (03 R54, R87,
R88; 04 R111; 11 R258, R267). -/

namespace Sys2Proof.Machine

/-- What the fetch of an instruction word asks of the checks. -/
def fetchWant : Want := { kind := 3, size := 4 }

/-- The word that a core uses for an address: the one now in memory, or an older one that it has fetched before (R258). -/
def State.cachedWord (s : State) (core part pa : Nat) : State × InstrWord :=
  let w : InstrWord := BitVec.ofNat 32 (s.num pa 4)
  let fill (s : State) : State := s.modPCore core part fun p => { p with icache := nset p.icache (pa / 4) w }
  match nget (s.pcore core part).icache (pa / 4) with
  | none => (fill s, w)
  | some old =>
    if old = w then (s, w)
    else
      let t := { s with freeCtr := s.freeCtr + 1 }
      if Config.useCached s.freeCtr then (t, old) else (fill t, w)

/-- The word at a thread's PC, or the failure of its fetch. A word in another package, where nothing answers, and a poisoned
one are refused at their homes. -/
def State.fetch (s : State) (tid : Nat) (th : Thread) : State × Except XFail InstrWord :=
  match s.check (whoIs tid th) fetchWant th.pc with
  | (s, .error f) => (s, .error f)
  | (s, .ok p) =>
    let lab := s.labelAt p.pa p.leaf.lab
    if s.away p.leaf then (s, .error (xphys .memPa th.pc p.pa 3 lab))
    else if s.isPoisoned p.pa 4 then (s, .error (xphys .memPoison th.pc p.pa 3 lab))
    else
      let (s, w) := s.cachedWord (coreOf tid) th.part p.pa
      (s, .ok w)

/-- ILLEGAL_OP: the word and the reason that the decoder gives for it. -/
def execIllegalOp (w : InstrWord) (r : IllReason) (s : State) : Host.Outcome State Fault Refusal :=
  match s.thread? s.cur with
  | none => .fault .noThread
  | some th =>
    let th := th.settle s.rot
    .next (s.conclude (.nop 0) s.cur false (match th.strayed with
      | some p => strayedRes th s p
      | none => illegal { th with xfer := none } s w r))

/-- FETCH_FAULT: the trap of the word at the PC, when its fetch fails. -/
def execFetchFault (s : State) : Host.Outcome State Fault Refusal :=
  match s.thread? s.cur with
  | none => .fault .noThread
  | some th =>
    let th := th.settle s.rot
    match th.strayed with
    | some p => .next (s.conclude (.nop 0) s.cur false (strayedRes th s p))
    | none =>
      match s.fetch s.cur th with
      | (_, .ok _) => .next s
      | (t, .error f) => .next (s.conclude (.nop 0) s.cur false (f.trap { th with xfer := none } t))

end Sys2Proof.Machine
end

