-- ==== Sys2Proof/Machine/Auto.lean ====
section
/-! DEFINITION. What happens without a word: the passing of one core cycle, the moves that the machine takes by itself and
the order in which it takes them, and whose turn it is (02 R44, R45; 08 R178, R179, R208 to R212; 12 R277; 20 R432;
22 R446; 23 R460). The spec leaves the order of moves open; the model fixes one (log 5). -/

namespace Sys2Proof.Machine

/-! ### One core cycle -/

/-- Whether a timed group or its partition on a core stands still (08 R209). -/
def State.vccStops (s : State) (g : TGroup) (core : Nat) : Bool :=
  g.pausedIn s.rot || decide (s.rot < (s.pcore core g.part).frozenTo)

/-- The virtual cycle counters of a group advance. -/
def State.tickGroup (s : State) (g : TGroup) : TGroup :=
  if g.started then { g with vcc := g.vcc.map fun (c, n) => (c, if s.vccStops g c then n else n + 1) } else g

/-- Whether the hold clock of a visit stands still (15 R365). A holder that csave has vacated is still the bound thread (21
R436). -/
def State.clockStops (s : State) (g : Engine) (core n : Nat) : Bool :=
  decide (s.rot < (s.pcore core g.part).frozenTo) ||
  (let b := s.bslot core g.part n
   let holder := match (s.pcore core g.part).vacated.find? fun x => decide (x.1 = b.holder.toNat) with
     | some x => some x.2
     | none => s.thread? (tidOf core b.holder.toNat)
   b.bound && (match holder.bind fun th => th.timed.bind (nget s.tgroups ·) with
    | some t => t.started && t.pausedIn s.rot
    | none => false))

/-- The hold clock of a tour's visit advances. -/
def State.tickEngine (s : State) (g : Engine) : Engine :=
  if g.kind = .tour && g.ended.isNone &&
      (decide (g.pos = BeadPos.waiting) || decide (g.pos = BeadPos.landing) || decide (g.pos = BeadPos.held)) then
    match stopPlace g with
    | some (core, n) => if s.clockStops g core n then g else { g with clock := g.clock + 1 }
    | none => g
  else g

/-- The live threads of a partition whose turn comes in this cycle on a die. -/
def State.liveTurns (s : State) (d part : Nat) : Nat :=
  (s.threads.filter fun (t, th) => decide (dieOf (coreOf t) = d) && decide (th.part = part) && decide (slotOf t = s.cycle % 8)).length

/-- What one cycle does to a partition's part of a die: WD.CNT (20 R432). -/
def State.tickPDie (s : State) (d part : Nat) (p : PDie) : PDie :=
  if s.wdPaused part then p else { p with wdCnt := p.wdCnt + BitVec.ofNat 64 (s.liveTurns d part) }

/-- What one cycle does to a die: the watchdogs, DROOP.CNT.STR and PWR.THR. -/
def State.tickDie (s : State) (d : Nat) (x : Die) : Die :=
  { x with
    parts := Vector.ofFn fun i => s.tickPDie d i.val (x.parts.get i)
    droopStr := if s.stretched then x.droopStr + 1 else x.droopStr
    pwrRot := if s.throttled && decide (s.cycle % 8 = 7) then x.pwrRot + 1 else x.pwrRot }

/-- The nominal cycles that pass in this core cycle: a stretched cycle is longer by one third, and one may be withheld
from the quartz (23 R460, 22 R446). -/
def State.quartzStep (s : State) : Word :=
  (if s.slewHold then 0 else 1) + (if s.stretched && decide ((s.die 0).droopStr.toNat % 3 = 2) then 1 else 0)

/-- A pause ends with the rotation before the one named to resume in. -/
def TGroup.endPause (rot : Nat) (g : TGroup) : TGroup :=
  match g.resumeAt with
  | some r => if r ≤ rot then { g with pausedFrom := none, resumeAt := none, late := none } else g
  | none => g

/-- A new rotation begins: pauses end, and every thread that is held loses it. -/
def State.newRotation (s : State) : State :=
  let s := { s with rotQuartz := s.quartz, tgroups := s.tgroups.map fun (k, (g : TGroup)) => (k, g.endPause s.rot) }
  (s.threads.filter fun x => s.heldIn s.rot x).foldl (fun s x => s.loseRot s.rot x) s

/-- The first move that is enabled. -/
def firstMove {α : Type} (f : α → Option State) : List α → Option State
  | [] => none
  | x :: l => match f x with
    | some s => some s
    | none => firstMove f l

/-- The first enabled of several kinds of move. -/
def firstOf : List (State → Option State) → State → Option State
  | [], _ => none
  | f :: l, s => match f s with
    | some t => some t
    | none => firstOf l s

/-- A turn that a stall count makes a bubble is a turn all the same (08 R178): a pending event is taken at it (20 R411). -/
def State.bubble (s : State) (x : Nat × Thread) : State :=
  if s.atTurn x && decide (s.rot < x.2.nextRot) then
    (firstOf [fun s => s.firmWake x.1, fun s => s.takePending x.1] s).getD s
  else s

/-- The turns of a cycle that are bubbles for a stall count. -/
def State.bubbles (s : State) : State := s.threads.foldl State.bubble s

/-- One core cycle passes. -/
def State.tick (s : State) : State :=
  let t := { s with
    cycle := s.cycle + 1
    quartz := s.quartz + s.quartzStep
    slewHold := false
    tgroups := s.tgroups.map fun (k, g) => (k, s.tickGroup g)
    engines := s.engines.map fun (k, g) => (k, s.tickEngine g)
    dies := Vector.ofFn fun i => s.tickDie i.val (s.dies.get i) }
  (if t.cycle % 8 = 0 then t.newRotation else t).bubbles

/-! ### Moves that need no word -/

/-- Dies and partitions. -/
def diePairs : List (Nat × Nat) := (nums 2).flatMap fun d => (nums 4).map fun q => (d, q)

/-- The numbers of the routers of a package. -/
def routers (n : Nat) : List (Nat × Nat × Nat) :=
  (nums n).flatMap fun d => (nums 32).flatMap fun y => (nums 32).map fun x => (d, x, y)

/-- A start under way (23 R453, R455). Cycles pass while a stage makes no progress or reports are missing. -/
def autoBoot (s : State) : Option State :=
  if s.stage = 0 ∨ s.stage = 8 then none
  else firstOf [State.startExpired, State.discoveryTimeout, State.bootStage, fun s => firstMove (fun (d, x, y) => s.discoveryFlit d x y) (routers s.diesOf)] s

/-- A configuration request that is being applied is done (23 R459). -/
def autoCfg (s : State) : Option State :=
  firstMove (fun d => if (s.die d).cfgBusy then some (s.cfgDone d) else none) (nums 2)

/-- Visits whose hold has run out, a cycle after HOLD so that a bpass of that cycle comes first (15 R365). -/
def autoHold (s : State) : Option State := firstMove (fun (e, _) => s.holdExpiry e 1) s.engines

/-- Waits whose limit has passed in the cycle before, and timed commands that are missing as a rotation begins (09 R217, 14 R331):
they come first, so that nothing of the present cycle comes between. -/
def autoLimit (s : State) : Option State :=
  firstOf [fun s => firstMove (fun (t, (_ : Thread)) => s.waitExpired t) s.threads,
    fun s => firstMove (fun (c, (_ : Core)) => s.missFreeze c) s.cores] s

/-- New budget epochs, before the cycle's messages (22 R450). -/
def autoEpoch (s : State) : Option State := firstMove (fun p => s.budgetEpoch p) (nums 4)

/-- The moves of one timed group. -/
def autoTimed (s : State) : Option State :=
  firstMove (fun (k, (g : TGroup)) =>
    firstOf [fun s => s.pauseNotice k, fun s => s.pauseResume k, fun s => firstMove (s.timingLag k) g.cores,
      fun s => s.timedStart k, fun s => s.tgBoundUp k] s) s.tgroups

/-- Messages: responses complete, homes perform, channels deliver. -/
def autoNet (s : State) : Option State :=
  firstOf [fun s => firstMove (fun (n, _) => s.complete n) s.inbox,
    fun s => firstMove (fun (n, _) => firstOf [fun s => s.performHead n, fun s => s.withdrawHead n] s) s.arrivals,
    fun s => firstMove (fun ((a, b, pl), _) => s.deliver a b pl) s.channels] s

/-- Matrix units. -/
def autoMatrix (s : State) : Option State :=
  firstMove (fun (c, _) => firstOf [fun s => s.mxComplete c, fun s => s.mxStart c] s) s.cores

/-- Slow results that are due at the latest, and scheduled accesses. -/
def autoResult (s : State) : Option State :=
  firstMove (fun (t, (th : Thread)) =>
    match th.park.map (fun (p : Park) => p.cond) with
    | some (.divide _ due _ _) => if due ≤ s.cycle then s.divideResult t else none
    | some (.vdivide _ due _ _ _ _) => if due ≤ s.cycle then s.vectorDivideResult t else none
    | some .engineRoom => s.fork t
    | some (.ship _ _ _) => s.shipOut t
    | _ => if th.sched.any fun x => s.schedReady t th x then s.resultWrite t else none) s.threads

/-- Engine threads. -/
def autoEngine (s : State) : Option State :=
  firstMove (fun (e, _) =>
    firstOf [fun s => s.startOffset e, fun s => s.beadLanded e, fun s => s.engineStep e, fun s => s.copyFill e,
      fun s => s.followOn e, fun s => s.copyFollow e, fun s => s.beadArrival e, fun s => s.finishEngine e] s) s.engines

/-- A partition's moves on a core: beads that depart, the next migrant, and the switch. -/
def autoPCore (s : State) (core part : Nat) : Option State :=
  firstOf [fun s => firstMove (fun n => s.beadDeparture core part n) (nums 16), fun s => s.migrantResident core part,
    fun s => s.preemptTimeout core part, fun s => s.drainLimit core part, fun s => s.switchedOut core part] s

/-- The moves of a core: those of its partitions, and scrubs that have lasted their time. -/
def autoCore (s : State) : Option State :=
  firstMove (fun (c, (x : Core)) =>
    firstOf [fun s => firstMove (fun p => autoPCore s c p) (nums 4),
      fun s => firstMove (fun (k, t) => if t + Config.scrubMax ≤ s.cycle + 1 then s.scrubEnd (tidOf c k) else none) x.scrubs] s) s.cores

/-- Frees of pages whose translations have drained (11 R272). -/
def autoPool (s : State) : Option State :=
  firstMove (fun (m : Msg) => match m.owner with | .thread t _ => s.pfreeStep t | _ => none) s.waiters

/-- Dispatchers. -/
def autoDeal (s : State) : Option State :=
  if s.launches.isEmpty then none
  else firstOf [fun s => firstMove (fun (k, _) => s.launchCompletion k) s.launches,
    fun s => firstMove (fun (k, _) => s.launchAging k) s.launches,
    fun s => firstMove (fun (d, p) => s.groupDeal d p) diePairs] s

/-- Barriers; one that spans packages completes only by its own row (22 R445). -/
def autoBarrier (s : State) : Option State :=
  firstMove (fun ((k : BarKey), _) =>
    if k.scope = .pod && decide ((s.pp k.part).podCfg.extractLsb' 32 8 ≠ 0) then none else s.barrierComplete k) s.barriers

/-- Watchdogs and interrupt requests. -/
def autoRest (s : State) : Option State :=
  firstOf [fun s => firstMove (fun (d, p) => s.hang d p) diePairs,
    fun s => firstMove (fun p => if (s.pp p).intReqs.isEmpty then none else some (s.intArrive p)) (nums 4)] s

/-- The move that the machine takes by itself, in the model's order. -/
def State.auto (s : State) : Option State :=
  firstOf [autoLimit, autoEpoch, autoBoot, autoCfg, autoHold, autoTimed, autoNet, autoMatrix, autoResult, autoEngine, autoCore, autoPool, autoDeal,
    autoBarrier, autoRest] s

/-! ### Inputs -/

/-- Whether a row from outside may be taken now: an XLAT.INV write waits for the accesses translated before (11 R270). -/
def State.inputReady (s : State) (i : Instr) : Bool :=
  match i with
  | .xlatInvPage part page => s.invDrained part (invWord 0 page)
  | .xlatInvAll part => s.invDrained part (invWord 1 0)
  | .xlatInvStage2 part page => s.invDrained part (invWord 2 page)
  | .registerWrite _ _ off v => s.writeReady off v
  | _ => true

/-- The first row that may be taken, and the others in order: one that waits keeps none behind it. -/
def State.pickInput (s : State) : List Instr → Option (Instr × List Instr)
  | [] => none
  | i :: l => if s.inputReady i then some (i, l) else (s.pickInput l).map fun x => (x.1, i :: x.2)

/-- The row that is taken next from outside, and the state without it. -/
def State.nextInput (s : State) : Option (Instr × State) := (s.pickInput s.inputs).map fun x => (x.1, { s with inputs := x.2 })

/-! ### Turns (02 R44, R45; 08 R178, R179) -/

/-- What a thread does at its turn. -/
inductive Turn where
  /-- A move that is no word. -/
  | move (s : State)
  /-- A word. -/
  | run (i : Instr) (s : State)
  /-- A word that the decoder refuses. -/
  | illegal (w : InstrWord) (r : IllReason) (s : State)
  /-- A word whose fetch fails. -/
  | noFetch (s : State)

/-- A thread that waits for nothing: its word goes on, or the word at its PC is fetched. -/
def State.issueAt (s : State) (tid : Nat) (th : Thread) : Turn :=
  match th.again with
  | some a => .run a.instr { s with cur := tid }
  | none =>
    match s.fetch tid th with
    | (_, .error _) => .noFetch { s with cur := tid }
    | (t, .ok w) => match decode w with
      | .ok i => .run i { t with cur := tid }
      | .error r => .illegal w r { t with cur := tid }

/-- Whether a thread issues no word for now: it is parked, or its group has left timed mode and scheduled accesses that its words may
read are still to come (02 R46, 08 R215). -/
def State.noIssue (s : State) (x : Nat × Thread) : Bool := x.2.park.isSome || (!x.2.sched.isEmpty && !s.isTimed x.1 x.2)

/-- What a thread does in this cycle: a wait word that has been waited out goes on, then a pending event is taken, and then any other
park whose condition holds ends (02 R45; 20 R411). -/
def State.turnOf (s : State) (x : Nat × Thread) : Option Turn :=
  if !s.mayAct x then none
  else match firstOf [fun s => s.firmWake x.1, fun s => s.takePending x.1, fun s => s.parkWake x.1] s with
    | some t => some (.move t)
    | none => if s.noIssue x then none else some (s.issueAt x.1 x.2)

/-- The first thread that does something in this cycle. -/
def State.turn (s : State) : Option Turn := s.threads.findSome? s.turnOf

/-! ### A word placed where the next step fetches it -/

/-- The range entry that maps the first 4 MiB of HBM for execution, as its 32 bytes: BASE, LIMIT, OFFSET, ATTR, LABEL
(11 R263). -/
def placeRange : List Byte := toBytes 8 0 ++ toBytes 8 0x400000 ++ toBytes 8 0 ++ toBytes 4 5 ++ toBytes 4 0

/-- Where the word is placed, and where the range table is. -/
def placePc : Nat := 0x10000
/-- The address of the range table. -/
def placeTable : Nat := 0x1000

/-- Partition 0 with slots 0 and 1 of each core of die 0. -/
def placePart (p : PDie) : PDie := { p with v := true, smask := 3, nbank := 4, lbank := 0 }

/-- The thread that runs the word: a fresh compute thread of partition 0 in slot 1 of core 0. -/
def placeThread (rot : Nat) : Thread := { Thread.fresh 0 .compute 0 (BitVec.ofNat 64 placePc) 0 true rot with strN := 1 }

/-- A machine that has started and whose next step fetches and runs the given bytes: one compute thread at its turn, with nothing
else to do. -/
def State.place (s : State) (l : List Byte) : State :=
  let s := (s.modPDie 0 0 placePart).modPP 0 fun p => { p with s1 := 0, s2 := 0, rng := BitVec.ofNat 64 (placeTable + 1) }
  let s := (s.putBytes placeTable (placeRange.map some)).putBytes placePc (l.map some)
  { s with bootMode := 1, cycle := s.cycle / 8 * 8 + 1, threads := [(1, placeThread 0)], inputs := [] }

end Sys2Proof.Machine
end

