-- ==== Sys2Proof/Machine/Branch.lean ====
section
/-! DEFINITION. Branches, calls and jumps (04 R106 to R112). -/

namespace Sys2Proof.Machine

/-- The target of a branch: PC + 4 × OFF, widened by limm (04 R107, R109). -/
def branchTo (th : Thread) {w : Nat} (o : BitVec w) : Word := th.pc + BitVec.ofInt 64 (4 * immS th.chain o)

/-- A branch: CTXL takes the deciding label, taken or not (04 R106); a branch not taken goes to the next word. -/
def branch (i : Instr) (s : State) (taken : Thread → Bool) (lab : Thread → Label) {w : Nat} (o : BitVec w) :
    Host.Outcome State Fault Refusal :=
  issue i s fun th s => .jump (th.widen (lab th)) s (if taken th then branchTo th o else th.pc + 4)

/-- br (04 R107). -/
def execBr (st : Stall) (p : PReg) (n : Bool) (o : BitVec 20) (s : State) : Host.Outcome State Fault Refusal :=
  branch (.br st p n o) s (fun th => th.pv n p) (fun th => th.pl p) o

/-- brnz (04 R109). -/
def execBrnz (st : Stall) (r : SReg) (o : BitVec 17) (s : State) : Host.Outcome State Fault Refusal :=
  branch (.brnz st r o) s (fun th => decide (th.sv r ≠ 0)) (fun th => th.sl r) o

/-- brz (04 R109). -/
def execBrz (st : Stall) (r : SReg) (o : BitVec 17) (s : State) : Host.Outcome State Fault Refusal :=
  branch (.brz st r o) s (fun th => decide (th.sv r = 0)) (fun th => th.sl r) o

/-- call: when taken, s63 takes the return address with the widened CTXL (04 R108). A taken call is a write of s63 that
02 R49 checks. -/
def execCall (st : Stall) (p : PReg) (n : Bool) (o : BitVec 20) (s : State) : Host.Outcome State Fault Refusal :=
  issue (.call st p n o) s fun th s =>
    let th' := th.widen (th.pl p)
    if th.pv n p then
      match (if th.sbc then (producers th []).find? fun w =>
          decide (w.dest = .s 63) && decide (s.rot < w.due) else none) with
      | some w => stallShort th s w s.rot
      | none => .jump (th'.putS 63 (th.pc + 4) th'.ctxl) s (branchTo th o)
    else .jump th' s (th.pc + 4)

/-- The information of JUMP.TARGET (04 Table 4.8). -/
def targetInfo (g : Word) : Word := BitVec.ofNat 64 (b2n (g.toNat / 2 ^ 56 != 0) * 2 + b2n (g.toNat % 4 != 0))

/-- An address that no jump may go to (04 R110). -/
def badTarget (g : Word) : Bool := decide (g.toNat % 4 ≠ 0) || decide (g.toNat / 2 ^ 56 ≠ 0)

/-- jr (04 R110). -/
def execJr (st : Stall) (a : SReg) (s : State) : Host.Outcome State Fault Refusal :=
  issue (.jr st a) s fun th s =>
    let g := th.sv a
    let th := th.widen (th.sl a)
    if badTarget g then .trap th s .jumpTarget g (targetInfo g) 0 else .jump th s g

/-- jalr (04 R110). -/
def execJalr (st : Stall) (d a : SReg) (s : State) : Host.Outcome State Fault Refusal :=
  issue (.jalr st d a) s fun th s =>
    let g := th.sv a
    let th := th.widen (th.sl a)
    if badTarget g then .trap th s .jumpTarget g (targetInfo g) 0
    else .jump (th.putS d (th.pc + 4) th.ctxl) s g

end Sys2Proof.Machine
end

