-- ==== Sys2Proof/Machine/Hint.lean ====
section
/-! DEFINITION. The hint words (03 R79 to R84; 20 R424, R425). -/

namespace Sys2Proof.Machine

/-- nop (03 R80). -/
def execNop (st : Stall) (s : State) : Host.Outcome State Fault Refusal := issue (.nop st) s fun th s => .done th s

/-- sched.trip: it changes no architectural state (03 R80). -/
def execSchedTrip (st : Stall) (n : BitVec 16) (s : State) : Host.Outcome State Fault Refusal :=
  issue (.schedTrip st n) s fun th s => .done th s

/-- sched.bias: it changes no architectural state (03 R80). -/
def execSchedBias (st : Stall) (b : Bool) (s : State) : Host.Outcome State Fault Refusal :=
  issue (.schedBias st b) s fun th s => .done th s

/-- A hint of a reserved kind: it changes no architectural state (03 R80). -/
def execReservedHint (st : Stall) (k : BitVec 4) (p : BitVec 18) (s : State) : Host.Outcome State Fault Refusal :=
  issue (.reservedHint st k p) s fun th s => .done th s

/-- The information of a signature word that does not match (20 R425). -/
def sigInfo (th : Thread) (g : BitVec 16) : Word :=
  th.flint.setWidth 64 ||| (g.setWidth 64 <<< 16) ||| (if th.lastBad = some th.pc then 1#64 <<< 32 else 0)

/-- A signature word: it compares the running signature with its payload as it retires (20 R424, R425). -/
def execSig (st : Stall) (g : BitVec 16) (s : State) : Host.Outcome State Fault Refusal :=
  issue (.sig st g) s fun th s =>
    if th.flint = g then .done { th with lastBad := none } s
    else .detected { th with lastBad := some th.pc } s true th.pc (sigInfo th g)

/-- limm (03 R82). -/
def execLimm (l : BitVec 20) (s : State) : Host.Outcome State Fault Refusal := issuePrefix (.limm l) s
/-- rnd (03 R83). -/
def execRnd (m : RMode) (s : State) : Host.Outcome State Fault Refusal := issuePrefix (.rnd m) s
/-- sround (03 R83). -/
def execSround (s : State) : Host.Outcome State Fault Refusal := issuePrefix .sround s
/-- spar (03 R83). -/
def execSpar (t : TReg) (p : SpPat) (s : State) : Host.Outcome State Fault Refusal := issuePrefix (.spar t p) s
/-- itin.opts (03 R83). -/
def execItinOpts (n : Bool) (s : State) : Host.Outcome State Fault Refusal := issuePrefix (.itinOpts n) s

end Sys2Proof.Machine
end

