-- ==== Sys2Proof/Machine/Label.lean ====
section
/-! DEFINITION. Label words: reading labels, widening CTXL, installing a release policy, releasing (18 R399 to R404). -/

namespace Sys2Proof.Machine

/-! ### Reading labels (18 R399, R400) -/

/-- A label read: the result carries the label that it reports. -/
def readLabel (i : Instr) (s : State) (d : SReg) (f : Thread → Label × Tag) : Host.Outcome State Fault Refusal :=
  issue i s fun th s =>
    let (l, g) := f th
    .done (th.putS d (BitVec.ofNat 64 (l.toNat + g.toNat * 2 ^ 16)) (l ||| th.ctxl)) s

/-- lrd. -/
def execLrd (st : Stall) (d a : SReg) (s : State) : Host.Outcome State Fault Refusal :=
  readLabel (.lrd st d a) s d fun th => (th.sl a, 0)

/-- lrdp. -/
def execLrdp (st : Stall) (d : SReg) (a : PReg) (s : State) : Host.Outcome State Fault Refusal :=
  readLabel (.lrdp st d a) s d fun th => (th.pl a, 0)

/-- lrdv. -/
def execLrdv (st : Stall) (d : SReg) (a : VReg) (s : State) : Host.Outcome State Fault Refusal :=
  readLabel (.lrdv st d a) s d fun th => ((th.vreg a).lab, (th.vreg a).tag)

/-- lrdk. -/
def execLrdk (st : Stall) (d : SReg) (a : KReg) (s : State) : Host.Outcome State Fault Refusal :=
  readLabel (.lrdk st d a) s d fun th => ((th.kreg a).lab, 0)

/-- lrdt. -/
def execLrdt (st : Stall) (d : SReg) (a : TReg) (s : State) : Host.Outcome State Fault Refusal :=
  readLabel (.lrdt st d a) s d fun th => ((th.treg a).lab, tsFmt (th.tsreg a))

/-- lrdb: read at the word's home. -/
def execLrdb (st : Stall) (d a : SReg) (s : State) : Host.Outcome State Fault Refusal :=
  issue (.lrdb st d a) s fun th s =>
    access1 (.lrdb st d a) s.cur th s { kind := 0, size := 8, word := true } {} (.label d (th.sl a ||| th.ctxl)) (th.sv a) fun _ => .label

/-- What lrdg reports of a mapping. -/
def leafWord (l : Leaf) : Word :=
  BitVec.ofNat 64 (l.lab.toNat + b2n l.world * 2 ^ 16 + b2n l.mx * 2 ^ 17 + b2n l.sc * 2 ^ 18 + b2n l.cm * 2 ^ 19 +
    b2n l.w * 2 ^ 20 + b2n l.rp.isSome * 2 ^ 21)

/-- lrdg: only the checks up to the leaf. -/
def execLrdg (st : Stall) (d a : SReg) (s : State) : Host.Outcome State Fault Refusal :=
  issue (.lrdg st d a) s fun th s =>
    match s.translate (whoIs s.cur th) (th.sv a) 0 with
    | (s, .error f) => f.trap th s
    | (s, .ok l) => .done (th.putS d (leafWord l) (l.lab ||| th.sl a ||| th.ctxl)) s

/-- ljoin (R400). -/
def execLjoin (st : Stall) (a : SReg) (s : State) : Host.Outcome State Fault Refusal :=
  issue (.ljoin st a) s fun th s => .done (th.widen ((th.sv a).setWidth 16 ||| th.sl a)) s

/-! ### Release policies (18 R401 to R403) -/

/-- The principals of a label set, in ascending order. -/
def principals (l : Label) : List Nat := (nums 16).filter fun i => l.getLsbD i

/-- The policy of a record, for the world of its installer. -/
def policyOf (l : List Byte) (world : Bool) : Policy where
  lset := labAt l 0x02
  dclass := byteField l 0x04 1
  dport := BitVec.ofNat 16 (byteField l 0x06 2)
  dlo := byteField l 0x20 8
  dhi := byteField l 0x28 8
  cap := byteField l 0x30 8
  count := byteField l 0x38 4
  world := world

/-- The limits of Table 18.4. -/
def policyBad (p : Policy) : Bool :=
  let top := if p.dclass = 0 then 2 ^ 48 else 2 ^ 52
  decide (1 < p.dclass) ||
  (if p.dclass = 0 then decide (p.dport.extractLsb' 1 15 ≠ 0) else decide (p.dport.extractLsb' 8 8 ≠ 0)) ||
  decide (top ≤ p.dlo) || decide (top < p.dhi) || decide (p.dhi ≤ p.dlo) || decide (p.cap = 0) || decide (p.count = 0)

/-- The first principal whose signature fails; the signatures follow the record in ascending order of principal. -/
def badSig (s : State) (l : List Byte) (ps : List Nat) : Option Nat :=
  ((ps.zip (nums ps.length)).find? fun (p, k) =>
    !edVerify (toBytes 32 (vget s.keys p).toNat) (l.take 128) ((l.drop (128 + 64 * k)).take 64)).map (·.1)

/-- The checks of gset that come before the policy table: the reason. -/
def gsetReason (s : State) (part : Nat) (l : List Byte) : Option Nat :=
  let p := policyOf l false
  let ps := principals p.lset
  if byteField l 0 2 ≠ 1 ∨ byteField l 0x3C 4 ≠ 0 ∨ byteField l 0x60 32 ≠ 0 then some 1
  else if wordAt l 0x08 ≠ s.fixed.serial ∨ wordAt l 0x10 ≠ s.fixed.gateBoot then some 2
  else if byteField l 0x05 1 ≠ part then some 3
  else if p.lset = 0 ∨ !fits p.lset s.prinMap then some 4
  else if policyBad p then some 5
  else match badSig s l ps with
  | some i => some (6 + i * 2 ^ 8)
  | none => none

/-- The lowest free place of a policy table. -/
def freePlace (p : PPkg) : Option Nat := (nums 16).find? fun e => (vget p.policies e).isNone

/-- gset at the policy table: its status. -/
def gsetStep (s : State) (part : Nat) (world : Bool) (l : List Byte) : State × Word :=
  let fail (n : Nat) : Word := BitVec.ofNat 64 (2 ^ 63 + n)
  match gsetReason s part l with
  | some r => (s, fail r)
  | none =>
    let seq := byteField l 0x18 8
    if seq ≤ (s.pp part).mark then (s, fail 7)
    else match freePlace (s.pp part) with
    | none => (s, fail 8)
    | some e =>
      (s.modPP part fun p => { p with policies := vset p.policies e (some (policyOf l world)), mark := seq },
        BitVec.ofNat 64 e)

/-- Lines of 64 bytes from an address, to be read. -/
def linesAt (a : Word) (n : Nat) : List Piece :=
  (nums n).map fun k => ⟨a + BitVec.ofNat 64 (64 * k), a + BitVec.ofNat 64 (64 * k), 64 * k, 64, fun _ => .read 64⟩

/-- gset (R403): the record, then its signatures, then the table. -/
def execGset (st : Stall) (d a : SReg) (s : State) : Host.Outcome State Fault Refusal :=
  issue (.gset st d a) s fun th s =>
    let i : Instr := .gset st d a
    let read (th : Thread) (s : State) (at_ : Word) (n next : Nat) : Res :=
      access i s.cur th s { kind := 0, size := 64 } { ships := false, sched := false } (.resume next) (linesAt at_ n)
    let l := th.readSoFar
    let n := (principals (labAt l 0x02)).length
    if th.phase = 0 then read th s (th.sv a) 2 1
    else if th.phase = 1 && decide (n ≠ 0) then read th s (th.sv a + 128) n 2
    else
      let (s, r) := gsetStep s th.part th.world l
      .done (th.putS d r (th.labSoFar ||| th.sl a ||| th.ctxl)) s

/-! ### rel (18 R404) -/

/-- Whether a destination piece of `len` bytes matches a policy. -/
def matchesPiece (p : Policy) (x : Place) (len : Nat) : Bool :=
  match x.leaf.rp with
  | some k => decide (p.dclass = 1) && decide (k = p.dport.toNat % 256) && decide (p.dlo ≤ x.pa) && decide (x.pa + len ≤ p.dhi)
  | none =>
    let da := x.pa % 2 ^ 48
    decide (p.dclass = 0) && decide (x.pa / 2 ^ 48 % 2 = p.dport.toNat % 2) && decide (p.dlo ≤ da) && decide (da + len ≤ p.dhi)

/-- Whether a policy serves a release. -/
def serves (p : Policy) (world : Bool) (lab : Label) (n : Nat) (l : List (Place × Nat)) : Bool :=
  (p.world == world) && fits lab p.lset && decide (n ≤ p.cap) && decide (1 ≤ p.count) && l.all fun x => matchesPiece p x.1 x.2

/-- The decision at the policy table: the place used. -/
def relTake (s : State) (part : Nat) (world : Bool) (lab : Label) (n : Nat) (l : List (Place × Nat)) : Option (State × Nat) :=
  match (nums 16).find? fun e => (match vget (s.pp part).policies e with | some p => serves p world lab n l | none => false) with
  | none => none
  | some e =>
    some (s.modPP part fun p => { p with policies := vset p.policies e (match vget p.policies e with
      | some x => if x.cap = n ∨ x.count = 1 then none else some { x with cap := x.cap - n, count := x.count - 1 }
      | none => none) }, e)

/-- A rel that ends without a write. -/
def relDenied (th : Thread) (s : State) (d : SReg) (r : Word) (lab : Label) : Res :=
  .done (th.putS d r lab) (s.denied th.part)

/-- The operands that rel refuses before anything else. -/
def relBad (n src dst : Word) : Bool :=
  decide (n < 8) || decide (65536 < n) || decide (n.toNat % 8 ≠ 0) || decide (src.toNat % 8 ≠ 0) || decide (dst.toNat % 8 ≠ 0)

/-- The pieces of a release, to be written with bytes `l`. -/
def relPieces (dst : Word) (l : List Byte) : List Piece :=
  (piecesOf dst l.length).map fun (o, k) =>
    ⟨dst + BitVec.ofNat 64 o, dst + BitVec.ofNat 64 o, o, k, fun _ => .write (((l.drop o).take k).map some)⟩

/-- The destination pieces translated as writes. -/
def State.relDest (s : State) (tid : Nat) (th : Thread) (dst : Word) (n : Nat) : State × Except XFail (List Place) :=
  s.checkAll (whoIs tid th) { kind := 1, size := 8, word := true }
    ((piecesOf dst n).map fun (o, k) => (dst + BitVec.ofNat 64 o, k))

/-- rel from its arguments to the reading of its source. -/
def relStart (i : Instr) (tid : Nat) (th : Thread) (s : State) (d a b : SReg) : Res :=
  let n := (th.sv d).toNat
  let src := th.sv a
  let want : Want := { kind := 0, size := 8, word := true }
  let ps : List Piece := (piecesOf src n).map fun (o, k) =>
    ⟨src + BitVec.ofNat 64 o, src + BitVec.ofNat 64 o, o, k, fun _ => .read k⟩
  if relBad (th.sv d) src (th.sv b) then relDenied th s d 0x83 th.ctxl
  else match s.checkAll (whoIs tid th) want (ps.map fun x => (x.addr, x.size)) with
  | (s, .error f) => f.trap th s
  | (s, .ok sp) =>
    match s.relDest tid th (th.sv b) n with
    | (s, .error f) => f.trap th s
    | (s, .ok dp) =>
      if sp.any fun (p : Place) => decide (spaceOf p.pa = 3) then relDenied th s d 0x83 th.ctxl
      else if dp.any fun (p : Place) => !p.egress then relDenied th s d 0x81 th.ctxl
      else access i tid th s want { ships := false, sched := false } (.resume 1) ps

/-- The writing of a release: its pieces are sent one after another, each when the one before has been acknowledged, with the empty
label. -/
def relSend (i : Instr) (th : Thread) (s : State) (d : SReg) (r : Word) (lab : Label) (l : List Msg) : Res :=
  match l with
  | [] => .done (th.putS d r lab) s
  | m :: rest =>
    .park th (s.request m) ⟨i, .access, th.firstTry s, 63, false, some (accessOf 1 [] [m] (.rel d r lab false rest)), none, none, 0, m.va,
      th.labSoFar, 0, th.readSoFar⟩

/-- rel once its source has been read: its destination's homes have no open entry of the thread (12 R283, R296); then the decision
and the writing. -/
def relDecide (i : Instr) (tid : Nat) (th : Thread) (s : State) (d a b : SReg) : Res :=
  let l := th.readSoFar
  let lab := th.labSoFar ||| th.sl a ||| th.sl b ||| th.sl d ||| th.ctxl
  match s.relDest tid th (th.sv b) l.length with
  | (s, .error f) => f.trap th s
  | (s, .ok ps) =>
    let xs := relPieces (th.sv b) l
    let homes := ps.map fun (p : Place) => p.home
    let write (s : State) (r : Word) : Res :=
      relSend i th (s.setDirties (whoIs tid th) 1 ps) d r lab
        ((xs.zip ps).map fun (x, p) => pieceMsg tid th (.thread tid th.gen) 0 x p)
    if ps.any fun (p : Place) => !p.egress then relDenied th s d 0x81 lab
    else if s.homeBusy tid th homes then parkOn th s i (s.holdOn tid th homes)
    else if fits lab (s.owner th.part) then write s 0
    else match relTake s th.part th.world lab l.length (ps.zip (xs.map (·.size))) with
    | none => relDenied th s d 0x82 lab
    | some (s, e) => write s (BitVec.ofNat 64 (0x100 + e))

/-- rel. -/
def execRel (st : Stall) (d a b : SReg) (s : State) : Host.Outcome State Fault Refusal :=
  issue (.rel st d a b) s fun th s =>
    if th.phase = 1 then relDecide (.rel st d a b) s.cur th s d a b else relStart (.rel st d a b) s.cur th s d a b

end Sys2Proof.Machine
end

