-- ==== Sys2Proof/Machine/Predicate.lean ====
section
/-! DEFINITION. Compares, predicates and select (04 R101 to R105). -/

namespace Sys2Proof.Machine

/-- The compare of two operands under an integer type (04 R101). -/
def cmpW (c : ICond) (t : ITy) (a b : Word) : Bool :=
  let x := a.toNat % 2 ^ ityW t
  let y := b.toNat % 2 ^ ityW t
  iCond c (intOf (ityS t) (ityW t) x) (intOf (ityS t) (ityW t) y) x y

/-- cmp (04 R101). -/
def execCmp (st : Stall) (p : PReg) (a b : SReg) (c : ICond) (t : ITy) (s : State) : Host.Outcome State Fault Refusal :=
  issue (.cmp st p a b c t) s fun th s =>
    .done (th.putP p (cmpW c t (th.sv a) (th.sv b)) (th.sl a ||| th.sl b ||| th.ctxl)) s

/-- cmpi: signed, with a sign-extended immediate (04 R102). -/
def execCmpi (st : Stall) (c : ICond) (p : PReg) (a : SReg) (i : BitVec 12) (s : State) :
    Host.Outcome State Fault Refusal :=
  issue (.cmpi st c p a i) s fun th s =>
    .done (th.putP p (cmpW c .i64 (th.sv a) (BitVec.ofInt 64 (immS th.chain i))) (th.sl a ||| th.ctxl)) s

/-- cmpin: unsigned, with a zero-extended immediate (04 R102). -/
def execCmpin (st : Stall) (c : ICond) (p : PReg) (a : SReg) (i : BitVec 12) (s : State) :
    Host.Outcome State Fault Refusal :=
  issue (.cmpin st c p a i) s fun th s =>
    .done (th.putP p (cmpW c .n64 (th.sv a) (BitVec.ofNat 64 (immZ th.chain i))) (th.sl a ||| th.ctxl)) s

/-- A predicate operation of two sources (04 Table 4.5). -/
def pred2 (i : Instr) (s : State) (d : PReg) (m : Bool) (a : PReg) (n : Bool) (b : PReg) (f : Bool → Bool → Bool) :
    Host.Outcome State Fault Refusal :=
  issue i s fun th s => .done (th.putP d (f (th.pv m a) (th.pv n b)) (th.pl a ||| th.pl b ||| th.ctxl)) s

/-- pand (04 Table 4.5). -/
def execPand (st : Stall) (d : PReg) (m : Bool) (a : PReg) (n : Bool) (b : PReg) (s : State) :
    Host.Outcome State Fault Refusal :=
  pred2 (.pand st d m a n b) s d m a n b fun x y => x && y

/-- por (04 Table 4.5). -/
def execPor (st : Stall) (d : PReg) (m : Bool) (a : PReg) (n : Bool) (b : PReg) (s : State) :
    Host.Outcome State Fault Refusal :=
  pred2 (.por st d m a n b) s d m a n b fun x y => x || y

/-- pxor (04 Table 4.5). -/
def execPxor (st : Stall) (d : PReg) (m : Bool) (a : PReg) (n : Bool) (b : PReg) (s : State) :
    Host.Outcome State Fault Refusal :=
  pred2 (.pxor st d m a n b) s d m a n b fun x y => x != y

/-- pmov (04 Table 4.5). -/
def execPmov (st : Stall) (d : PReg) (m : Bool) (a : PReg) (s : State) : Host.Outcome State Fault Refusal :=
  issue (.pmov st d m a) s fun th s => .done (th.putP d (th.pv m a) (th.pl a ||| th.ctxl)) s

/-- The union of the labels of p1 to p7 (04 Table 4.5). -/
def predLabels (th : Thread) : Label := labels [th.pl 1, th.pl 2, th.pl 3, th.pl 4, th.pl 5, th.pl 6, th.pl 7]

/-- mfpw (04 Table 4.5). -/
def execMfpw (st : Stall) (d : SReg) (s : State) : Host.Outcome State Fault Refusal :=
  issue (.mfpw st d) s fun th s => .done (th.putS d (th.predWord.setWidth 64) (predLabels th ||| th.ctxl)) s

/-- The seven predicates written as one (04 Table 4.5). -/
def putPredWord (th : Thread) (x : Word) (l : Label) : Thread :=
  [1#3, 2#3, 3#3, 4#3, 5#3, 6#3, 7#3].foldl (fun th n => th.putP n (x.getLsbD n.toNat) l) th

/-- mtpw (04 Table 4.5). -/
def execMtpw (st : Stall) (a : SReg) (s : State) : Host.Outcome State Fault Refusal :=
  issue (.mtpw st a) s fun th s => .done (putPredWord th (th.sv a) (th.sl a ||| th.ctxl)) s

/-- sel (04 R105). -/
def execSel (st : Stall) (d a b : SReg) (n : Bool) (c : PReg) (s : State) : Host.Outcome State Fault Refusal :=
  issue (.sel st d a b n c) s fun th s =>
    .done (th.putS d (if th.pv n c then th.sv a else th.sv b) (th.pl c ||| th.sl a ||| th.sl b ||| th.ctxl)) s

end Sys2Proof.Machine
end

