-- ==== Sys2Proof/Machine/Scalar.lean ====
section
/-! DEFINITION. Integer and logic words, shifts, division, bit fields, carry-less products and the immediate forms
(04 R93 to R100). -/

namespace Sys2Proof.Machine

/-! ### Results on values -/

/-- The low 64 bits of an integer. -/
def wordOfInt (x : Int) : Word := BitVec.ofInt 64 x

/-- High half of the signed product (04 Table 4.1). -/
def mulhS (a b : Word) : Word := wordOfInt (a.toInt * b.toInt / 2 ^ 64)
/-- High half of the unsigned product. -/
def mulhU (a b : Word) : Word := BitVec.ofNat 64 (a.toNat * b.toNat / 2 ^ 64)

/-- Signed quotient (04 R94). -/
def divS (a b : Word) : Word := if b = 0 then 0xFFFFFFFFFFFFFFFF#64 else wordOfInt (a.toInt.tdiv b.toInt)
/-- Unsigned quotient. -/
def divU (a b : Word) : Word := if b = 0 then 0xFFFFFFFFFFFFFFFF#64 else BitVec.ofNat 64 (a.toNat / b.toNat)
/-- Signed remainder. -/
def remS (a b : Word) : Word := if b = 0 then a else wordOfInt (a.toInt.tmod b.toInt)
/-- Unsigned remainder. -/
def remU (a b : Word) : Word := if b = 0 then a else BitVec.ofNat 64 (a.toNat % b.toNat)

/-- Shift amount: bits [5:0]. -/
def sh6 (b : Word) : Nat := b.toNat % 64
/-- sll. -/
def sllW (a : Word) (n : Nat) : Word := a <<< n
/-- srl. -/
def srlW (a : Word) (n : Nat) : Word := a >>> n
/-- sra. -/
def sraW (a : Word) (n : Nat) : Word := a.sshiftRight n
/-- rol. -/
def rolW (a : Word) (n : Nat) : Word := (a <<< n) ||| (a >>> (64 - n))
/-- ror. -/
def rorW (a : Word) (n : Nat) : Word := (a >>> n) ||| (a <<< (64 - n))

/-- Position and length of a bit field, cut at bit 63 (04 R97). -/
def fieldOf (b : Word) : Nat × Nat :=
  let pos := b.toNat % 64
  let len := min (b.toNat / 256 % 128) 64
  (pos, if 64 < pos + len then 64 - pos else len)

/-- bext.n and bext.i (04 R97). -/
def bextW (signed : Bool) (a b : Word) : Word :=
  let (pos, n) := fieldOf b
  if n = 0 then 0 else wordOfInt (intOf signed n (a.toNat / 2 ^ pos % 2 ^ n))

/-- bins (04 R97). -/
def binsW (d a b : Word) : Word :=
  let (pos, n) := fieldOf b
  BitVec.ofNat 64 (d.toNat / 2 ^ (pos + n) * 2 ^ (pos + n) + a.toNat % 2 ^ n * 2 ^ pos + d.toNat % 2 ^ pos)

/-- rev8 (04 Table 4.1). -/
def rev8W (a : Word) : Word := BitVec.ofNat 64 (fromBytes (toBytes 8 a.toNat).reverse)

/-- The carry-less product (04 R98). -/
def clmulW (a b : Word) : Nat := clmulNat a.toNat b.toNat 64

/-! ### Shapes -/

/-- A class F1 word of two sources (04 R91, R93). -/
def alu2 (i : Instr) (s : State) (d a b : SReg) (f : Word → Word → Word) : Host.Outcome State Fault Refusal :=
  issue i s fun th s => .done (th.putS d (f (th.sv a) (th.sv b)) (th.sl a ||| th.sl b ||| th.ctxl)) s

/-- A class F1 word of one source. -/
def alu1 (i : Instr) (s : State) (d a : SReg) (f : Word → Word) : Host.Outcome State Fault Refusal :=
  issue i s fun th s => .done (th.putS d (f (th.sv a)) (th.sl a ||| th.ctxl)) s

/-- A scalar result of latency `l` (02 R46). -/
def laterS (i : Instr) (th : Thread) (s : State) (l : Nat) (d : SReg) (x : SVal) : Thread :=
  if th.wiredS d then th else th.later i s.rot l (.s d) (.s x) 0 0

/-- A class F2 word of two sources. -/
def alu2Late (i : Instr) (s : State) (d a b : SReg) (f : Word → Word → Word) : Host.Outcome State Fault Refusal :=
  issue i s fun th s =>
    .done (laterS i th s 2 d ⟨f (th.sv a) (th.sv b), th.sl a ||| th.sl b ||| th.ctxl⟩) s

/-- A divide or remainder: it parks until its result is due (04 R95). -/
def divide (i : Instr) (s : State) (d a b : SReg) (f : Word → Word → Word) : Host.Outcome State Fault Refusal :=
  issue i s fun th s =>
    let x : SVal := ⟨f (th.sv a) (th.sv b), th.sl a ||| th.sl b ||| th.ctxl⟩
    .park th s ⟨i, .divide s.cycle (s.cycle + Config.divMax) d x, s.cycle, 63, false, none, none, none, 0, 0, 0, 0, []⟩

/-- An immediate form: its source's value, its label (04 R99). -/
def aluI (i : Instr) (s : State) (d a : SReg) (f : Thread → Word → Word) : Host.Outcome State Fault Refusal :=
  issue i s fun th s => .done (th.putS d (f th (th.sv a)) (th.sl a ||| th.ctxl)) s

/-- An immediate form without a source (04 R99). -/
def aluC (i : Instr) (s : State) (d : SReg) (f : Thread → Word) : Host.Outcome State Fault Refusal :=
  issue i s fun th s => .done (th.putS d (f th) th.ctxl) s

/-! ### Words -/

/-- add (04 Table 4.1). -/
def execAdd (st : Stall) (d a b : SReg) (s : State) : Host.Outcome State Fault Refusal :=
  alu2 (.add st d a b) s d a b fun x y => x + y

/-- sub (04 Table 4.1). -/
def execSub (st : Stall) (d a b : SReg) (s : State) : Host.Outcome State Fault Refusal :=
  alu2 (.sub st d a b) s d a b fun x y => x - y

/-- mul (04 Table 4.1). -/
def execMul (st : Stall) (d a b : SReg) (s : State) : Host.Outcome State Fault Refusal :=
  alu2 (.mul st d a b) s d a b fun x y => x * y

/-- and (04 Table 4.1). -/
def execAnd (st : Stall) (d a b : SReg) (s : State) : Host.Outcome State Fault Refusal :=
  alu2 (.and st d a b) s d a b fun x y => x &&& y

/-- or (04 Table 4.1). -/
def execOr (st : Stall) (d a b : SReg) (s : State) : Host.Outcome State Fault Refusal :=
  alu2 (.or st d a b) s d a b fun x y => x ||| y

/-- xor (04 Table 4.1). -/
def execXor (st : Stall) (d a b : SReg) (s : State) : Host.Outcome State Fault Refusal :=
  alu2 (.xor st d a b) s d a b fun x y => x ^^^ y

/-- andn (04 Table 4.1). -/
def execAndn (st : Stall) (d a b : SReg) (s : State) : Host.Outcome State Fault Refusal :=
  alu2 (.andn st d a b) s d a b fun x y => x &&& ~~~y

/-- orn (04 Table 4.1). -/
def execOrn (st : Stall) (d a b : SReg) (s : State) : Host.Outcome State Fault Refusal :=
  alu2 (.orn st d a b) s d a b fun x y => x ||| ~~~y

/-- xnor (04 Table 4.1). -/
def execXnor (st : Stall) (d a b : SReg) (s : State) : Host.Outcome State Fault Refusal :=
  alu2 (.xnor st d a b) s d a b fun x y => ~~~(x ^^^ y)

/-- sll (04 Table 4.1). -/
def execSll (st : Stall) (d a b : SReg) (s : State) : Host.Outcome State Fault Refusal :=
  alu2 (.sll st d a b) s d a b fun x y => sllW x (sh6 y)

/-- srl (04 Table 4.1). -/
def execSrl (st : Stall) (d a b : SReg) (s : State) : Host.Outcome State Fault Refusal :=
  alu2 (.srl st d a b) s d a b fun x y => srlW x (sh6 y)

/-- sra (04 Table 4.1). -/
def execSra (st : Stall) (d a b : SReg) (s : State) : Host.Outcome State Fault Refusal :=
  alu2 (.sra st d a b) s d a b fun x y => sraW x (sh6 y)

/-- rol (04 Table 4.1). -/
def execRol (st : Stall) (d a b : SReg) (s : State) : Host.Outcome State Fault Refusal :=
  alu2 (.rol st d a b) s d a b fun x y => rolW x (sh6 y)

/-- ror (04 Table 4.1). -/
def execRor (st : Stall) (d a b : SReg) (s : State) : Host.Outcome State Fault Refusal :=
  alu2 (.ror st d a b) s d a b fun x y => rorW x (sh6 y)

/-- min.i64 (04 Table 4.1). -/
def execMinI64 (st : Stall) (d a b : SReg) (s : State) : Host.Outcome State Fault Refusal :=
  alu2 (.minI64 st d a b) s d a b fun x y => if x.slt y then x else y

/-- max.i64 (04 Table 4.1). -/
def execMaxI64 (st : Stall) (d a b : SReg) (s : State) : Host.Outcome State Fault Refusal :=
  alu2 (.maxI64 st d a b) s d a b fun x y => if x.slt y then y else x

/-- min.n64 (04 Table 4.1). -/
def execMinN64 (st : Stall) (d a b : SReg) (s : State) : Host.Outcome State Fault Refusal :=
  alu2 (.minN64 st d a b) s d a b fun x y => if x.ult y then x else y

/-- max.n64 (04 Table 4.1). -/
def execMaxN64 (st : Stall) (d a b : SReg) (s : State) : Host.Outcome State Fault Refusal :=
  alu2 (.maxN64 st d a b) s d a b fun x y => if x.ult y then y else x

/-- bext.n (04 Table 4.1). -/
def execBextN (st : Stall) (d a b : SReg) (s : State) : Host.Outcome State Fault Refusal :=
  alu2 (.bextN st d a b) s d a b fun x y => bextW false x y

/-- bext.i (04 Table 4.1). -/
def execBextI (st : Stall) (d a b : SReg) (s : State) : Host.Outcome State Fault Refusal :=
  alu2 (.bextI st d a b) s d a b fun x y => bextW true x y

/-- sh1add (04 Table 4.1). -/
def execSh1add (st : Stall) (d a b : SReg) (s : State) : Host.Outcome State Fault Refusal :=
  alu2 (.sh1add st d a b) s d a b fun x y => (x <<< 1) + y

/-- sh2add (04 Table 4.1). -/
def execSh2add (st : Stall) (d a b : SReg) (s : State) : Host.Outcome State Fault Refusal :=
  alu2 (.sh2add st d a b) s d a b fun x y => (x <<< 2) + y

/-- sh3add (04 Table 4.1). -/
def execSh3add (st : Stall) (d a b : SReg) (s : State) : Host.Outcome State Fault Refusal :=
  alu2 (.sh3add st d a b) s d a b fun x y => (x <<< 3) + y

/-- sh4add (04 Table 4.1). -/
def execSh4add (st : Stall) (d a b : SReg) (s : State) : Host.Outcome State Fault Refusal :=
  alu2 (.sh4add st d a b) s d a b fun x y => (x <<< 4) + y

/-- mulh.i64, class F2 (04 Table 4.1). -/
def execMulhI64 (st : Stall) (d a b : SReg) (s : State) : Host.Outcome State Fault Refusal :=
  alu2Late (.mulhI64 st d a b) s d a b mulhS

/-- mulh.n64, class F2 (04 Table 4.1). -/
def execMulhN64 (st : Stall) (d a b : SReg) (s : State) : Host.Outcome State Fault Refusal :=
  alu2Late (.mulhN64 st d a b) s d a b mulhU

/-- clmul, class F2 (04 R98). -/
def execClmul (st : Stall) (d a b : SReg) (s : State) : Host.Outcome State Fault Refusal :=
  alu2Late (.clmul st d a b) s d a b fun x y => BitVec.ofNat 64 (clmulW x y)

/-- clmulh, class F2 (04 R98). -/
def execClmulh (st : Stall) (d a b : SReg) (s : State) : Host.Outcome State Fault Refusal :=
  alu2Late (.clmulh st d a b) s d a b fun x y => BitVec.ofNat 64 (clmulW x y / 2 ^ 64)

/-- div.i64 (04 R94, R95). -/
def execDivI64 (st : Stall) (d a b : SReg) (s : State) : Host.Outcome State Fault Refusal :=
  divide (.divI64 st d a b) s d a b divS

/-- div.n64 (04 R94, R95). -/
def execDivN64 (st : Stall) (d a b : SReg) (s : State) : Host.Outcome State Fault Refusal :=
  divide (.divN64 st d a b) s d a b divU

/-- rem.i64 (04 R94, R95). -/
def execRemI64 (st : Stall) (d a b : SReg) (s : State) : Host.Outcome State Fault Refusal :=
  divide (.remI64 st d a b) s d a b remS

/-- rem.n64 (04 R94, R95). -/
def execRemN64 (st : Stall) (d a b : SReg) (s : State) : Host.Outcome State Fault Refusal :=
  divide (.remN64 st d a b) s d a b remU

/-- popc (04 Table 4.1). -/
def execPopc (st : Stall) (d a : SReg) (s : State) : Host.Outcome State Fault Refusal :=
  alu1 (.popc st d a) s d a fun x => BitVec.ofNat 64 (popcNat x.toNat 64)

/-- clz (04 Table 4.1). -/
def execClz (st : Stall) (d a : SReg) (s : State) : Host.Outcome State Fault Refusal :=
  alu1 (.clz st d a) s d a fun x => BitVec.ofNat 64 (clzNat x.toNat 64)

/-- ctz (04 Table 4.1). -/
def execCtz (st : Stall) (d a : SReg) (s : State) : Host.Outcome State Fault Refusal :=
  alu1 (.ctz st d a) s d a fun x => BitVec.ofNat 64 (ctzNat x.toNat 0 64)

/-- rev8 (04 Table 4.1). -/
def execRev8 (st : Stall) (d a : SReg) (s : State) : Host.Outcome State Fault Refusal :=
  alu1 (.rev8 st d a) s d a rev8W

/-- bins; its label includes that of s[d] (04 R97). -/
def execBins (st : Stall) (d a b : SReg) (s : State) : Host.Outcome State Fault Refusal :=
  issue (.bins st d a b) s fun th s =>
    .done (th.putS d (binsW (th.sv d) (th.sv a) (th.sv b)) (th.sl a ||| th.sl b ||| th.sl d ||| th.ctxl)) s

/-- addi (04 Table 4.3). -/
def execAddi (st : Stall) (d a : SReg) (i : BitVec 12) (s : State) : Host.Outcome State Fault Refusal :=
  aluI (.addi st d a i) s d a fun th x => x + wordOfInt (immS th.chain i)

/-- andi (04 Table 4.3). -/
def execAndi (st : Stall) (d a : SReg) (i : BitVec 12) (s : State) : Host.Outcome State Fault Refusal :=
  aluI (.andi st d a i) s d a fun th x => x &&& BitVec.ofNat 64 (immZ th.chain i)

/-- ori (04 Table 4.3). -/
def execOri (st : Stall) (d a : SReg) (i : BitVec 12) (s : State) : Host.Outcome State Fault Refusal :=
  aluI (.ori st d a i) s d a fun th x => x ||| BitVec.ofNat 64 (immZ th.chain i)

/-- xori (04 Table 4.3). -/
def execXori (st : Stall) (d a : SReg) (i : BitVec 12) (s : State) : Host.Outcome State Fault Refusal :=
  aluI (.xori st d a i) s d a fun th x => x ^^^ BitVec.ofNat 64 (immZ th.chain i)

/-- slli (04 R100). -/
def execSlli (st : Stall) (d a : SReg) (n : BitVec 6) (s : State) : Host.Outcome State Fault Refusal :=
  alu1 (.slli st d a n) s d a fun x => sllW x n.toNat

/-- srli (04 R100). -/
def execSrli (st : Stall) (d a : SReg) (n : BitVec 6) (s : State) : Host.Outcome State Fault Refusal :=
  alu1 (.srli st d a n) s d a fun x => srlW x n.toNat

/-- srai (04 R100). -/
def execSrai (st : Stall) (d a : SReg) (n : BitVec 6) (s : State) : Host.Outcome State Fault Refusal :=
  alu1 (.srai st d a n) s d a fun x => sraW x n.toNat

/-- roli (04 R100). -/
def execRoli (st : Stall) (d a : SReg) (n : BitVec 6) (s : State) : Host.Outcome State Fault Refusal :=
  alu1 (.roli st d a n) s d a fun x => rolW x n.toNat

/-- rori (04 R100). -/
def execRori (st : Stall) (d a : SReg) (n : BitVec 6) (s : State) : Host.Outcome State Fault Refusal :=
  alu1 (.rori st d a n) s d a fun x => rorW x n.toNat

/-- lea: the PC is that of the lea word (04 Table 4.3). -/
def execLea (st : Stall) (d : SReg) (i : BitVec 18) (s : State) : Host.Outcome State Fault Refusal :=
  aluC (.lea st d i) s d fun th => th.pc + wordOfInt (immS th.chain i)

/-- movi (04 Table 4.3). -/
def execMovi (st : Stall) (d : SReg) (i : BitVec 18) (s : State) : Host.Outcome State Fault Refusal :=
  aluC (.movi st d i) s d fun th => wordOfInt (immS th.chain i)

end Sys2Proof.Machine
end

