-- ==== Sys2Proof/Machine/VectorFloat.lean ====
section
/-! DEFINITION. Vector words on floating-point numbers: arithmetic, compares, reductions, conversions, scaling and the MX
forms (06 R155 to R159, R165 to R168). -/

namespace Sys2Proof.Machine

/-- A tag that equals a format's. -/
def eqTag (t g : Tag) : Bool := decide (g = t)

/-- Latency of VF arithmetic (06 Table 6.1). -/
def vfLat : FFmt → Nat
  | .f64 => 3
  | .f32 | .f16 | .bf16 => 2

/-! ### Arithmetic (06 Table 6.4) -/

/-- A VF word of two sources. -/
def vfOp2 (i : Instr) (s : State) (lat : Nat) (d a b : VReg) (k : KReg) (f : FFmt)
    (op : Fmt → Rnd → Nat → Nat → Nat → Nat × Flags) : Host.Outcome State Fault Refusal :=
  issue i s fun th s =>
    let va := th.vreg a
    let vb := th.vreg b
    let m := ffmt f
    let g := ffmtTag f
    withTags i th s [vcheck th a (eqTag g) g.toNat, vcheck th b (eqTag g) g.toNat]
      (elementWise i th s lat d k (va.lab ||| vb.lab) g m.width (512 / m.width) fun e =>
        op m th.rnd e (elem va.bits m.width e) (elem vb.bits m.width e))

/-- A VF word of one source. -/
def vfOp1 (i : Instr) (s : State) (lat : Nat) (d a : VReg) (k : KReg) (f : FFmt) (op : Fmt → Nat → Nat × Flags) :
    Host.Outcome State Fault Refusal :=
  issue i s fun th s =>
    let va := th.vreg a
    let m := ffmt f
    let g := ffmtTag f
    withTags i th s [vcheck th a (eqTag g) g.toNat]
      (elementWise i th s lat d k va.lab g m.width (512 / m.width) fun e => op m (elem va.bits m.width e))

/-- A fused multiply-add; VD is the addend (03 R74). -/
def vfFma (i : Instr) (s : State) (d a b : VReg) (k : KReg) (f : FFmt) (np nd : Bool) :
    Host.Outcome State Fault Refusal :=
  issue i s fun th s =>
    let va := th.vreg a
    let vb := th.vreg b
    let vd := th.vreg d
    let m := ffmt f
    let g := ffmtTag f
    withTags i th s [vcheck th a (eqTag g) g.toNat, vcheck th b (eqTag g) g.toNat, vcheck th d (eqTag g) g.toNat]
      (elementWise i th s (vfLat f) d k (va.lab ||| vb.lab ||| vd.lab) g m.width (512 / m.width) fun e =>
        fFma m th.rnd e np nd (elem va.bits m.width e) (elem vb.bits m.width e) (elem vd.bits m.width e))

/-- vdiv or vsqrt: it parks until its result is due, and an enabled exception is known only then (06 R156). -/
def vfSlow (i : Instr) (s : State) (d : VReg) (k : KReg) (f : FFmt) (tags : Thread → List TagCheck)
    (src : Thread → Label) (op : Thread → Nat → Nat × Flags) : Host.Outcome State Fault Refusal :=
  issue i s fun th s =>
    let m := ffmt f
    let r := maskedOp (th.kreg k).val (th.vreg d).bits m.width (512 / m.width) (op th)
    let fl := unionFlags r
    let x : VVal := ⟨packV m.width (r.map (·.1)), ffmtTag f, maskLabel th k (src th) (th.vreg d).lab⟩
    let exc := if fl &&& th.fpEnable ≠ 0 then some (fl.setWidth 64, excMask th.fpEnable r) else none
    withTags i th s (tags th)
      (.park th s ⟨i, .vdivide s.cycle (s.cycle + Config.vdivMax) d x fl exc, s.cycle, 63, false, none, none, none, 0, 0, 0,
        0, []⟩)

/-- vadd of floats. -/
def execVaddF (st : Stall) (d a b : VReg) (k : KReg) (f : FFmt) (s : State) : Host.Outcome State Fault Refusal :=
  vfOp2 (.vaddF st d a b k f) s (vfLat f) d a b k f fAdd
/-- vsub of floats. -/
def execVsubF (st : Stall) (d a b : VReg) (k : KReg) (f : FFmt) (s : State) : Host.Outcome State Fault Refusal :=
  vfOp2 (.vsubF st d a b k f) s (vfLat f) d a b k f fSub
/-- vmul of floats. -/
def execVmulF (st : Stall) (d a b : VReg) (k : KReg) (f : FFmt) (s : State) : Host.Outcome State Fault Refusal :=
  vfOp2 (.vmulF st d a b k f) s (vfLat f) d a b k f fMul
/-- vfma: a × b + d. -/
def execVfma (st : Stall) (d a b : VReg) (k : KReg) (f : FFmt) (s : State) : Host.Outcome State Fault Refusal :=
  vfFma (.vfma st d a b k f) s d a b k f false false
/-- vfms: a × b − d. -/
def execVfms (st : Stall) (d a b : VReg) (k : KReg) (f : FFmt) (s : State) : Host.Outcome State Fault Refusal :=
  vfFma (.vfms st d a b k f) s d a b k f false true
/-- vfnma: d − a × b. -/
def execVfnma (st : Stall) (d a b : VReg) (k : KReg) (f : FFmt) (s : State) : Host.Outcome State Fault Refusal :=
  vfFma (.vfnma st d a b k f) s d a b k f true false
/-- vmin of floats. -/
def execVminF (st : Stall) (d a b : VReg) (k : KReg) (f : FFmt) (s : State) : Host.Outcome State Fault Refusal :=
  vfOp2 (.vminF st d a b k f) s 2 d a b k f fun m _ _ x y => fMin m false x y
/-- vmax of floats. -/
def execVmaxF (st : Stall) (d a b : VReg) (k : KReg) (f : FFmt) (s : State) : Host.Outcome State Fault Refusal :=
  vfOp2 (.vmaxF st d a b k f) s 2 d a b k f fun m _ _ x y => fMin m true x y
/-- vabs of floats. -/
def execVabsF (st : Stall) (d a : VReg) (k : KReg) (f : FFmt) (s : State) : Host.Outcome State Fault Refusal :=
  vfOp1 (.vabsF st d a k f) s 2 d a k f fun m x => fAbs m false x
/-- vneg of floats. -/
def execVnegF (st : Stall) (d a : VReg) (k : KReg) (f : FFmt) (s : State) : Host.Outcome State Fault Refusal :=
  vfOp1 (.vnegF st d a k f) s 2 d a k f fun m x => fAbs m true x
/-- vdiv. -/
def execVdiv (st : Stall) (d a b : VReg) (k : KReg) (f : FFmt) (s : State) : Host.Outcome State Fault Refusal :=
  let g := ffmtTag f
  let m := ffmt f
  vfSlow (.vdiv st d a b k f) s d k f (fun th => [vcheck th a (eqTag g) g.toNat, vcheck th b (eqTag g) g.toNat])
    (fun th => (th.vreg a).lab ||| (th.vreg b).lab)
    (fun th e => fDiv m th.rnd e (elem (th.vreg a).bits m.width e) (elem (th.vreg b).bits m.width e))
/-- vsqrt. -/
def execVsqrt (st : Stall) (d a : VReg) (k : KReg) (f : FFmt) (s : State) : Host.Outcome State Fault Refusal :=
  let g := ffmtTag f
  let m := ffmt f
  vfSlow (.vsqrt st d a k f) s d k f (fun th => [vcheck th a (eqTag g) g.toNat]) (fun th => (th.vreg a).lab)
    (fun th e => fSqrt m th.rnd e (elem (th.vreg a).bits m.width e))

/-! ### Compares (06 R157, R158) -/

/-- vcmp of floats, class F2. -/
def execVcmpFloat (st : Stall) (d : KReg) (a b : VReg) (k : KReg) (f : FFmt) (c : FCond) (s : State) :
    Host.Outcome State Fault Refusal :=
  let i := Instr.vcmpFloat st d a b k f c
  issue i s fun th s =>
    let m := ffmt f
    let g := ffmtTag f
    let va := th.vreg a
    let vb := th.vreg b
    let km := (th.kreg k).val
    let r := maskedOp km 0 m.width (512 / m.width) fun e =>
      let (x, fl) := fCond m c (elem va.bits m.width e) (elem vb.bits m.width e)
      (b2n x, fl)
    let fl := unionFlags r
    let lab := maskLabel th k (va.lab ||| vb.lab) (th.kreg d).lab
    let x := cmpMask m.width km (th.kreg d).val fun e => decide ((r.getD e (0, 0)).1 = 1)
    withTags i th s [vcheck th a (eqTag g) g.toNat, vcheck th b (eqTag g) g.toNat]
      (if fl &&& th.fpEnable ≠ 0 then .trap th s .fpExc (fl.setWidth 64) (excMask th.fpEnable r) 0
      else .done (th.later i s.rot 2 (if d = 0 then .none else .k d) (.k ⟨x, lab⟩) fl lab) s)

/-! ### Reductions (06 R159) -/

/-- The inputs a mask enables. -/
def inputs (k : BitVec 16) (x : VBits) (w : Nat) : List Nat :=
  ((nums (512 / w)).filter (enabled k w)).map (elem x w)

/-- The smallest, or with `big` the largest, of the inputs of a float format. -/
def redMin (f : Fmt) (big : Bool) (l : List Nat) : Nat × Flags :=
  let ns := l.map (numOf f)
  let fl := if ns.any isSig then fInvalid else 0
  if ns.any isNan then (nanWith f (bestKey (ns.map numKey)), fl)
  else match l with
    | [] => (infCode f big false).1 |> fun x => (x, 0)
    | x :: l => (l.foldl (fun a b => (fMin f big a b).1) x, 0)

/-- The smallest, or the largest, of the inputs of an integer type. -/
def redMinI (t : ITy) (big : Bool) (l : List Nat) : Nat :=
  let w := ityW t
  let v := l.map (intOf (ityS t) w)
  intBits w (if big then v.foldl max (intLo (ityS t) w) else v.foldl min (intHi (ityS t) w))

/-- A reduction: its result in element 0, zeros elsewhere, class F4. -/
def reduce (i : Instr) (s : State) (d a : VReg) (k : KReg) (t : RedTy) (fi : ITy → List Nat → Nat)
    (ff : Fmt → Rnd → List Nat → Nat × Flags) : Host.Outcome State Fault Refusal :=
  issue i s fun th s =>
    let va := th.vreg a
    let km := (th.kreg k).val
    let lab := va.lab ||| (th.kreg k).lab ||| th.ctxl
    match t with
    | .int t =>
      let req := (ityTag t).toNat
      withTags i th s [vcheck th a (intTag (ityW t)) req]
        (finishV i th s 4 d ⟨BitVec.ofNat 512 (fi t (inputs km va.bits (ityW t))), ityTag t, lab⟩ 0 0)
    | .flt f =>
      let m := ffmt f
      let g := ffmtTag f
      let (x, fl) := ff m th.rnd (inputs km va.bits m.width)
      withTags i th s [vcheck th a (eqTag g) g.toNat] (finishV i th s 4 d ⟨BitVec.ofNat 512 x, g, lab⟩ fl 1)

/-- vradd: a float sum is rounded once (06 Table 6.6). -/
def execVradd (st : Stall) (d a : VReg) (k : KReg) (t : RedTy) (s : State) : Host.Outcome State Fault Refusal :=
  reduce (.vradd st d a k t) s d a k t (fun t l => sumOver l id % 2 ^ ityW t)
    (fun f r l => sumNums f r 0 (l.map (numOf f)))
/-- vrmin. -/
def execVrmin (st : Stall) (d a : VReg) (k : KReg) (t : RedTy) (s : State) : Host.Outcome State Fault Refusal :=
  reduce (.vrmin st d a k t) s d a k t (fun t l => redMinI t false l) (fun f _ l => redMin f false l)
/-- vrmax. -/
def execVrmax (st : Stall) (d a : VReg) (k : KReg) (t : RedTy) (s : State) : Host.Outcome State Fault Refusal :=
  reduce (.vrmax st d a k t) s d a k t (fun t l => redMinI t true l) (fun f _ l => redMin f true l)

/-! ### Conversion (06 R165, R166) -/

/-- Elements below `n` under the mask, zeros from `n` on (06 R165, R168). -/
def lowElements (th : Thread) (d : VReg) (k : KReg) (w n : Nat) (op : Nat → Nat × Flags) : List (Nat × Flags) :=
  (nums (512 / w)).map fun e =>
    if n ≤ e then (0, 0) else if enabled (th.kreg k).val w e then op e else (elem (th.vreg d).bits w e, 0)

/-- The word that writes such elements. -/
def lowWord (i : Instr) (th : Thread) (s : State) (l : Nat) (d : VReg) (k : KReg) (src : Label) (tag : Tag) (w n : Nat)
    (op : Nat → Nat × Flags) : Res :=
  let r := lowElements th d k w n op
  finishV i th s l d ⟨packV w (r.map (·.1)), tag, maskLabel th k src (th.vreg d).lab⟩ (unionFlags r)
    (excMask th.fpEnable r)

/-- vcvt, class F2; `t` is SAT. -/
def execVcvt (st : Stall) (d a : VReg) (t : Bool) (k : KReg) (f : Tag) (s : State) : Host.Outcome State Fault Refusal :=
  let i := Instr.vcvt st d a t k f
  issue i s fun th s =>
    let va := th.vreg a
    let ws := (tagWidth va.tag).getD 8
    let wd := (tagWidth f).getD 8
    withTags i th s [vcheck th a (fun g => (tagWidth g).isSome) 1]
      (lowWord i th s 2 d k va.lab f wd (min (512 / ws) (512 / wd)) fun e =>
        convert va.tag f th.rnd e t (elem va.bits ws e))

/-! ### Scaling and MX blocks (06 R167, R168) -/

/-- The format of vscale and vgexp. -/
def fwidFmt : FWid → Fmt
  | .f64 => fp64 | .f32 => fp32
/-- Its tag. -/
def fwidTag : FWid → Tag
  | .f64 => 0x09 | .f32 => 0x0A
/-- The integer tag of its width. -/
def fwidInt : FWid → Tag
  | .f64 => 4 | .f32 => 3
/-- Its latency. -/
def fwidLat : FWid → Nat
  | .f64 => 3 | .f32 => 2

/-- a × 2^b rounded into a format. Beyond 5,000 in size, b gives the same result as 5,000. -/
def scaleNum (f : Fmt) (r : Rnd) (idx : Nat) (x : Num) (b : Int) : Nat × Flags :=
  match x with
  | .nan s k => (nanWith f k, if s then fInvalid else 0)
  | .inf n => infCode f n false
  | .fin n m e => if m = 0 then (zeroCode f n, 0) else roundNum f r idx false n m (e + satInt b (-5000) 5000) false

/-- vscale. -/
def execVscale (st : Stall) (d a b : VReg) (k : KReg) (f : FWid) (s : State) : Host.Outcome State Fault Refusal :=
  let i := Instr.vscale st d a b k f
  issue i s fun th s =>
    let va := th.vreg a
    let vb := th.vreg b
    let m := fwidFmt f
    let g := fwidTag f
    let gi := fwidInt f
    withTags i th s [vcheck th a (eqTag g) g.toNat, vcheck th b (eqTag gi) gi.toNat]
      (elementWise i th s (fwidLat f) d k (va.lab ||| vb.lab) g m.width (512 / m.width) fun e =>
        scaleNum m th.rnd e (numOf m (elem va.bits m.width e)) (intOf true m.width (elem vb.bits m.width e)))

/-- ⌊log₂|a|⌋ as an integer of width `w` (06 R167). -/
def gexp (f : Fmt) (x : Nat) : Nat × Flags :=
  match numOf f x with
  | .nan _ _ => (0, fInvalid)
  | .inf _ => (intBits f.width (intHi true f.width), fInvalid)
  | .fin _ m e => if m = 0 then (intBits f.width (intLo true f.width), fInvalid) else (intBits f.width (Nat.log2 m + e), 0)

/-- vgexp. -/
def execVgexp (st : Stall) (d a : VReg) (k : KReg) (f : FWid) (s : State) : Host.Outcome State Fault Refusal :=
  let i := Instr.vgexp st d a k f
  issue i s fun th s =>
    let va := th.vreg a
    let m := fwidFmt f
    let g := fwidTag f
    withTags i th s [vcheck th a (eqTag g) g.toNat]
      (elementWise i th s (fwidLat f) d k va.lab (fwidInt f) m.width (512 / m.width) fun e =>
        gexp m (elem va.bits m.width e))

/-- The element format of an MX suffix. -/
def mxFmt : MxFmt → Fmt
  | .e4m3 => e4m3 | .e5m2 => e5m2
/-- Its tag. -/
def mxTag : MxFmt → Tag
  | .e4m3 => 0x0D | .e5m2 => 0x0E
/-- emax of R134. -/
def mxEmax : MxFmt → Int
  | .e4m3 => 8 | .e5m2 => 15

/-- A source of vmxsc and vmxq. -/
def mxSource (g : Tag) : Bool := eqTag 0x0A g || eqTag 0x0B g || eqTag 0x0C g

/-- The scale code of a block: from the largest magnitude of its finite elements (05 R134). -/
def scaleCode (f : MxFmt) (l : List Num) : Nat :=
  let es := l.filterMap fun x => match x with | .fin _ m e => if m = 0 then none else some ((Nat.log2 m : Int) + e) | _ => none
  match es with
  | [] => 0
  | x :: es => (satInt (es.foldl max x - mxEmax f) (-127) 127 + 127).toNat

/-- The enabled elements of a register as values. -/
def blockNums (k : BitVec 16) (v : VVal) : List Num :=
  match tagFmt v.tag with
  | some f => (inputs k v.bits f.width).map (numOf f)
  | none => []

/-- vmxsc, class F3. -/
def execVmxsc (st : Stall) (d a b : VReg) (k : KReg) (f : MxFmt) (s : State) : Host.Outcome State Fault Refusal :=
  let i := Instr.vmxsc st d a b k f
  issue i s fun th s =>
    let va := th.vreg a
    let vb := th.vreg b
    let km := (th.kreg k).val
    let na := blockNums km va
    let nb := blockNums km vb
    let code := if va.tag = 0x0A then scaleCode f (na ++ nb) else scaleCode f na + 256 * scaleCode f nb
    withTags i th s [vcheck th a mxSource 0x0A, vcheck th b (eqTag va.tag) va.tag.toNat]
      (finishV i th s 3 d ⟨BitVec.ofNat 512 code, 5, maskLabel th k (va.lab ||| vb.lab) (th.vreg d).lab⟩ 0 0)

/-- vmxq, class F2. -/
def execVmxq (st : Stall) (d a b : VReg) (k : KReg) (f : MxFmt) (s : State) : Host.Outcome State Fault Refusal :=
  let i := Instr.vmxq st d a b k f
  issue i s fun th s =>
    let va := th.vreg a
    let vb := th.vreg b
    let src := (tagFmt va.tag).getD fp32
    let sc := elem vb.bits 8 0
    let m := mxFmt f
    withTags i th s [vcheck th a mxSource 0x0A, vcheck th b (eqTag 5) 5]
      (lowWord i th s 2 d k (va.lab ||| vb.lab) (mxTag f) 8 (512 / src.width) fun e =>
        let x := numOf src (elem va.bits src.width e)
        if sc = 0xFF then (m.nanc, if isSig x then fInvalid else 0) else scaleNum m th.rnd e x (127 - sc))

/-- vmxdq, class F2. -/
def execVmxdq (st : Stall) (d a b : VReg) (k : KReg) (f : MxFmt) (s : State) : Host.Outcome State Fault Refusal :=
  let i := Instr.vmxdq st d a b k f
  issue i s fun th s =>
    let va := th.vreg a
    let vb := th.vreg b
    let sc := elem vb.bits 8 0
    withTags i th s [vcheck th a (eqTag (mxTag f)) (mxTag f).toNat, vcheck th b (eqTag 5) 5]
      (elementWise i th s 2 d k (va.lab ||| vb.lab) 0x0C 16 32 fun e =>
        let x := numOf (mxFmt f) (elem va.bits 8 e)
        if sc = 0xFF then (bf16.nanc, if isSig x then fInvalid else 0) else scaleNum bf16 th.rnd e x (sc - 127))

end Sys2Proof.Machine
end

