-- ==== Sys2Proof/Machine/Dispatch.lean ====
section
/-! DEFINITION. The meaning of every instruction: one arm for each row of the opcode table. -/

namespace Sys2Proof.Machine

/-- What an instruction does to the machine. -/
def exec (i : Instr) (s : State) : Host.Outcome State Fault Refusal :=
  match i with
  | .add a0 a1 a2 a3 => Sys2Proof.Machine.execAdd a0 a1 a2 a3 s
  | .sub a0 a1 a2 a3 => Sys2Proof.Machine.execSub a0 a1 a2 a3 s
  | .mul a0 a1 a2 a3 => Sys2Proof.Machine.execMul a0 a1 a2 a3 s
  | .mulhI64 a0 a1 a2 a3 => Sys2Proof.Machine.execMulhI64 a0 a1 a2 a3 s
  | .mulhN64 a0 a1 a2 a3 => Sys2Proof.Machine.execMulhN64 a0 a1 a2 a3 s
  | .divI64 a0 a1 a2 a3 => Sys2Proof.Machine.execDivI64 a0 a1 a2 a3 s
  | .divN64 a0 a1 a2 a3 => Sys2Proof.Machine.execDivN64 a0 a1 a2 a3 s
  | .remI64 a0 a1 a2 a3 => Sys2Proof.Machine.execRemI64 a0 a1 a2 a3 s
  | .remN64 a0 a1 a2 a3 => Sys2Proof.Machine.execRemN64 a0 a1 a2 a3 s
  | .and a0 a1 a2 a3 => Sys2Proof.Machine.execAnd a0 a1 a2 a3 s
  | .or a0 a1 a2 a3 => Sys2Proof.Machine.execOr a0 a1 a2 a3 s
  | .xor a0 a1 a2 a3 => Sys2Proof.Machine.execXor a0 a1 a2 a3 s
  | .andn a0 a1 a2 a3 => Sys2Proof.Machine.execAndn a0 a1 a2 a3 s
  | .orn a0 a1 a2 a3 => Sys2Proof.Machine.execOrn a0 a1 a2 a3 s
  | .xnor a0 a1 a2 a3 => Sys2Proof.Machine.execXnor a0 a1 a2 a3 s
  | .sll a0 a1 a2 a3 => Sys2Proof.Machine.execSll a0 a1 a2 a3 s
  | .srl a0 a1 a2 a3 => Sys2Proof.Machine.execSrl a0 a1 a2 a3 s
  | .sra a0 a1 a2 a3 => Sys2Proof.Machine.execSra a0 a1 a2 a3 s
  | .rol a0 a1 a2 a3 => Sys2Proof.Machine.execRol a0 a1 a2 a3 s
  | .ror a0 a1 a2 a3 => Sys2Proof.Machine.execRor a0 a1 a2 a3 s
  | .minI64 a0 a1 a2 a3 => Sys2Proof.Machine.execMinI64 a0 a1 a2 a3 s
  | .maxI64 a0 a1 a2 a3 => Sys2Proof.Machine.execMaxI64 a0 a1 a2 a3 s
  | .minN64 a0 a1 a2 a3 => Sys2Proof.Machine.execMinN64 a0 a1 a2 a3 s
  | .maxN64 a0 a1 a2 a3 => Sys2Proof.Machine.execMaxN64 a0 a1 a2 a3 s
  | .popc a0 a1 a2 => Sys2Proof.Machine.execPopc a0 a1 a2 s
  | .clz a0 a1 a2 => Sys2Proof.Machine.execClz a0 a1 a2 s
  | .ctz a0 a1 a2 => Sys2Proof.Machine.execCtz a0 a1 a2 s
  | .bextN a0 a1 a2 a3 => Sys2Proof.Machine.execBextN a0 a1 a2 a3 s
  | .bextI a0 a1 a2 a3 => Sys2Proof.Machine.execBextI a0 a1 a2 a3 s
  | .bins a0 a1 a2 a3 => Sys2Proof.Machine.execBins a0 a1 a2 a3 s
  | .rev8 a0 a1 a2 => Sys2Proof.Machine.execRev8 a0 a1 a2 s
  | .clmul a0 a1 a2 a3 => Sys2Proof.Machine.execClmul a0 a1 a2 a3 s
  | .clmulh a0 a1 a2 a3 => Sys2Proof.Machine.execClmulh a0 a1 a2 a3 s
  | .sh1add a0 a1 a2 a3 => Sys2Proof.Machine.execSh1add a0 a1 a2 a3 s
  | .sh2add a0 a1 a2 a3 => Sys2Proof.Machine.execSh2add a0 a1 a2 a3 s
  | .sh3add a0 a1 a2 a3 => Sys2Proof.Machine.execSh3add a0 a1 a2 a3 s
  | .sh4add a0 a1 a2 a3 => Sys2Proof.Machine.execSh4add a0 a1 a2 a3 s
  | .cmp a0 a1 a2 a3 a4 a5 => Sys2Proof.Machine.execCmp a0 a1 a2 a3 a4 a5 s
  | .cmpi a0 a1 a2 a3 a4 => Sys2Proof.Machine.execCmpi a0 a1 a2 a3 a4 s
  | .cmpin a0 a1 a2 a3 a4 => Sys2Proof.Machine.execCmpin a0 a1 a2 a3 a4 s
  | .pand a0 a1 a2 a3 a4 a5 => Sys2Proof.Machine.execPand a0 a1 a2 a3 a4 a5 s
  | .por a0 a1 a2 a3 a4 a5 => Sys2Proof.Machine.execPor a0 a1 a2 a3 a4 a5 s
  | .pxor a0 a1 a2 a3 a4 a5 => Sys2Proof.Machine.execPxor a0 a1 a2 a3 a4 a5 s
  | .pmov a0 a1 a2 a3 => Sys2Proof.Machine.execPmov a0 a1 a2 a3 s
  | .mfpw a0 a1 => Sys2Proof.Machine.execMfpw a0 a1 s
  | .mtpw a0 a1 => Sys2Proof.Machine.execMtpw a0 a1 s
  | .sel a0 a1 a2 a3 a4 a5 => Sys2Proof.Machine.execSel a0 a1 a2 a3 a4 a5 s
  | .addi a0 a1 a2 a3 => Sys2Proof.Machine.execAddi a0 a1 a2 a3 s
  | .andi a0 a1 a2 a3 => Sys2Proof.Machine.execAndi a0 a1 a2 a3 s
  | .ori a0 a1 a2 a3 => Sys2Proof.Machine.execOri a0 a1 a2 a3 s
  | .xori a0 a1 a2 a3 => Sys2Proof.Machine.execXori a0 a1 a2 a3 s
  | .slli a0 a1 a2 a3 => Sys2Proof.Machine.execSlli a0 a1 a2 a3 s
  | .srli a0 a1 a2 a3 => Sys2Proof.Machine.execSrli a0 a1 a2 a3 s
  | .srai a0 a1 a2 a3 => Sys2Proof.Machine.execSrai a0 a1 a2 a3 s
  | .roli a0 a1 a2 a3 => Sys2Proof.Machine.execRoli a0 a1 a2 a3 s
  | .rori a0 a1 a2 a3 => Sys2Proof.Machine.execRori a0 a1 a2 a3 s
  | .lea a0 a1 a2 => Sys2Proof.Machine.execLea a0 a1 a2 s
  | .movi a0 a1 a2 => Sys2Proof.Machine.execMovi a0 a1 a2 s
  | .br a0 a1 a2 a3 => Sys2Proof.Machine.execBr a0 a1 a2 a3 s
  | .call a0 a1 a2 a3 => Sys2Proof.Machine.execCall a0 a1 a2 a3 s
  | .brnz a0 a1 a2 => Sys2Proof.Machine.execBrnz a0 a1 a2 s
  | .brz a0 a1 a2 => Sys2Proof.Machine.execBrz a0 a1 a2 s
  | .jr a0 a1 => Sys2Proof.Machine.execJr a0 a1 s
  | .jalr a0 a1 a2 => Sys2Proof.Machine.execJalr a0 a1 a2 s
  | .mfcr a0 a1 a2 => Sys2Proof.Machine.execMfcr a0 a1 a2 s
  | .mtcr a0 a1 a2 => Sys2Proof.Machine.execMtcr a0 a1 a2 s
  | .mtcrs a0 a1 a2 => Sys2Proof.Machine.execMtcrs a0 a1 a2 s
  | .mtcrc a0 a1 a2 => Sys2Proof.Machine.execMtcrc a0 a1 a2 s
  | .ld a0 a1 a2 a3 a4 => Sys2Proof.Machine.execLd a0 a1 a2 a3 a4 s
  | .st a0 a1 a2 a3 a4 => Sys2Proof.Machine.execSt a0 a1 a2 a3 a4 s
  | .pst a0 a1 a2 a3 a4 => Sys2Proof.Machine.execPst a0 a1 a2 a3 a4 s
  | .lda a0 a1 a2 a3 a4 => Sys2Proof.Machine.execLda a0 a1 a2 a3 a4 s
  | .stl a0 a1 a2 a3 a4 => Sys2Proof.Machine.execStl a0 a1 a2 a3 a4 s
  | .ldfeTake a0 a1 a2 a3 => Sys2Proof.Machine.execLdfeTake a0 a1 a2 a3 s
  | .ldfePeek a0 a1 a2 a3 => Sys2Proof.Machine.execLdfePeek a0 a1 a2 a3 s
  | .stfeFill a0 a1 a2 a3 => Sys2Proof.Machine.execStfeFill a0 a1 a2 a3 s
  | .stfeForce a0 a1 a2 => Sys2Proof.Machine.execStfeForce a0 a1 a2 s
  | .feclr a0 a1 => Sys2Proof.Machine.execFeclr a0 a1 s
  | .fetst a0 a1 a2 => Sys2Proof.Machine.execFetst a0 a1 a2 s
  | .aadd a0 a1 a2 a3 a4 => Sys2Proof.Machine.execAadd a0 a1 a2 a3 a4 s
  | .aand a0 a1 a2 a3 a4 => Sys2Proof.Machine.execAand a0 a1 a2 a3 a4 s
  | .aor a0 a1 a2 a3 a4 => Sys2Proof.Machine.execAor a0 a1 a2 a3 a4 s
  | .axor a0 a1 a2 a3 a4 => Sys2Proof.Machine.execAxor a0 a1 a2 a3 a4 s
  | .aminI a0 a1 a2 a3 a4 => Sys2Proof.Machine.execAminI a0 a1 a2 a3 a4 s
  | .amaxI a0 a1 a2 a3 a4 => Sys2Proof.Machine.execAmaxI a0 a1 a2 a3 a4 s
  | .aminN a0 a1 a2 a3 a4 => Sys2Proof.Machine.execAminN a0 a1 a2 a3 a4 s
  | .amaxN a0 a1 a2 a3 a4 => Sys2Proof.Machine.execAmaxN a0 a1 a2 a3 a4 s
  | .aswap a0 a1 a2 a3 a4 => Sys2Proof.Machine.execAswap a0 a1 a2 a3 a4 s
  | .acas a0 a1 a2 a3 a4 => Sys2Proof.Machine.execAcas a0 a1 a2 a3 a4 s
  | .saddF64 a0 a1 a2 a3 => Sys2Proof.Machine.execSaddF64 a0 a1 a2 a3 s
  | .saddF32 a0 a1 a2 a3 => Sys2Proof.Machine.execSaddF32 a0 a1 a2 a3 s
  | .sreadF64 a0 a1 a2 => Sys2Proof.Machine.execSreadF64 a0 a1 a2 s
  | .sreadF32 a0 a1 a2 => Sys2Proof.Machine.execSreadF32 a0 a1 a2 s
  | .sstore a0 a1 a2 => Sys2Proof.Machine.execSstore a0 a1 a2 s
  | .vaddI a0 a1 a2 a3 a4 a5 => Sys2Proof.Machine.execVaddI a0 a1 a2 a3 a4 a5 s
  | .vsubI a0 a1 a2 a3 a4 a5 => Sys2Proof.Machine.execVsubI a0 a1 a2 a3 a4 a5 s
  | .vmulI a0 a1 a2 a3 a4 a5 => Sys2Proof.Machine.execVmulI a0 a1 a2 a3 a4 a5 s
  | .vmulh a0 a1 a2 a3 a4 a5 => Sys2Proof.Machine.execVmulh a0 a1 a2 a3 a4 a5 s
  | .vminI a0 a1 a2 a3 a4 a5 => Sys2Proof.Machine.execVminI a0 a1 a2 a3 a4 a5 s
  | .vmaxI a0 a1 a2 a3 a4 a5 => Sys2Proof.Machine.execVmaxI a0 a1 a2 a3 a4 a5 s
  | .vadds a0 a1 a2 a3 a4 a5 => Sys2Proof.Machine.execVadds a0 a1 a2 a3 a4 a5 s
  | .vsubs a0 a1 a2 a3 a4 a5 => Sys2Proof.Machine.execVsubs a0 a1 a2 a3 a4 a5 s
  | .vand a0 a1 a2 a3 a4 a5 => Sys2Proof.Machine.execVand a0 a1 a2 a3 a4 a5 s
  | .vor a0 a1 a2 a3 a4 a5 => Sys2Proof.Machine.execVor a0 a1 a2 a3 a4 a5 s
  | .vxor a0 a1 a2 a3 a4 a5 => Sys2Proof.Machine.execVxor a0 a1 a2 a3 a4 a5 s
  | .vandn a0 a1 a2 a3 a4 a5 => Sys2Proof.Machine.execVandn a0 a1 a2 a3 a4 a5 s
  | .vsll a0 a1 a2 a3 a4 a5 => Sys2Proof.Machine.execVsll a0 a1 a2 a3 a4 a5 s
  | .vsrl a0 a1 a2 a3 a4 a5 => Sys2Proof.Machine.execVsrl a0 a1 a2 a3 a4 a5 s
  | .vsra a0 a1 a2 a3 a4 a5 => Sys2Proof.Machine.execVsra a0 a1 a2 a3 a4 a5 s
  | .vrol a0 a1 a2 a3 a4 a5 => Sys2Proof.Machine.execVrol a0 a1 a2 a3 a4 a5 s
  | .vror a0 a1 a2 a3 a4 a5 => Sys2Proof.Machine.execVror a0 a1 a2 a3 a4 a5 s
  | .vpopc a0 a1 a2 a3 a4 => Sys2Proof.Machine.execVpopc a0 a1 a2 a3 a4 s
  | .vclz a0 a1 a2 a3 a4 => Sys2Proof.Machine.execVclz a0 a1 a2 a3 a4 s
  | .vnegL a0 a1 a2 a3 a4 => Sys2Proof.Machine.execVnegL a0 a1 a2 a3 a4 s
  | .vabsL a0 a1 a2 a3 a4 => Sys2Proof.Machine.execVabsL a0 a1 a2 a3 a4 s
  | .vaddF a0 a1 a2 a3 a4 a5 => Sys2Proof.Machine.execVaddF a0 a1 a2 a3 a4 a5 s
  | .vsubF a0 a1 a2 a3 a4 a5 => Sys2Proof.Machine.execVsubF a0 a1 a2 a3 a4 a5 s
  | .vmulF a0 a1 a2 a3 a4 a5 => Sys2Proof.Machine.execVmulF a0 a1 a2 a3 a4 a5 s
  | .vfma a0 a1 a2 a3 a4 a5 => Sys2Proof.Machine.execVfma a0 a1 a2 a3 a4 a5 s
  | .vfms a0 a1 a2 a3 a4 a5 => Sys2Proof.Machine.execVfms a0 a1 a2 a3 a4 a5 s
  | .vfnma a0 a1 a2 a3 a4 a5 => Sys2Proof.Machine.execVfnma a0 a1 a2 a3 a4 a5 s
  | .vminF a0 a1 a2 a3 a4 a5 => Sys2Proof.Machine.execVminF a0 a1 a2 a3 a4 a5 s
  | .vmaxF a0 a1 a2 a3 a4 a5 => Sys2Proof.Machine.execVmaxF a0 a1 a2 a3 a4 a5 s
  | .vabsF a0 a1 a2 a3 a4 => Sys2Proof.Machine.execVabsF a0 a1 a2 a3 a4 s
  | .vnegF a0 a1 a2 a3 a4 => Sys2Proof.Machine.execVnegF a0 a1 a2 a3 a4 s
  | .vdiv a0 a1 a2 a3 a4 a5 => Sys2Proof.Machine.execVdiv a0 a1 a2 a3 a4 a5 s
  | .vsqrt a0 a1 a2 a3 a4 => Sys2Proof.Machine.execVsqrt a0 a1 a2 a3 a4 s
  | .vcmpInt a0 a1 a2 a3 a4 a5 a6 => Sys2Proof.Machine.execVcmpInt a0 a1 a2 a3 a4 a5 a6 s
  | .vcmpFloat a0 a1 a2 a3 a4 a5 a6 => Sys2Proof.Machine.execVcmpFloat a0 a1 a2 a3 a4 a5 a6 s
  | .vmov a0 a1 a2 => Sys2Proof.Machine.execVmov a0 a1 a2 s
  | .vperm32 a0 a1 a2 a3 => Sys2Proof.Machine.execVperm32 a0 a1 a2 a3 s
  | .vperm64 a0 a1 a2 a3 => Sys2Proof.Machine.execVperm64 a0 a1 a2 a3 s
  | .vsel a0 a1 a2 a3 a4 => Sys2Proof.Machine.execVsel a0 a1 a2 a3 a4 s
  | .kand a0 a1 a2 a3 => Sys2Proof.Machine.execKand a0 a1 a2 a3 s
  | .kor a0 a1 a2 a3 => Sys2Proof.Machine.execKor a0 a1 a2 a3 s
  | .kxor a0 a1 a2 a3 => Sys2Proof.Machine.execKxor a0 a1 a2 a3 s
  | .knot a0 a1 a2 => Sys2Proof.Machine.execKnot a0 a1 a2 s
  | .kmov a0 a1 a2 => Sys2Proof.Machine.execKmov a0 a1 a2 s
  | .vclmulLo32 a0 a1 a2 a3 a4 => Sys2Proof.Machine.execVclmulLo32 a0 a1 a2 a3 a4 s
  | .vclmulHi32 a0 a1 a2 a3 a4 => Sys2Proof.Machine.execVclmulHi32 a0 a1 a2 a3 a4 s
  | .vclmulLo64 a0 a1 a2 a3 a4 => Sys2Proof.Machine.execVclmulLo64 a0 a1 a2 a3 a4 s
  | .vclmulHi64 a0 a1 a2 a3 a4 => Sys2Proof.Machine.execVclmulHi64 a0 a1 a2 a3 a4 s
  | .vradd a0 a1 a2 a3 a4 => Sys2Proof.Machine.execVradd a0 a1 a2 a3 a4 s
  | .vrmin a0 a1 a2 a3 a4 => Sys2Proof.Machine.execVrmin a0 a1 a2 a3 a4 s
  | .vrmax a0 a1 a2 a3 a4 => Sys2Proof.Machine.execVrmax a0 a1 a2 a3 a4 s
  | .vbcast32 a0 a1 a2 a3 => Sys2Proof.Machine.execVbcast32 a0 a1 a2 a3 s
  | .vbcast64 a0 a1 a2 a3 => Sys2Proof.Machine.execVbcast64 a0 a1 a2 a3 s
  | .vins32 a0 a1 a2 a3 => Sys2Proof.Machine.execVins32 a0 a1 a2 a3 s
  | .vins64 a0 a1 a2 a3 => Sys2Proof.Machine.execVins64 a0 a1 a2 a3 s
  | .vext32 a0 a1 a2 a3 => Sys2Proof.Machine.execVext32 a0 a1 a2 a3 s
  | .vext64 a0 a1 a2 a3 => Sys2Proof.Machine.execVext64 a0 a1 a2 a3 s
  | .vcvt a0 a1 a2 a3 a4 a5 => Sys2Proof.Machine.execVcvt a0 a1 a2 a3 a4 a5 s
  | .vscale a0 a1 a2 a3 a4 a5 => Sys2Proof.Machine.execVscale a0 a1 a2 a3 a4 a5 s
  | .vgexp a0 a1 a2 a3 a4 => Sys2Proof.Machine.execVgexp a0 a1 a2 a3 a4 s
  | .vmxsc a0 a1 a2 a3 a4 a5 => Sys2Proof.Machine.execVmxsc a0 a1 a2 a3 a4 a5 s
  | .vmxq a0 a1 a2 a3 a4 a5 => Sys2Proof.Machine.execVmxq a0 a1 a2 a3 a4 a5 s
  | .vmxdq a0 a1 a2 a3 a4 a5 => Sys2Proof.Machine.execVmxdq a0 a1 a2 a3 a4 a5 s
  | .vld a0 a1 a2 a3 a4 a5 => Sys2Proof.Machine.execVld a0 a1 a2 a3 a4 a5 s
  | .vst a0 a1 a2 a3 a4 => Sys2Proof.Machine.execVst a0 a1 a2 a3 a4 s
  | .tld a0 a1 a2 a3 => Sys2Proof.Machine.execTld a0 a1 a2 a3 s
  | .tst a0 a1 a2 a3 => Sys2Proof.Machine.execTst a0 a1 a2 a3 s
  | .tzero a0 a1 => Sys2Proof.Machine.execTzero a0 a1 s
  | .tmov a0 a1 a2 => Sys2Proof.Machine.execTmov a0 a1 a2 s
  | .tshape a0 a1 a2 => Sys2Proof.Machine.execTshape a0 a1 a2 s
  | .tgshape a0 a1 a2 => Sys2Proof.Machine.execTgshape a0 a1 a2 s
  | .mmaF64 a0 a1 a2 a3 a4 => Sys2Proof.Machine.execMmaF64 a0 a1 a2 a3 a4 s
  | .mmaF32 a0 a1 a2 a3 a4 => Sys2Proof.Machine.execMmaF32 a0 a1 a2 a3 a4 s
  | .mmaBf16 a0 a1 a2 a3 a4 => Sys2Proof.Machine.execMmaBf16 a0 a1 a2 a3 a4 s
  | .mmaF16 a0 a1 a2 a3 a4 => Sys2Proof.Machine.execMmaF16 a0 a1 a2 a3 a4 s
  | .mmaB8 a0 a1 a2 a3 a4 => Sys2Proof.Machine.execMmaB8 a0 a1 a2 a3 a4 s
  | .mmaMxe4m3 a0 a1 a2 a3 a4 => Sys2Proof.Machine.execMmaMxe4m3 a0 a1 a2 a3 a4 s
  | .mmaMxe5m2 a0 a1 a2 a3 a4 => Sys2Proof.Machine.execMmaMxe5m2 a0 a1 a2 a3 a4 s
  | .rmmaI8 a0 a1 a2 a3 a4 => Sys2Proof.Machine.execRmmaI8 a0 a1 a2 a3 a4 s
  | .rmmaI16 a0 a1 a2 a3 a4 => Sys2Proof.Machine.execRmmaI16 a0 a1 a2 a3 a4 s
  | .acqa a0 a1 => Sys2Proof.Machine.execAcqa a0 a1 s
  | .rela a0 a1 => Sys2Proof.Machine.execRela a0 a1 s
  | .ardt a0 a1 a2 => Sys2Proof.Machine.execArdt a0 a1 a2 s
  | .azero a0 a1 => Sys2Proof.Machine.execAzero a0 a1 s
  | .rfwd a0 a1 a2 => Sys2Proof.Machine.execRfwd a0 a1 a2 s
  | .rrevI64 a0 a1 a2 => Sys2Proof.Machine.execRrevI64 a0 a1 a2 s
  | .rrevI32 a0 a1 a2 => Sys2Proof.Machine.execRrevI32 a0 a1 a2 s
  | .rchk a0 a1 a2 => Sys2Proof.Machine.execRchk a0 a1 a2 s
  | .rodrd a0 a1 => Sys2Proof.Machine.execRodrd a0 a1 s
  | .roddeg a0 a1 => Sys2Proof.Machine.execRoddeg a0 a1 s
  | .spawn a0 a1 a2 => Sys2Proof.Machine.execSpawn a0 a1 a2 s
  | .exit a0 => Sys2Proof.Machine.execExit a0 s
  | .launch a0 a1 a2 => Sys2Proof.Machine.execLaunch a0 a1 a2 s
  | .migr a0 a1 a2 => Sys2Proof.Machine.execMigr a0 a1 a2 s
  | .waitq a0 a1 a2 => Sys2Proof.Machine.execWaitq a0 a1 a2 s
  | .tgstart a0 a1 => Sys2Proof.Machine.execTgstart a0 a1 s
  | .tgclk a0 a1 => Sys2Proof.Machine.execTgclk a0 a1 s
  | .bar a0 a1 a2 => Sys2Proof.Machine.execBar a0 a1 a2 s
  | .fence a0 a1 => Sys2Proof.Machine.execFence a0 a1 s
  | .bara a0 a1 => Sys2Proof.Machine.execBara a0 a1 s
  | .barw a0 a1 a2 => Sys2Proof.Machine.execBarw a0 a1 a2 s
  | .qput a0 a1 a2 a3 a4 => Sys2Proof.Machine.execQput a0 a1 a2 a3 a4 s
  | .qget a0 a1 a2 a3 a4 => Sys2Proof.Machine.execQget a0 a1 a2 a3 a4 s
  | .rten a0 => Sys2Proof.Machine.execRten a0 s
  | .tret a0 => Sys2Proof.Machine.execTret a0 s
  | .hsave a0 a1 => Sys2Proof.Machine.execHsave a0 a1 s
  | .hrest a0 a1 => Sys2Proof.Machine.execHrest a0 a1 s
  | .csave a0 a1 => Sys2Proof.Machine.execCsave a0 a1 s
  | .crest a0 a1 => Sys2Proof.Machine.execCrest a0 a1 s
  | .pcommit a0 a1 => Sys2Proof.Machine.execPcommit a0 a1 s
  | .pfree a0 a1 => Sys2Proof.Machine.execPfree a0 a1 s
  | .palloc a0 a1 a2 => Sys2Proof.Machine.execPalloc a0 a1 a2 s
  | .swtrap a0 a1 => Sys2Proof.Machine.execSwtrap a0 a1 s
  | .lrd a0 a1 a2 => Sys2Proof.Machine.execLrd a0 a1 a2 s
  | .lrdp a0 a1 a2 => Sys2Proof.Machine.execLrdp a0 a1 a2 s
  | .lrdv a0 a1 a2 => Sys2Proof.Machine.execLrdv a0 a1 a2 s
  | .lrdk a0 a1 a2 => Sys2Proof.Machine.execLrdk a0 a1 a2 s
  | .lrdt a0 a1 a2 => Sys2Proof.Machine.execLrdt a0 a1 a2 s
  | .lrdb a0 a1 a2 => Sys2Proof.Machine.execLrdb a0 a1 a2 s
  | .lrdg a0 a1 a2 => Sys2Proof.Machine.execLrdg a0 a1 a2 s
  | .ljoin a0 a1 => Sys2Proof.Machine.execLjoin a0 a1 s
  | .gset a0 a1 a2 => Sys2Proof.Machine.execGset a0 a1 a2 s
  | .rel a0 a1 a2 a3 => Sys2Proof.Machine.execRel a0 a1 a2 a3 s
  | .btour a0 a1 a2 a3 => Sys2Proof.Machine.execBtour a0 a1 a2 a3 s
  | .bwait a0 a1 a2 => Sys2Proof.Machine.execBwait a0 a1 a2 s
  | .bpass a0 a1 => Sys2Proof.Machine.execBpass a0 a1 s
  | .btag a0 a1 a2 => Sys2Proof.Machine.execBtag a0 a1 a2 s
  | .copy a0 a1 a2 a3 => Sys2Proof.Machine.execCopy a0 a1 a2 a3 s
  | .mcast a0 a1 a2 a3 => Sys2Proof.Machine.execMcast a0 a1 a2 a3 s
  | .join a0 a1 a2 => Sys2Proof.Machine.execJoin a0 a1 a2 s
  | .poll a0 a1 a2 => Sys2Proof.Machine.execPoll a0 a1 a2 s
  | .bbset a0 a1 a2 => Sys2Proof.Machine.execBbset a0 a1 a2 s
  | .bbwait a0 a1 a2 => Sys2Proof.Machine.execBbwait a0 a1 a2 s
  | .nop a0 => Sys2Proof.Machine.execNop a0 s
  | .sig a0 a1 => Sys2Proof.Machine.execSig a0 a1 s
  | .schedTrip a0 a1 => Sys2Proof.Machine.execSchedTrip a0 a1 s
  | .schedBias a0 a1 => Sys2Proof.Machine.execSchedBias a0 a1 s
  | .limm a0 => Sys2Proof.Machine.execLimm a0 s
  | .rnd a0 => Sys2Proof.Machine.execRnd a0 s
  | .sround => Sys2Proof.Machine.execSround s
  | .spar a0 a1 => Sys2Proof.Machine.execSpar a0 a1 s
  | .itinOpts a0 => Sys2Proof.Machine.execItinOpts a0 s
  | .reservedHint a0 a1 a2 => Sys2Proof.Machine.execReservedHint a0 a1 a2 s
  | .resultWrite a0 => Sys2Proof.Machine.execResultWrite a0 s
  | .divideResult a0 => Sys2Proof.Machine.execDivideResult a0 s
  | .vectorDivideResult a0 => Sys2Proof.Machine.execVectorDivideResult a0 s
  | .parkWake a0 => Sys2Proof.Machine.execParkWake a0 s
  | .waitExpired a0 => Sys2Proof.Machine.execWaitExpired a0 s
  | .takePendingEvent a0 => Sys2Proof.Machine.execTakePendingEvent a0 s
  | .deliver a0 a1 a2 => Sys2Proof.Machine.execDeliver a0 a1 a2 s
  | .combine a0 a1 a2 => Sys2Proof.Machine.execCombine a0 a1 a2 s
  | .perform a0 => Sys2Proof.Machine.execPerform a0 s
  | .withdrawal a0 => Sys2Proof.Machine.execWithdrawal a0 s
  | .complete a0 => Sys2Proof.Machine.execComplete a0 s
  | .fork a0 => Sys2Proof.Machine.execFork a0 s
  | .engineStep a0 => Sys2Proof.Machine.execEngineStep a0 s
  | .engineStartOffset a0 => Sys2Proof.Machine.execEngineStartOffset a0 s
  | .finish a0 => Sys2Proof.Machine.execFinish a0 s
  | .ship a0 => Sys2Proof.Machine.execShip a0 s
  | .migrantResident a0 a1 => Sys2Proof.Machine.execMigrantResident a0 a1 s
  | .matrixCommandStart a0 => Sys2Proof.Machine.execMatrixCommandStart a0 s
  | .matrixCommandComplete a0 => Sys2Proof.Machine.execMatrixCommandComplete a0 s
  | .freeze a0 a1 a2 => Sys2Proof.Machine.execFreeze a0 a1 a2 s
  | .pauseNotice a0 => Sys2Proof.Machine.execPauseNotice a0 s
  | .pauseResume a0 => Sys2Proof.Machine.execPauseResume a0 s
  | .timingLag a0 a1 => Sys2Proof.Machine.execTimingLag a0 a1 s
  | .timedGroupStart a0 => Sys2Proof.Machine.execTimedGroupStart a0 s
  | .tgstartBoundExpiry a0 => Sys2Proof.Machine.execTgstartBoundExpiry a0 s
  | .groupDeal a0 a1 => Sys2Proof.Machine.execGroupDeal a0 a1 s
  | .launchAging a0 => Sys2Proof.Machine.execLaunchAging a0 s
  | .launchCompletion a0 => Sys2Proof.Machine.execLaunchCompletion a0 s
  | .barrierComplete a0 => Sys2Proof.Machine.execBarrierComplete a0 s
  | .beadArrival a0 => Sys2Proof.Machine.execBeadArrival a0 s
  | .beadLanded a0 => Sys2Proof.Machine.execBeadLanded a0 s
  | .holdExpiry a0 => Sys2Proof.Machine.execHoldExpiry a0 s
  | .beadDeparture a0 a1 a2 => Sys2Proof.Machine.execBeadDeparture a0 a1 a2 s
  | .followOnEntry a0 => Sys2Proof.Machine.execFollowOnEntry a0 s
  | .copyFollowOn a0 => Sys2Proof.Machine.execCopyFollowOn a0 s
  | .copySlotFill a0 => Sys2Proof.Machine.execCopySlotFill a0 s
  | .pfreeAppend a0 => Sys2Proof.Machine.execPfreeAppend a0 s
  | .cswCtlReq a0 a1 => Sys2Proof.Machine.execCswCtlReq a0 a1 s
  | .preemptTimeout a0 a1 => Sys2Proof.Machine.execPreemptTimeout a0 a1 s
  | .drainLimit a0 a1 => Sys2Proof.Machine.execDrainLimit a0 a1 s
  | .switchedOut a0 a1 => Sys2Proof.Machine.execSwitchedOut a0 a1 s
  | .cswCtlRes a0 a1 => Sys2Proof.Machine.execCswCtlRes a0 a1 s
  | .uncorrectableError a0 => Sys2Proof.Machine.execUncorrectableError a0 s
  | .scrubEnd a0 => Sys2Proof.Machine.execScrubEnd a0 s
  | .hang a0 a1 => Sys2Proof.Machine.execHang a0 a1 s
  | .intReq a0 a1 a2 => Sys2Proof.Machine.execIntReq a0 a1 a2 s
  | .intReqArrival a0 => Sys2Proof.Machine.execIntReqArrival a0 s
  | .vfRun a0 => Sys2Proof.Machine.execVfRun a0 s
  | .vfDeschedule a0 => Sys2Proof.Machine.execVfDeschedule a0 s
  | .vfPause a0 => Sys2Proof.Machine.execVfPause a0 s
  | .vfReset a0 => Sys2Proof.Machine.execVfReset a0 s
  | .mbox a0 a1 => Sys2Proof.Machine.execMbox a0 a1 s
  | .inboundRead a0 a1 a2 a3 => Sys2Proof.Machine.execInboundRead a0 a1 a2 a3 s
  | .inboundWrite a0 a1 a2 a3 => Sys2Proof.Machine.execInboundWrite a0 a1 a2 a3 s
  | .budgetEpoch a0 => Sys2Proof.Machine.execBudgetEpoch a0 s
  | .linkNarrow a0 => Sys2Proof.Machine.execLinkNarrow a0 s
  | .linkWiden a0 => Sys2Proof.Machine.execLinkWiden a0 s
  | .quartzSlew a0 => Sys2Proof.Machine.execQuartzSlew a0 s
  | .checkpoint => Sys2Proof.Machine.execCheckpoint s
  | .powerGood a0 => Sys2Proof.Machine.execPowerGood a0 s
  | .startTimerExpiry => Sys2Proof.Machine.execStartTimerExpiry s
  | .discoveryFlit a0 a1 a2 => Sys2Proof.Machine.execDiscoveryFlit a0 a1 a2 s
  | .discoveryTimeout => Sys2Proof.Machine.execDiscoveryTimeout s
  | .bootOk => Sys2Proof.Machine.execBootOk s
  | .cfgReq a0 a1 a2 => Sys2Proof.Machine.execCfgReq a0 a1 a2 s
  | .coreKill a0 a1 => Sys2Proof.Machine.execCoreKill a0 a1 s
  | .coreSvc a0 => Sys2Proof.Machine.execCoreSvc a0 s
  | .rodFailSet a0 a1 => Sys2Proof.Machine.execRodFailSet a0 a1 s
  | .principalRegister a0 => Sys2Proof.Machine.execPrincipalRegister a0 s
  | .principalDeregister a0 => Sys2Proof.Machine.execPrincipalDeregister a0 s
  | .scopeSet a0 a1 => Sys2Proof.Machine.execScopeSet a0 a1 s
  | .xlatInvPage a0 a1 => Sys2Proof.Machine.execXlatInvPage a0 a1 s
  | .xlatInvAll a0 => Sys2Proof.Machine.execXlatInvAll a0 s
  | .xlatInvStage2 a0 a1 => Sys2Proof.Machine.execXlatInvStage2 a0 a1 s
  | .depVal a0 => Sys2Proof.Machine.execDepVal a0 s
  | .registerWrite a0 a1 a2 a3 => Sys2Proof.Machine.execRegisterWrite a0 a1 a2 a3 s
  | .supplyDroop => Sys2Proof.Machine.execSupplyDroop s
  | .powerThrottle => Sys2Proof.Machine.execPowerThrottle s
  | .hbmScrub a0 a1 a2 => Sys2Proof.Machine.execHbmScrub a0 a1 a2 s
  | .illegalOp a0 a1 => Sys2Proof.Machine.execIllegalOp a0 a1 s
  | .fetchFault => Sys2Proof.Machine.execFetchFault s
  | .powerLoss => Sys2Proof.Machine.execPowerLoss s
  | .sagEnd => Sys2Proof.Machine.execSagEnd s
  | .backUnderCap => Sys2Proof.Machine.execBackUnderCap s
  | .checkpointRestore => Sys2Proof.Machine.execCheckpointRestore s

end Sys2Proof.Machine
end

