-- ==== Sys2Proof/Machine/Step.lean ====
section
/-! DEFINITION. One step of the machine. -/

namespace Sys2Proof.Machine

/-- One step: a row from outside, else a move that the machine takes by itself, else what the first thread whose turn it
is does, else the passing of one core cycle. -/
def step (s : State) : Host.Outcome State Fault Refusal :=
  match s.nextInput with
  | some (i, t) => exec i t
  | none =>
    match s.auto with
    | some t => .next t
    | none =>
      match s.turn with
      | some (.move t) => .next t
      | some (.run i t) => exec i t
      | some (.illegal w r t) => execIllegalOp w r t
      | some (.noFetch t) => execFetchFault t
      | none => .next s.tick

/-- The state with an instruction placed where the next step fetches its word: the word of `w`'s low `nbits` bits, under a
range entry that maps it, before a compute thread whose turn it is. -/
def State.withFetchWord (s : State) (nbits w : Nat) : State :=
  s.place (Sys2Proof.wordBytes (BitVec.ofNat 32 (w % 2 ^ nbits)))

end Sys2Proof.Machine
end

