-- ==== Sys2Proof/Safety.lean ====
section
/-! DEFINITION. What a safe run is, in the terms that statements use: memory in its canonical form, when a word issues, when it
goes on after a park, when an access stays in the issuing core's own local store, and the states in which words leave the
machine. -/

namespace Sys2Proof

open Sys2Proof.Machine

/-- The invariant that every step keeps: memory is in its one canonical form (addresses rise strictly, and no entry equals
what an unlisted address reads as). -/
def Inv (s : State) : Prop := Memory.wf s.mem = true

/-- A state from which the machine goes on. -/
def Safe (s : State) : Prop := Inv s ∧ ∃ t, step s = .next t

/-! ### Words -/

/-- Word `i` issues for the first time for the current thread, which stands as `th` with every due result written (02 R46),
and no check of the issue order stops it: no earlier transfer went astray (20 R425), its prefixes fit it (03 R81), a presence mask
that it takes is no other operand of it (14 R335), its unit is there (03 R87 step 7), a migrant names none of its missing registers (08 R205), under TSTAT.SBC no result it touches is still
on its way (02 R47, R49), and no unfinished matrix command stands in its way (14 R331). -/
structure Issues (i : Instr) (s : State) (th : Thread) : Prop where
  live : ∃ x, s.thread? s.cur = some x ∧ x.again = none ∧ (x.settle s.rot).strayed = none ∧
    th = (x.settle s.rot).landed
  chain : chainOk th.chain i = true
  unit : absentFor th.kind i = false
  regs : th.kind = .migrant → migReg i = none
  early : th.sbc = true → earlyAt th (s.cmds s.cur) (th.early i (th.touches (s.core (coreOf s.cur)) i)) s.rot = none
  banks : s.busy s.cur
    (bankMask ((th.touches (s.core (coreOf s.cur)) i).1 ++ (th.touches (s.core (coreOf s.cur)) i).2))
    (tileMask (th.touches (s.core (coreOf s.cur)) i).2) = false
  clear : th.sparClash i = false

/-- Word `i` goes on in phase `a.phase` after its park has ended, for the current thread, which stands as `th`. -/
def GoesOn (i : Instr) (s : State) (th : Thread) (a : Again) : Prop :=
  ∃ x, s.thread? s.cur = some x ∧ x.again = some a ∧ a.instr = i ∧ th = x.settle s.rot

/-- The state in which the current thread's word `i` has retired with the thread's registers as in `th` and the rest of the
machine as in `t` (02 R45): the PC is at the next word, and the next word's rotation follows the word's stall count (03 R59). -/
def retired (i : Instr) (s : State) (th : Thread) (t : State) : State :=
  t.setThread s.cur { th.retire i with nextRot := s.rot + 1 + stallOf i }

/-- The state after a word that went on from a park: its stall count is counted from waking (03 R59). -/
def resumedTo (i : Instr) (s : State) (th : Thread) (t : State) : State :=
  t.setThread s.cur { th.retire i with nextRot := s.rot + stallOf i }

/-- The state in which the current thread's word has retired and gone to the address `g` (04 R106 to R110). -/
def jumped (i : Instr) (s : State) (th : Thread) (g : Word) : State :=
  s.setThread s.cur { th.retire i with pc := g, nextRot := s.rot + 1 + stallOf i, xfer := some (th.pc, g) }

/-- The state in which the current thread is parked at its word (02 R45): its fixed-latency results are written and its matrix
commands are due no more (02 R50), but where the park only holds an access back (12 R296). -/
def parked (s : State) (th : Thread) (p : Park) (t : State) : State :=
  (if p.held then t else t.freeCmds s.cur).setThread s.cur { (if p.held then th else th.flush) with park := some p, again := none, retry := none, nextRot := s.rot + 1 }

/-- The state in which the current thread's word has taken a precise trap (20 R408, R410). -/
def trapped (s : State) (th : Thread) (c : Cause) (i0 i1 : Word) (lab : Label) (t : State) : State :=
  t.preciseTrap s.cur th c i0 i1 lab (s.rot + 1)

/-! ### Accesses -/

/-- The access that the current thread, standing as `th`, makes at `va` passes every check of 11 R267 and leaves the state as
`t`; its place `p` is plain memory of the issuing core's own local store, no store to that home is open (12 R283), and nothing
stands in the wait lists. -/
structure Local (s : State) (th : Thread) (q : Want) (va : Word) (p : Place) (t : State) : Prop where
  check : s.check (whoIs s.cur th) q va = (t, .ok p)
  here : p.here = true
  home : p.home = .core (coreOf s.cur)
  space : spaceOf p.pa = 1
  plain : areaOf (t.pdie (dieOf (coreOf s.cur)) th.part) (p.pa % 2 ^ 19) = .plain
  outside : p.leaf.rp = none
  inside : p.egress = false
  closed : t.homeBusy s.cur th [p.home] = false
  quiet : t.waiters = []

end Sys2Proof
end

