-- ==== Sys2Proof/Rules/Vector.lean ====
section
/-! DEFINITION. The results that the spec's tables give the vector words, element by element, in the form that statements
use: written from 06 Tables 6.1 to 6.9 and not from the meanings. -/

namespace Sys2Proof.Rules

open Sys2Proof.Machine

/-- The mask bit that governs element `e` of width `w` (05 R125). -/
def governor (w e : Nat) : Nat := if w = 8 then e / 4 else if w = 16 then e / 2 else e

/-- Element `e` of width `w`: bits [w(e + 1) − 1 : w·e] (05 R125). -/
def element (x : VBits) (w e : Nat) : Nat := x.toNat / 2 ^ (w * e) % 2 ^ w

/-- What a vector word writes to v[d]. -/
structure VectorResult where
  d : VReg
  /-- The lane mask; k0 where the word has none. -/
  k : KReg
  tag : Tag
  /-- The element width of the destination. -/
  w : Nat
  /-- The elements from this one on are written zero. -/
  low : Nat
  /-- The result of an enabled element, modulo 2^w, and the flags it raises. -/
  value : Nat → Nat × Flags
  /-- The labels of what the word reads, besides CTXL and what a mask adds. -/
  src : Label
  /-- The latency (06 Table 6.1); 0 for a word that parks. -/
  lat : Nat

/-- Whether a mask enables element `e`. -/
def VectorResult.takes (r : VectorResult) (th : Thread) (e : Nat) : Bool := (th.kreg r.k).val.getLsbD (governor r.w e)

/-- Element `e` of the register after the word (06 R150, R165). -/
def VectorResult.after (r : VectorResult) (th : Thread) (e : Nat) : Nat :=
  if r.low ≤ e then 0 else if r.takes th e then (r.value e).1 % 2 ^ r.w else element (th.vreg r.d).bits r.w e

/-- The label of the register after the word (06 R150). -/
def VectorResult.label (r : VectorResult) (th : Thread) : Label :=
  r.src ||| th.ctxl ||| (if r.k = 0 then 0 else (th.kreg r.k).lab ||| (th.vreg r.d).lab)

/-- Whether `fl` is the union of the flags that the enabled elements raise (05 R139). -/
def VectorResult.flags (r : VectorResult) (th : Thread) (fl : Flags) : Prop :=
  ∀ b, fl.getLsbD b = true ↔ ∃ e, e < r.low ∧ r.takes th e = true ∧ (r.value e).2.getLsbD b = true

/-- Whether `m` marks exactly the enabled elements that raise an enabled exception (05 R140). -/
def VectorResult.raised (r : VectorResult) (th : Thread) (m : Word) : Prop :=
  ∀ e, m.getLsbD e = true ↔ e < r.low ∧ r.takes th e = true ∧ (r.value e).2 &&& th.fpEnable ≠ 0

/-- Whether no enabled element raises an exception that FPC.EN enables. -/
def VectorResult.calm (r : VectorResult) (th : Thread) : Prop :=
  ∀ e, e < r.low → r.takes th e = true → (r.value e).2 &&& th.fpEnable = 0

/-- An element read as a number of an integer type. -/
def asNum (t : ITy) (x : VBits) (e : Nat) : Int := intOf (ityS t) (ityW t) (element x (ityW t) e)

/-- An integer modulo 2^w, as the element of `w` bits that holds it. -/
def wrap (w : Nat) (x : Int) : Nat := (x % (2 ^ w : Nat)).toNat

/-- The element results of 06 Table 6.2. -/
def integer (t : ITy) (x y : Int) : Instr → Option Int
  | .vaddI .. => some (x + y)
  | .vsubI .. => some (x - y)
  | .vmulI .. => some (x * y)
  | .vmulh .. => some (x * y / (2 ^ ityW t : Nat))
  | .vminI .. => some (min x y)
  | .vmaxI .. => some (max x y)
  | .vadds .. => some (satInt (x + y) (intLo (ityS t) (ityW t)) (intHi (ityS t) (ityW t)))
  | .vsubs .. => some (satInt (x - y) (intLo (ityS t) (ityW t)) (intHi (ityS t) (ityW t)))
  | _ => none

/-- A word of 06 Table 6.2. -/
def integerWord (th : Thread) (i : Instr) (d a b : VReg) (k : KReg) (t : ITy) : VectorResult where
  d := d
  k := k
  tag := ityTag t
  w := ityW t
  low := 512 / ityW t
  value := fun e => (wrap (ityW t) ((integer t (asNum t (th.vreg a).bits e) (asNum t (th.vreg b).bits e) i).getD 0), 0)
  src := (th.vreg a).lab ||| (th.vreg b).lab
  lat := 1

/-- The element results of 06 Table 6.3 on bit strings of `w` bits. -/
def logic (w x y : Nat) : Instr → Option Nat
  | .vand .. => some (x &&& y)
  | .vor .. => some (x ||| y)
  | .vxor .. => some (x ^^^ y)
  | .vandn .. => some (x &&& (2 ^ w - 1 - y))
  | .vsll .. => some (x * 2 ^ (y % w))
  | .vsrl .. => some (x / 2 ^ (y % w))
  | .vsra .. => some (wrap w (intOf true w x / (2 ^ (y % w) : Nat)))
  | .vrol .. => some (x * 2 ^ (y % w) % 2 ^ w + x / 2 ^ (w - y % w))
  | .vror .. => some (x / 2 ^ (y % w) + x * 2 ^ (w - y % w) % 2 ^ w)
  | .vpopc .. => some (popcNat x w)
  | .vclz .. => some (clzNat x w)
  | .vnegL .. => some (2 ^ w - x)
  | .vabsL .. => some (if x < 2 ^ (w - 1) then x else 2 ^ w - x)
  | _ => none

/-- A word of 06 Table 6.3; `b` is `a` for the words of one source. -/
def logicWord (th : Thread) (i : Instr) (d a b : VReg) (k : KReg) (w : Wid) : VectorResult where
  d := d
  k := k
  tag := (th.vreg a).tag
  w := widBits w
  low := 512 / widBits w
  value := fun e => ((logic (widBits w) (element (th.vreg a).bits (widBits w) e) (element (th.vreg b).bits (widBits w) e) i).getD 0, 0)
  src := (th.vreg a).lab ||| (th.vreg b).lab
  lat := 1

/-- The element results of 06 Table 6.4: each rounded once, with element number `e` for stochastic bits. -/
def float (f : Fmt) (m : Rnd) (e x y z : Nat) : Instr → Option (Nat × Flags)
  | .vaddF .. => some (fAdd f m e x y)
  | .vsubF .. => some (fSub f m e x y)
  | .vmulF .. => some (fMul f m e x y)
  | .vfma .. => some (fFma f m e false false x y z)
  | .vfms .. => some (fFma f m e false true x y z)
  | .vfnma .. => some (fFma f m e true false x y z)
  | .vminF .. => some (fMin f false x y)
  | .vmaxF .. => some (fMin f true x y)
  | .vabsF .. => some (fAbs f false x)
  | .vnegF .. => some (fAbs f true x)
  | .vdiv .. => some (fDiv f m e x y)
  | .vsqrt .. => some (fSqrt f m e x)
  | _ => none

/-- A word of 06 Table 6.4; `b` is `a` for the words of one source, and `src` is the union of the operands' labels. -/
def floatWord (th : Thread) (i : Instr) (d a b : VReg) (k : KReg) (f : FFmt) (src : Label) (lat : Nat) : VectorResult where
  d := d
  k := k
  tag := ffmtTag f
  w := (ffmt f).width
  low := 512 / (ffmt f).width
  value := fun e => (float (ffmt f) th.rnd e (element (th.vreg a).bits (ffmt f).width e)
    (element (th.vreg b).bits (ffmt f).width e) (element (th.vreg d).bits (ffmt f).width e) i).getD (0, 0)
  src := src
  lat := lat

/-- F3 in .f64, F2 in the other formats (06 Table 6.1). -/
def floatLat (f : FFmt) : Nat := if f = .f64 then 3 else 2

/-- The numbers of the elements of width `w` that a mask enables, in order. -/
def chosen (k : BitVec 16) (x : VBits) (w : Nat) : List Nat :=
  ((List.range (512 / w)).filter fun e => k.getLsbD (governor w e)).map (element x w)

/-- The results of 06 Table 6.6 for an integer type. -/
def reduceInt (t : ITy) (l : List Nat) : Instr → Option Nat
  | .vradd .. => some (l.sum % 2 ^ ityW t)
  | .vrmin .. => some (wrap (ityW t) ((l.map (intOf (ityS t) (ityW t))).foldl min (intHi (ityS t) (ityW t))))
  | .vrmax .. => some (wrap (ityW t) ((l.map (intOf (ityS t) (ityW t))).foldl max (intLo (ityS t) (ityW t))))
  | _ => none

/-- The results of 06 Table 6.6 for a float format. -/
def reduceFloat (f : Fmt) (m : Rnd) (l : List Nat) : Instr → Option (Nat × Flags)
  | .vradd .. => some (sumNums f m 0 (l.map (numOf f)))
  | .vrmin .. => some (redMin f false l)
  | .vrmax .. => some (redMin f true l)
  | _ => none

/-- A reduction: the result in element 0, zeros elsewhere, every element written (06 R159). -/
def reduceWord (th : Thread) (i : Instr) (d a : VReg) (k : KReg) (t : RedTy) : VectorResult where
  d := d
  k := 0
  tag := match t with | .int t => ityTag t | .flt f => ffmtTag f
  w := 512
  low := 1
  value := fun _ => match t with
    | .int t => ((reduceInt t (chosen (th.kreg k).val (th.vreg a).bits (ityW t)) i).getD 0, 0)
    | .flt f => (reduceFloat (ffmt f) th.rnd (chosen (th.kreg k).val (th.vreg a).bits (ffmt f).width) i).getD (0, 0)
  src := (th.vreg a).lab ||| (th.kreg k).lab
  lat := 4

/-- A word that writes every element, of latency `lat`, and raises no flag. -/
def wholeWord (d : VReg) (tag : Tag) (w : Nat) (value : Nat → Nat) (src : Label) (lat : Nat) : VectorResult :=
  ⟨d, 0, tag, w, 512 / w, fun e => (value e, 0), src, lat⟩

/-- The width of a tag's elements, 32 bits for raw (06 R161). -/
def selWidth (g : Tag) : Nat := (tagWidth g).getD 32

/-- The tag that vbcast and vins leave (06 R164). -/
def tagKept (g : Tag) (w : Nat) (other : Tag) : Tag := if tagWidth g = some w then g else other

/-- The words that write a vector register, but for vdiv, vsqrt and loads. -/
def vector (th : Thread) (i : Instr) : Option VectorResult :=
  match i with
  | .vaddI _ d a b k t | .vsubI _ d a b k t | .vmulI _ d a b k t | .vmulh _ d a b k t | .vminI _ d a b k t | .vmaxI _ d a b k t
  | .vadds _ d a b k t | .vsubs _ d a b k t => some (integerWord th i d a b k t)
  | .vand _ d a b k w | .vor _ d a b k w | .vxor _ d a b k w | .vandn _ d a b k w | .vsll _ d a b k w | .vsrl _ d a b k w
  | .vsra _ d a b k w | .vrol _ d a b k w | .vror _ d a b k w => some (logicWord th i d a b k w)
  | .vpopc _ d a k w | .vclz _ d a k w | .vnegL _ d a k w | .vabsL _ d a k w => some (logicWord th i d a a k w)
  | .vaddF _ d a b k f | .vsubF _ d a b k f | .vmulF _ d a b k f =>
    some (floatWord th i d a b k f ((th.vreg a).lab ||| (th.vreg b).lab) (floatLat f))
  | .vfma _ d a b k f | .vfms _ d a b k f | .vfnma _ d a b k f =>
    some (floatWord th i d a b k f ((th.vreg a).lab ||| (th.vreg b).lab ||| (th.vreg d).lab) (floatLat f))
  | .vminF _ d a b k f | .vmaxF _ d a b k f => some (floatWord th i d a b k f ((th.vreg a).lab ||| (th.vreg b).lab) 2)
  | .vabsF _ d a k f | .vnegF _ d a k f => some (floatWord th i d a a k f (th.vreg a).lab 2)
  | .vradd _ d a k t | .vrmin _ d a k t | .vrmax _ d a k t => some (reduceWord th i d a k t)
  | .vmov _ d a => some (wholeWord d (th.vreg a).tag 64 (element (th.vreg a).bits 64) (th.vreg a).lab 1)
  | .vperm32 _ d a b => some (wholeWord d (th.vreg a).tag 32
      (fun e => element (th.vreg a).bits 32 (element (th.vreg b).bits 32 e % 16)) ((th.vreg a).lab ||| (th.vreg b).lab) 3)
  | .vperm64 _ d a b => some (wholeWord d (th.vreg a).tag 64
      (fun e => element (th.vreg a).bits 64 (element (th.vreg b).bits 64 e % 8)) ((th.vreg a).lab ||| (th.vreg b).lab) 3)
  | .vsel _ d a b k =>
    let w := selWidth (th.vreg a).tag
    some (wholeWord d (th.vreg a).tag w
      (fun e => element (if (th.kreg k).val.getLsbD (governor w e) then (th.vreg a).bits else (th.vreg b).bits) w e)
      ((th.vreg a).lab ||| (th.vreg b).lab ||| (th.kreg k).lab) 1)
  | .vclmulLo32 _ d a b k => some ⟨d, k, 7, 32, 16,
      fun e => (clmulNat (element (th.vreg a).bits 32 e) (element (th.vreg b).bits 32 e) 32, 0), (th.vreg a).lab ||| (th.vreg b).lab, 3⟩
  | .vclmulHi32 _ d a b k => some ⟨d, k, 7, 32, 16,
      fun e => (clmulNat (element (th.vreg a).bits 32 e) (element (th.vreg b).bits 32 e) 32 / 2 ^ 32, 0),
      (th.vreg a).lab ||| (th.vreg b).lab, 3⟩
  | .vclmulLo64 _ d a b k => some ⟨d, k, 8, 64, 8,
      fun e => (clmulNat (element (th.vreg a).bits 64 e) (element (th.vreg b).bits 64 e) 64, 0), (th.vreg a).lab ||| (th.vreg b).lab, 3⟩
  | .vclmulHi64 _ d a b k => some ⟨d, k, 8, 64, 8,
      fun e => (clmulNat (element (th.vreg a).bits 64 e) (element (th.vreg b).bits 64 e) 64 / 2 ^ 64, 0),
      (th.vreg a).lab ||| (th.vreg b).lab, 3⟩
  | .vbcast32 _ d a k => some ⟨d, k, tagKept (th.vreg d).tag 32 7, 32, 16, fun _ => ((th.sv a).toNat, 0), th.sl a, 1⟩
  | .vbcast64 _ d a k => some ⟨d, k, tagKept (th.vreg d).tag 64 8, 64, 8, fun _ => ((th.sv a).toNat, 0), th.sl a, 1⟩
  | .vins32 _ d a n => some (wholeWord d (tagKept (th.vreg d).tag 32 7) 32
      (fun e => if e = n.toNat then (th.sv a).toNat else element (th.vreg d).bits 32 e) (th.sl a ||| (th.vreg d).lab) 1)
  | .vins64 _ d a n => some (wholeWord d (tagKept (th.vreg d).tag 64 8) 64
      (fun e => if e = n.toNat then (th.sv a).toNat else element (th.vreg d).bits 64 e) (th.sl a ||| (th.vreg d).lab) 1)
  | .vcvt _ d a sat k f =>
    let ws := (tagWidth (th.vreg a).tag).getD 8
    let wd := (tagWidth f).getD 8
    some ⟨d, k, f, wd, min (512 / ws) (512 / wd), fun e => convert (th.vreg a).tag f th.rnd e sat (element (th.vreg a).bits ws e),
      (th.vreg a).lab, 2⟩
  | .vscale _ d a b k f =>
    let m := fwidFmt f
    some ⟨d, k, fwidTag f, m.width, 512 / m.width, fun e => scaleNum m th.rnd e (numOf m (element (th.vreg a).bits m.width e))
      (intOf true m.width (element (th.vreg b).bits m.width e)), (th.vreg a).lab ||| (th.vreg b).lab, if f = .f64 then 3 else 2⟩
  | .vgexp _ d a k f =>
    let m := fwidFmt f
    some ⟨d, k, if f = .f64 then 4 else 3, m.width, 512 / m.width, fun e => gexp m (element (th.vreg a).bits m.width e),
      (th.vreg a).lab, if f = .f64 then 3 else 2⟩
  | .vmxsc _ d a b k f =>
    let na := blockNums (th.kreg k).val (th.vreg a)
    let nb := blockNums (th.kreg k).val (th.vreg b)
    some ⟨d, 0, 5, 512, 1,
      fun _ => (if (th.vreg a).tag = 0x0A then scaleCode f (na ++ nb) else scaleCode f na + 256 * scaleCode f nb, 0),
      (th.vreg a).lab ||| (th.vreg b).lab ||| (if k = 0 then 0 else (th.kreg k).lab ||| (th.vreg d).lab), 3⟩
  | .vmxq _ d a b k f =>
    let m := (tagFmt (th.vreg a).tag).getD fp32
    let sc := element (th.vreg b).bits 8 0
    some ⟨d, k, mxTag f, 8, 512 / m.width, fun e =>
      let x := numOf m (element (th.vreg a).bits m.width e)
      if sc = 0xFF then ((mxFmt f).nanc, if isSig x then fInvalid else 0) else scaleNum (mxFmt f) th.rnd e x (127 - sc),
      (th.vreg a).lab ||| (th.vreg b).lab, 2⟩
  | .vmxdq _ d a b k f =>
    let sc := element (th.vreg b).bits 8 0
    some ⟨d, k, 0x0C, 16, 32, fun e =>
      let x := numOf (mxFmt f) (element (th.vreg a).bits 8 e)
      if sc = 0xFF then (bf16.nanc, if isSig x then fInvalid else 0) else scaleNum bf16 th.rnd e x (sc - 127),
      (th.vreg a).lab ||| (th.vreg b).lab, 2⟩
  | _ => none

/-- vdiv and vsqrt (06 R155, R156). -/
def slowVector (th : Thread) (i : Instr) : Option VectorResult :=
  match i with
  | .vdiv _ d a b k f => some (floatWord th i d a b k f ((th.vreg a).lab ||| (th.vreg b).lab) 0)
  | .vsqrt _ d a k f => some (floatWord th i d a a k f (th.vreg a).lab 0)
  | _ => none

/-- An operand whose tag a word checks: its register, whether it passes, and the tag code that FMT.TAG reports as required
(05 R123; 06 R151). -/
abbrev TagRule : Type := VReg × Bool × Nat

/-- An integer tag of width `w`, of either signedness (05 Table 5.1). -/
def intOk (w : Nat) (g : Tag) : Bool :=
  match w with
  | 8 => g = 1 || g = 5
  | 16 => g = 2 || g = 6
  | 32 => g = 3 || g = 7
  | _ => g = 4 || g = 8

/-- The .iN code of a width. -/
def iCode (w : Wid) : Nat := match w with | .w8 => 1 | .w16 => 2 | .w32 => 3 | .w64 => 4

/-- The checks of an integer word. -/
def intTags (th : Thread) (t : ITy) (l : List VReg) : List TagRule :=
  l.map fun r => (r, intOk (ityW t) (th.vreg r).tag, (ityTag t).toNat)
/-- The checks of a word on bit strings. -/
def widTags (th : Thread) (w : Wid) (l : List VReg) : List TagRule :=
  l.map fun r => (r, tagWidth (th.vreg r).tag = some (widBits w), iCode w)
/-- The checks of a float word. -/
def fmtTags (th : Thread) (f : FFmt) (l : List VReg) : List TagRule :=
  l.map fun r => (r, (th.vreg r).tag = ffmtTag f, (ffmtTag f).toNat)

/-- The tag checks of the vector words, in their order. -/
def tags (th : Thread) : Instr → List TagRule
  | .vaddI _ _ a b _ t | .vsubI _ _ a b _ t | .vmulI _ _ a b _ t | .vmulh _ _ a b _ t | .vminI _ _ a b _ t | .vmaxI _ _ a b _ t
  | .vadds _ _ a b _ t | .vsubs _ _ a b _ t | .vcmpInt _ _ a b _ t _ => intTags th t [a, b]
  | .vand _ _ a b _ w | .vor _ _ a b _ w | .vxor _ _ a b _ w | .vandn _ _ a b _ w | .vsll _ _ a b _ w | .vsrl _ _ a b _ w
  | .vsra _ _ a b _ w | .vrol _ _ a b _ w | .vror _ _ a b _ w => widTags th w [a, b]
  | .vpopc _ _ a _ w | .vclz _ _ a _ w | .vnegL _ _ a _ w | .vabsL _ _ a _ w => widTags th w [a]
  | .vaddF _ _ a b _ f | .vsubF _ _ a b _ f | .vmulF _ _ a b _ f | .vminF _ _ a b _ f | .vmaxF _ _ a b _ f | .vdiv _ _ a b _ f
  | .vcmpFloat _ _ a b _ f _ => fmtTags th f [a, b]
  | .vfma _ d a b _ f | .vfms _ d a b _ f | .vfnma _ d a b _ f => fmtTags th f [a, b, d]
  | .vabsF _ _ a _ f | .vnegF _ _ a _ f | .vsqrt _ _ a _ f => fmtTags th f [a]
  | .vradd _ _ a _ t | .vrmin _ _ a _ t | .vrmax _ _ a _ t => match t with
    | .int t => intTags th t [a]
    | .flt f => fmtTags th f [a]
  | .vsel _ _ a b _ => [(b, (th.vreg b).tag = (th.vreg a).tag, (th.vreg a).tag.toNat)]
  | .vclmulLo32 _ _ a b _ | .vclmulHi32 _ _ a b _ => [(a, intOk 32 (th.vreg a).tag, 3), (b, intOk 32 (th.vreg b).tag, 3)]
  | .vclmulLo64 _ _ a b _ | .vclmulHi64 _ _ a b _ => [(a, intOk 64 (th.vreg a).tag, 4), (b, intOk 64 (th.vreg b).tag, 4)]
  | .vcvt _ _ a _ _ _ => [(a, (tagWidth (th.vreg a).tag).isSome, 1)]
  | .vscale _ _ a b _ f => [(a, (th.vreg a).tag = fwidTag f, (fwidTag f).toNat),
      (b, (th.vreg b).tag = (if f = .f64 then 4#6 else 3#6), if f = .f64 then 4 else 3)]
  | .vgexp _ _ a _ f => [(a, (th.vreg a).tag = fwidTag f, (fwidTag f).toNat)]
  | .vmxsc _ _ a b _ _ => [(a, (th.vreg a).tag = 0x0A || (th.vreg a).tag = 0x0B || (th.vreg a).tag = 0x0C, 0x0A),
      (b, (th.vreg b).tag = (th.vreg a).tag, (th.vreg a).tag.toNat)]
  | .vmxq _ _ a b _ _ => [(a, (th.vreg a).tag = 0x0A || (th.vreg a).tag = 0x0B || (th.vreg a).tag = 0x0C, 0x0A),
      (b, (th.vreg b).tag = 5, 5)]
  | .vmxdq _ _ a b _ f => [(a, (th.vreg a).tag = mxTag f, (mxTag f).toNat), (b, (th.vreg b).tag = 5, 5)]
  | _ => []

/-! ### Lane masks (06 R157, R158, R162) -/

/-- A word that writes a lane mask at once: where, the value, the union of the labels of the sources. -/
def mask (th : Thread) : Instr → Option (KReg × BitVec 16 × Label)
  | .kand _ d a b => some (d, (th.kreg a).val &&& (th.kreg b).val, (th.kreg a).lab ||| (th.kreg b).lab)
  | .kor _ d a b => some (d, (th.kreg a).val ||| (th.kreg b).val, (th.kreg a).lab ||| (th.kreg b).lab)
  | .kxor _ d a b => some (d, (th.kreg a).val ^^^ (th.kreg b).val, (th.kreg a).lab ||| (th.kreg b).lab)
  | .knot _ d a => some (d, ~~~(th.kreg a).val, (th.kreg a).lab)
  | .kmov _ d a => some (d, (th.kreg a).val, (th.kreg a).lab)
  | _ => none

/-- A vector compare: the mask written, the lane mask, the element width, whether the condition holds for an element and the
flags it raises, the labels of the sources, the latency. -/
structure CompareResult where
  d : KReg
  k : KReg
  w : Nat
  value : Nat → Bool × Flags
  src : Label
  lat : Nat

/-- Bit `i` of the mask after a vector compare (06 R157). -/
def CompareResult.after (r : CompareResult) (th : Thread) (i : Nat) : Prop :=
  if (th.kreg r.k).val.getLsbD i = false then (th.kreg r.d).val.getLsbD i = true
  else (∃ e, e < 512 / r.w ∧ governor r.w e = i) ∧ ∀ e, e < 512 / r.w → governor r.w e = i → (r.value e).1 = true

/-- The label of the mask after a vector compare. -/
def CompareResult.label (r : CompareResult) (th : Thread) : Label :=
  r.src ||| th.ctxl ||| (if r.k = 0 then 0 else (th.kreg r.k).lab ||| (th.kreg r.d).lab)

/-- The union of the flags of the enabled elements. -/
def CompareResult.flags (r : CompareResult) (th : Thread) (fl : Flags) : Prop :=
  ∀ b, fl.getLsbD b = true ↔
    ∃ e, e < 512 / r.w ∧ (th.kreg r.k).val.getLsbD (governor r.w e) = true ∧ (r.value e).2.getLsbD b = true

/-- Whether no enabled element raises an enabled exception. -/
def CompareResult.calm (r : CompareResult) (th : Thread) : Prop :=
  ∀ e, e < 512 / r.w → (th.kreg r.k).val.getLsbD (governor r.w e) = true → (r.value e).2 &&& th.fpEnable = 0

/-- Whether `m` marks the enabled elements that raise an enabled exception. -/
def CompareResult.raised (r : CompareResult) (th : Thread) (m : Word) : Prop :=
  ∀ e, m.getLsbD e = true ↔
    e < 512 / r.w ∧ (th.kreg r.k).val.getLsbD (governor r.w e) = true ∧ (r.value e).2 &&& th.fpEnable ≠ 0

/-- An integer condition on two elements (06 R158). -/
def intHolds (c : ICond) (t : ITy) (x y : VBits) (e : Nat) : Bool :=
  match c with
  | .eq => asNum t x e = asNum t y e
  | .ne => asNum t x e ≠ asNum t y e
  | .lt => asNum t x e < asNum t y e
  | .le => asNum t x e ≤ asNum t y e
  | .gt => asNum t y e < asNum t x e
  | .ge => asNum t y e ≤ asNum t x e
  | .tst => element x (ityW t) e &&& element y (ityW t) e ≠ 0
  | .ntst => element x (ityW t) e &&& element y (ityW t) e = 0

/-- The vector compares. -/
def compare (th : Thread) : Instr → Option CompareResult
  | .vcmpInt _ d a b k t c => some ⟨d, k, ityW t, fun e => (intHolds c t (th.vreg a).bits (th.vreg b).bits e, 0),
      (th.vreg a).lab ||| (th.vreg b).lab, 1⟩
  | .vcmpFloat _ d a b k f c =>
    let m := ffmt f
    some ⟨d, k, m.width, fun e => fCond m c (element (th.vreg a).bits m.width e) (element (th.vreg b).bits m.width e),
      (th.vreg a).lab ||| (th.vreg b).lab, 2⟩
  | _ => none

/-! ### Rounding to nearest, for FP32 (05 R127, R135 to R137) -/

/-- (n + rem / 2^sh) × 2^e of a sign, n a significand of 24 bits, rounded to nearest with ties to even: the larger neighbour where what
is cut is above one half, or is one half and n is odd; infinity, with overflow, above the largest finite value. -/
def nearest (neg : Bool) (n rem sh : Nat) (e : Int) : Nat × Flags :=
  let up := 2 ^ sh < 2 * rem ∨ (2 * rem = 2 ^ sh ∧ n % 2 = 1)
  let code := (e + 149).toNat * 2 ^ 23 + (if up then n + 1 else n)
  let sign := if neg then 2 ^ 31 else 0
  if code < 0x7F800000 then (sign + code, if rem = 0 then 0 else fInexact) else (sign + 0x7F800000, fOverflow ||| fInexact)

/-- The value of a finite FP32 encoding: its sign, and m × 2^e (05 R127). -/
def valueFp32 (x : Nat) : Bool × Nat × Int :=
  let e := x / 2 ^ 23 % 256
  (decide (2 ^ 31 ≤ x), if e = 0 then x % 2 ^ 23 else x % 2 ^ 23 + 2 ^ 23, (if e = 0 then 1 else e : Nat) - 150)

end Sys2Proof.Rules
end

