-- ==== Sys2Proof/Rules/Memory.lean ====
section
/-! DEFINITION. What the memory words do at one naturally aligned piece, in the form that statements use: written from
13 R297 to R314, 15 R377 to R379, 18 R392 and R399, and not from the meanings. -/

namespace Sys2Proof.Rules

open Sys2Proof.Machine

/-- One access: what the checks of 11 R267 are asked, where, what orders it, and what it does at its place. -/
structure AccessRule where
  q : Want
  va : Word
  /-- The scope that SCOPE.CTL may cap (12 R288). -/
  scope : Option Scope := none
  /-- The scope at which the word is a release (12 R285). -/
  release : Option Scope := none
  /-- The word may wait, and holds a wait-table entry then (08 R182). -/
  waits : Bool := false
  /-- The word stores over the whole unit, and so clears its poison (20 R426). -/
  clears : Bool := false
  /-- The value label that the store rule checks (13 R300). -/
  lv : Option Label := none
  /-- The condition to perform, at the physical address (13 Table 13.2). -/
  ready : State → Nat → Bool := fun _ _ => true
  /-- The thread afterwards, given the state, the physical address and the label of the location. -/
  thread : State → Nat → Label → Thread
  /-- The machine afterwards, before the store rule widens a block label. -/
  after : State → Nat → State := fun t _ => t

/-- The bytes and the extension of a load (13 Table 13.1). -/
def loadBytes (t : LdTy) : Nat :=
  match t with | .i8 => 1 | .n8 => 1 | .i16 => 2 | .n16 => 2 | .i32 => 4 | .n32 => 4 | .i64 => 8

/-- Whether a load extends by sign. -/
def loadSigned (t : LdTy) : Bool := match t with | .i8 => true | .i16 => true | .i32 => true | _ => false

/-- A number of `n` bytes extended to 64 bits. -/
def extend (signed : Bool) (n x : Nat) : Word :=
  if signed && decide (2 ^ (8 * n - 1) ≤ x) then BitVec.ofInt 64 ((x : Int) - 2 ^ (8 * n)) else BitVec.ofNat 64 x

/-- The bytes of a store (13 Table 13.1). -/
def storeSize (w : Wid) : Nat := match w with | .w8 => 1 | .w16 => 2 | .w32 => 4 | .w64 => 8

/-- The value label of a store: its data, its address register and CTXL (13 R303). -/
def storeLabel (th : Thread) (d a : SReg) : Label := th.sl d ||| th.sl a ||| th.ctxl

/-- The low `n` bytes of a register written at an address, and the poison of a unit that they cover whole cleared. -/
def put (t : State) (pa n : Nat) (x : Word) (whole : Bool) : State :=
  let u := t.putBytes pa ((toBytes n x.toNat).map some)
  if whole then u.unpoison pa else u

/-- A scalar load (13 R303). -/
def load (th : Thread) (d a : SReg) (ty : LdTy) (va : Word) (slot : Bool) : AccessRule where
  q := { kind := 0, size := loadBytes ty, word := decide (loadBytes ty = 8), slotRead := slot }
  va := va
  thread := fun t pa loc => th.putS d (extend (loadSigned ty) (loadBytes ty) (t.num pa (loadBytes ty))) (th.sl a ||| loc ||| th.ctxl)

/-- A scalar store (13 R303). -/
def store (th : Thread) (d a : SReg) (w : Wid) (va : Word) : AccessRule where
  q := { kind := 1, size := storeSize w, word := decide (storeSize w = 8) }
  va := va
  lv := some (storeLabel th d a)
  clears := w = .w64
  thread := fun _ _ _ => th
  after := fun t pa => put t pa (storeSize w) (th.sv d) (w = .w64)

/-- The new value of an atomic of `w` bits (13 Table 13.3). -/
def atomicValue (w m b x : Nat) : Instr → Option Nat
  | .aadd .. => some ((m + b) % 2 ^ w)
  | .aand .. => some (m &&& b)
  | .aor .. => some (m ||| b)
  | .axor .. => some (m ^^^ b)
  | .aminI .. => some (if intOf true w m ≤ intOf true w b then m else b)
  | .amaxI .. => some (if intOf true w m ≤ intOf true w b then b else m)
  | .aminN .. => some (min m b)
  | .amaxN .. => some (max m b)
  | .aswap .. => some b
  | .acas .. => some (if m = x then b else m)
  | _ => none

/-- An integer atomic (13 R309): `host` where a host window takes it, `signed` for the .i forms, `cas` for acas. -/
def atomicWord (th : Thread) (i : Instr) (d a b : SReg) (w : AWid) (host signed cas : Bool) : AccessRule :=
  let n := match w with | .w32 => 4 | .w64 => 8
  let lab := th.sl a ||| th.sl b ||| (if cas then th.sl d else 0)
  { q := { kind := 2, size := n, atom := some host }
    va := th.sv a
    lv := some (lab ||| th.ctxl)
    thread := fun t pa loc => th.putS d (extend signed n (t.num pa n)) (lab ||| loc ||| th.ctxl)
    after := fun t pa =>
      match atomicValue (8 * n) (t.num pa n) ((th.sv b).toNat % 2 ^ (8 * n)) ((th.sv d).toNat % 2 ^ (8 * n)) i with
      | some x => if x = t.num pa n then t else t.putBytes pa ((toBytes n x).map some)
      | none => t }

/-- A sum-cell add of a float (11 R260; 13 R312): the flags of this add go to the destination. -/
def sumWord (th : Thread) (f : Fmt) (d a b : SReg) : AccessRule :=
  let lab := th.sl b ||| th.sl a
  let x := sumTerm f ((th.sv b).toNat % 2 ^ f.width)
  { q := { kind := 2, size := 32, sum := true }
    va := th.sv a
    lv := some (lab ||| th.ctxl)
    thread := fun _ _ _ => th.putS d (x.2.setWidth 64) (lab ||| th.ctxl)
    after := fun t pa =>
      let c := t.num pa 32
      t.putBytes pa ((toBytes 32 ((c + x.1.toNat) % 2 ^ 248 + (c / 2 ^ 248 % 256 ||| x.2.toNat) * 2 ^ 248)).map some) }

/-- A sum-cell read (13 R312): the value rounded, with inexact and overflow posted. -/
def sumReadWord (th : Thread) (f : Fmt) (d a : SReg) : AccessRule where
  q := { kind := 0, size := 32, sum := true }
  va := th.sv a
  thread := fun t pa loc =>
    let v := sumValue f th.rm (t.num pa 32)
    let l := th.sl a ||| loc ||| th.ctxl
    (th.putS d (BitVec.ofNat 64 v.1) l).post (v.2 &&& 0b00101) l

/-- What a full/empty access asks of the checks. -/
def feCheck (kind : Nat) : Want := { kind := kind, size := 8, fe := true }

/-- A full/empty load; CTXL widens by the location's label (18 R392). -/
def feLoadWord (th : Thread) (d a : SReg) (take : Bool) : AccessRule where
  q := feCheck (if take then 2 else 0)
  va := th.sv a
  waits := true
  ready := fun t pa => t.isFull pa
  thread := fun t pa loc =>
    { th with ctxl := th.ctxl ||| loc }.putS d (BitVec.ofNat 64 (t.num pa 8)) (th.sl a ||| loc ||| (th.ctxl ||| loc))
  after := fun t pa => if take then t.setFull pa false else t

/-- A full/empty store: a release at .pkg. The one that waits widens CTXL by the location's label (18 R392); stfe.force waits on
nothing (13 Table 13.2). -/
def feStoreWord (th : Thread) (d a : SReg) (force : Bool) : AccessRule where
  q := feCheck 1
  va := th.sv a
  release := some .pkg
  waits := !force
  clears := force
  lv := some (storeLabel th d a)
  ready := fun t pa => force || !t.isFull pa
  thread := fun _ _ loc => if force then th else { th with ctxl := th.ctxl ||| loc }
  after := fun t pa =>
    let u := (t.putBytes pa ((toBytes 8 (th.sv d).toNat).map some)).setFull pa true
    if force then u.unpoison pa else u

/-- The memory words of one piece, but for vld, vst, the queue words and the words that check their place twice. -/
def access (th : Thread) (i : Instr) : Option AccessRule :=
  match i with
  | .ld _ d a ty o => some (load th d a ty (th.sv a + BitVec.ofInt 64 (immS th.chain o)) true)
  | .lda _ d a ty c => some { load th d a ty (th.sv a) true with scope := some c }
  | .st _ d a w o => some (store th d a w (th.sv a + BitVec.ofInt 64 (immS th.chain o)))
  | .pst _ d a w o => some (store th d a w (th.sv a + BitVec.ofInt 64 (immS th.chain o)))
  | .stl _ d a w c => some { store th d a w (th.sv a) with scope := some c, release := some c }
  | .ldfeTake _ d a _ => some (feLoadWord th d a true)
  | .ldfePeek _ d a _ => some (feLoadWord th d a false)
  | .stfeFill _ d a _ => some (feStoreWord th d a false)
  | .stfeForce _ d a => some (feStoreWord th d a true)
  | .feclr _ a => some {
      q := feCheck 1, va := th.sv a, thread := fun _ _ _ => th
      after := fun t pa => (t.setFull pa false).setBlockLabel pa (t.blockLabel pa ||| (th.sl a ||| th.ctxl)) }
  | .fetst _ d a => some {
      q := feCheck 0, va := th.sv a
      thread := fun t pa loc => th.putS d (BitVec.ofNat 64 (b2n (t.isFull pa))) (th.sl a ||| loc ||| th.ctxl) }
  | .aadd _ d a b w => some (atomicWord th i d a b w true false false)
  | .aand _ d a b w | .aor _ d a b w | .axor _ d a b w | .aminN _ d a b w | .amaxN _ d a b w =>
    some (atomicWord th i d a b w false false false)
  | .aminI _ d a b w | .amaxI _ d a b w => some (atomicWord th i d a b w false true false)
  | .aswap _ d a b w => some (atomicWord th i d a b w true false false)
  | .acas _ d a b w => some (atomicWord th i d a b w true false true)
  | .saddF64 _ d a b => some (sumWord th fp64 d a b)
  | .saddF32 _ d a b => some (sumWord th fp32 d a b)
  | .sreadF64 _ d a => some (sumReadWord th fp64 d a)
  | .sreadF32 _ d a => some (sumReadWord th fp32 d a)
  | .sstore _ a b => some {
      q := { kind := 1, size := 32, sum := true }, va := th.sv a
      lv := some (th.sl b ||| th.sl (b + 1) ||| th.sl (b + 2) ||| th.sl (b + 3) ||| th.sl a ||| th.ctxl)
      thread := fun _ _ _ => th
      after := fun t pa => t.putBytes pa ((toBytes 8 (th.sv b).toNat ++ toBytes 8 (th.sv (b + 1)).toNat ++
        toBytes 8 (th.sv (b + 2)).toNat ++ toBytes 8 (th.sv (b + 3)).toNat).map some) }
  | .lrdb _ d a => some {
      q := { kind := 0, size := 8, word := true }, va := th.sv a
      thread := fun _ _ loc => th.putS d (loc.setWidth 64) (th.sl a ||| loc ||| th.ctxl) }
  | _ => none

/-- The words that check their place, and then access it: byte barriers and completion objects (15 R377 to R379). -/
def placed (th : Thread) (i : Instr) : Option AccessRule :=
  match i with
  | .bbset _ x y => some {
      q := { kind := 1, size := 8 }, va := th.sv x, lv := some (storeLabel th y x), thread := fun _ _ _ => th
      after := fun t pa => t.putBytes pa ((toBytes 8 ((th.sv y).toNat % 2 ^ 32 * 2 ^ 32)).map some) }
  | .bbwait _ x _ => some {
      q := { kind := 0, size := 8 }, va := th.sv x, waits := true
      ready := fun t pa => decide (t.num pa 8 / 2 ^ 32 ≤ t.num pa 8 % 2 ^ 32)
      thread := fun _ _ loc => { th with ctxl := th.ctxl ||| loc } }
  | .join _ x _ => some {
      q := { kind := 0, size := 1, word := true }, va := th.sv x, waits := true
      ready := fun t pa => decide (t.num pa 1 ≠ 1)
      thread := fun t pa loc =>
        { th with ctxl := th.ctxl ||| loc }.putS x (BitVec.ofNat 64 (t.num pa 1)) (th.sl x ||| loc ||| (th.ctxl ||| loc)) }
  | .poll _ x y => some {
      q := { kind := 0, size := 1, word := true }, va := th.sv y
      thread := fun t pa loc => th.putS x (BitVec.ofNat 64 (t.num pa 1)) (th.sl y ||| loc ||| th.ctxl) }
  | _ => none

/-! ### Lines (13 R313, R314; 22 R440, R441) -/

/-- The checks and the address of a line access (13 R297). -/
def lineWant (kind : Nat) (k : KReg) : Want :=
  if kind = 0 then { kind := 0, size := 64, slotRead := true } else { kind := kind, size := 64, masked := decide (k ≠ 0) }

/-- The address of a line: s[SA] + 64 × the offset (13 R297). -/
def lineAddr (th : Thread) (a : SReg) (o : BitVec 4) : Word := th.sv a + BitVec.ofInt 64 (64 * immS th.chain o)

/-- Byte `j` of a line as vst writes it: none where its element's mask bit is 0 (13 R314). -/
def lineByte (x : VVal) (m : BitVec 16) (j : Nat) : Option Byte :=
  let w := (tagWidth x.tag).getD 32
  if m.getLsbD (governor w (j / (w / 8))) then some (BitVec.ofNat 8 (x.bits.toNat / 2 ^ (8 * j))) else none

/-- The label of what vst writes. -/
def lineLabel (th : Thread) (d : VReg) (a : SReg) (k : KReg) : Label :=
  (th.vreg d).lab ||| th.sl a ||| th.ctxl ||| (if k = 0 then 0 else (th.kreg k).lab)

/-- vst outside a reduction window (13 R314). -/
def lineStore (th : Thread) (d : VReg) (a : SReg) (k : KReg) (o : BitVec 4) : AccessRule where
  q := lineWant 1 k
  va := lineAddr th a o
  lv := some (lineLabel th d a k)
  thread := fun _ _ _ => th
  after := fun t pa => t.putBytes pa ((nums 64).map (lineByte (th.vreg d) (th.kreg k).val))

/-- vst in a reduction window of format `f`: the line is added to the one in memory, and the flags of the addition are posted
under the labels of both (22 R441). -/
def lineReduce (th : Thread) (d : VReg) (a : SReg) (o : BitVec 4) (f : Nat) : AccessRule where
  q := lineWant 1 0
  va := lineAddr th a o
  lv := some (lineLabel th d a 0)
  thread := fun t pa loc =>
    th.post (redCombine f (t.bytes pa 64) (toBytes 64 (th.vreg d).bits.toNat)).2 (loc ||| lineLabel th d a 0)
  after := fun t pa => t.putBytes pa ((redCombine f (t.bytes pa 64) (toBytes 64 (th.vreg d).bits.toNat)).1.map some)

/-! ### Tiles (14 R323) -/

/-- The bytes of one element of a tile: 1 when its format is raw (02 R40). -/
def tileElem (x : BitVec 32) : Nat := match tagWidth (tsFmt x) with | some w => w / 8 | none => 1

/-- The address of byte `n` of a tile in memory: its row starts at s[SA] + row × s[SB] (14 R323). -/
def tileAddr (x : BitVec 32) (a b : Word) (n : Nat) : Word :=
  let w := tsCols x * tileElem x
  a + BitVec.ofNat 64 (n / w) * b + BitVec.ofNat 64 (n % w)

/-- The bytes that a tile's shape covers. -/
def tileLen (x : BitVec 32) : Nat := tsRows x * tsCols x * tileElem x

/-- The pieces of a tile access, a row after the other, each row cut into naturally aligned pieces (11 R257). -/
def tileWhole (x : BitVec 32) (a b : Word) : List (Word × Nat × Nat) :=
  let w := tsCols x * tileElem x
  (nums (tsRows x)).flatMap fun i =>
    (piecesOf (a + BitVec.ofNat 64 i * b) w).map fun (o, n) => (a + BitVec.ofNat 64 i * b + BitVec.ofNat 64 o, i * w + o, n)

/-- Every piece of a tile access passes its checks and lies in plain memory of the issuing core's own local store, unpoisoned,
no store to that home is open, and nothing waits there. -/
structure TileHere (s : State) (th : Thread) (q : Want) (l : List (Word × Nat × Nat)) (ps : List Place) (t : State) : Prop where
  check : s.checkAll (whoIs s.cur th) q (l.map fun x => (x.1, x.2.2)) = (t, .ok ps)
  here : ∀ p ∈ ps, p.here = true ∧ p.home = .core (coreOf s.cur) ∧ spaceOf p.pa = 1 ∧ p.egress = false ∧ p.leaf.rp = none ∧
    areaOf (t.pdie (dieOf (coreOf s.cur)) th.part) (p.pa % 2 ^ 19) = .plain
  sound : ∀ x ∈ l.zip ps, t.isPoisoned x.2.pa x.1.2.2 = false
  closed : t.homeBusy s.cur th [.core (coreOf s.cur)] = false
  quiet : t.waiters = []

/-- One piece of a tile store performed: its bytes, the poison mark of a word that it writes whole gone (20 R426), and its block's
label widened where it must be (18 R395). -/
def tilePut (lv : Label) (bits : TileBits) (t : State) (x : (Word × Nat × Nat) × Place) : State :=
  let u := t.putBytes x.2.pa ((nums x.1.2.2).map fun j => some (BitVec.ofNat 8 (bits.toNat / 2 ^ (8 * (x.1.2.1 + j)))))
  let v := if x.1.2.2 = 8 then u.unpoison x.2.pa else u
  if lv &&& ~~~(t.blockLabel x.2.pa) = 0 then v else v.setBlockLabel x.2.pa (t.blockLabel x.2.pa ||| lv)

/-- The machine as an access finds it at its place: the D bits of a write are set first (11 R266). -/
def touched (s : State) (th : Thread) (r : AccessRule) (p : Place) (t : State) : State :=
  if r.q.kind = 1 ∨ r.q.kind = 2 then t.setDirty (whoIs s.cur th) p else t

/-- The machine after an access at place `p`: its effect, then the block label widened where the store rule widens it
(18 R395). -/
def accessed (s : State) (th : Thread) (r : AccessRule) (p : Place) (t : State) : State :=
  let v := r.after (touched s th r p t) p.pa
  match r.lv with
  | some lv => if lv &&& ~~~(t.blockLabel p.pa) = 0 then v else v.setBlockLabel p.pa (t.blockLabel p.pa ||| lv)
  | none => v

/-- What lets an access of a word complete at once: its scope is within the cap, a release finds no store of its cover open, a
wait-table entry is free, the store rule lets it pass, its unit is not poisoned, and its condition holds. -/
structure Completes (s : State) (th : Thread) (r : AccessRule) (p : Place) (t : State) : Prop where
  scope : ∀ c, r.scope = some c → scopeCode c ≤ (s.pp th.part).scopeCap.toNat
  release : ∀ c, r.release = some c → s.openIn s.cur th c = false ∧ (c = .sys → th.hostDirty = [])
  free : r.waits = true → s.entryFree s.cur th.part = true
  rule : ∀ lv, r.lv = some lv → lv &&& ~~~(t.blockLabel p.pa) = 0 ∨ p.leaf.mx = true
  poison : t.isPoisoned p.pa r.q.size = true → r.clears = true
  ready : r.ready t p.pa = true

/-! ### Accesses whose place is elsewhere (08 R206, R211; 12 R281 to R283, R296; 13 R304) -/

/-- What a word asks of the home of its place: the request, the label that travels with it, how the answer is taken; and of a wait
form its limit, its information for WAIT.EXPIRED (09 Table 9.3; 13 R308; 15 R378, R379) and whether its home withdraws it (09 R234). -/
structure Ask where
  req : Req
  lab : Label := 0
  cont : Machine.Cont
  wait : Option (BitVec 6 × Word × Word × Bool) := none

/-- A full/empty operation with its limit and its number in TINFO0. -/
def askFe (op : FeOp) (x : Word) (lab : Label) (c : Machine.Cont) (w : Option (BitVec 6 × Nat)) (va : Word) : Ask where
  req := .fe op x
  lab := lab
  cont := c
  wait := w.map fun e => (e.1, BitVec.ofNat 64 (6 + 16 * e.2), va, true)

/-- An integer atomic: its value label travels without the location's, which its home adds (13 R309). -/
def askAtom (th : Thread) (op : AtomOp) (d a b : SReg) (w : AWid) (signed : Bool) : Ask :=
  let lab := th.sl a ||| th.sl b ||| (if op = .cas then th.sl d else 0) ||| th.ctxl
  { req := .atomic op w (th.sv b) (th.sv d), lab := lab, cont := .atomic d w signed lab }

/-- The labels of a result besides its location's: the address register's and CTXL at issue (13 R300, R303; 02 R41). -/
def readLab (th : Thread) (a : SReg) : Label := th.sl a ||| th.ctxl

/-- The scope `c'` at which a word of scope `c` runs, from the state `t`: its own below the cap, else the cap where SCOPE.CTL.DEM is 1, which
DMTD records (12 R288). -/
def runsAt (s : State) (th : Thread) (c c' : Scope) (t : State) : Prop :=
  (scopeCode c ≤ (s.pp th.part).scopeCap.toNat ∧ c' = c ∧ t = s) ∨
  ((s.pp th.part).scopeCap.toNat < scopeCode c ∧ (s.pp th.part).scopeDem = true ∧ c' = scopeOf (s.pp th.part).scopeCap.toNat ∧
    t = s.modPCore (coreOf s.cur) th.part fun p => { p with dmtd := true })

/-- What the words of one piece ask (13 R303 to R314; 15 R377 to R379; 18 R399; 09 R231); a line in a reduction window of format `red`
is added (22 R440). -/
def asks (th : Thread) (red : Option Nat) : Instr → Option Ask
  | .ld _ d a ty _ | .lda _ d a ty _ => some { req := .read (loadBytes ty), cont := .load d ty (readLab th a) }
  | .st _ d a w _ | .stl _ d a w _ =>
    some { req := .write ((toBytes (storeSize w) (th.sv d).toNat).map some), lab := storeLabel th d a, cont := .ack }
  | .ldfeTake _ d a e => some (askFe .take 0 (readLab th a) (.waitRead d (readLab th a)) (some (e, 0)) (th.sv a))
  | .ldfePeek _ d a e => some (askFe .peek 0 (readLab th a) (.waitRead d (readLab th a)) (some (e, 1)) (th.sv a))
  | .stfeFill _ d a e => some (askFe .fill (th.sv d) (storeLabel th d a) .ackWait (some (e, 2)) (th.sv a))
  | .stfeForce _ d a => some (askFe .force (th.sv d) (storeLabel th d a) .ack none (th.sv a))
  | .feclr _ a => some (askFe .clr 0 (readLab th a) .ack none (th.sv a))
  | .fetst _ d a => some (askFe .tst 0 0 (.read d (readLab th a)) none (th.sv a))
  | .aadd _ d a b w => some (askAtom th .add d a b w false)
  | .aand _ d a b w => some (askAtom th .and d a b w false)
  | .aor _ d a b w => some (askAtom th .or d a b w false)
  | .axor _ d a b w => some (askAtom th .xor d a b w false)
  | .aminI _ d a b w => some (askAtom th .minI d a b w true)
  | .amaxI _ d a b w => some (askAtom th .maxI d a b w true)
  | .aminN _ d a b w => some (askAtom th .minN d a b w false)
  | .amaxN _ d a b w => some (askAtom th .maxN d a b w false)
  | .aswap _ d a b w => some (askAtom th .swap d a b w false)
  | .acas _ d a b w => some (askAtom th .cas d a b w false)
  | .saddF64 _ d a b =>
    let x := sumTerm fp64 ((th.sv b).toNat % 2 ^ 64)
    some { req := .sumAdd x.1 x.2, lab := th.sl b ||| th.sl a ||| th.ctxl, cont := .sumFlags d x.2 (th.sl b ||| th.sl a ||| th.ctxl) }
  | .saddF32 _ d a b =>
    let x := sumTerm fp32 ((th.sv b).toNat % 2 ^ 32)
    some { req := .sumAdd x.1 x.2, lab := th.sl b ||| th.sl a ||| th.ctxl, cont := .sumFlags d x.2 (th.sl b ||| th.sl a ||| th.ctxl) }
  | .sreadF64 _ d a => some { req := .read 32, cont := .sumRead d true th.rm (readLab th a) }
  | .sreadF32 _ d a => some { req := .read 32, cont := .sumRead d false th.rm (readLab th a) }
  | .sstore _ a b => some {
      req := .write ((toBytes 8 (th.sv b).toNat ++ toBytes 8 (th.sv (b + 1)).toNat ++ toBytes 8 (th.sv (b + 2)).toNat ++
        toBytes 8 (th.sv (b + 3)).toNat).map some)
      lab := th.sl b ||| th.sl (b + 1) ||| th.sl (b + 2) ||| th.sl (b + 3) ||| th.sl a ||| th.ctxl, cont := .ack }
  | .lrdb _ d a => some { req := .label, cont := .label d (readLab th a) }
  | .vld _ d a g k _ => some {
      req := .read 64
      cont := .vload d g (th.kreg k).val (decide (k ≠ 0)) (readLab th a ||| (if k = 0 then 0 else (th.kreg k).lab)) }
  | .vst _ d a k _ => some {
      req := match red with
        | some f => .redAdd (toBytes 64 (th.vreg d).bits.toNat) f 0
        | none => .write ((nums 64).map (lineByte (th.vreg d) (th.kreg k).val))
      lab := lineLabel th d a k, cont := .ack }
  | .bbset _ x y => some { req := .bbset ((th.sv y).setWidth 32), lab := storeLabel th y x, cont := .ack }
  | .bbwait _ x e => some { req := .bbwait, lab := readLab th x, cont := .ackWait, wait := some (e, 9, 0, false) }
  | .join _ x e => some {
      req := .objState true, lab := readLab th x, cont := .waitRead x (readLab th x), wait := some (e, 8, th.sv x, false) }
  | .poll _ x y => some { req := .objState false, cont := .read x (readLab th y) }
  | .qput _ x y e _ => some {
      req := .qput (th.sv x) (storeLabel th x y), lab := storeLabel th x y, cont := .ackWait, wait := some (e, th.sv y ||| 2, 0, true) }
  | .qget _ x y e _ => some {
      req := .qget, lab := readLab th y, cont := .waitRead x (readLab th y), wait := some (e, th.sv y ||| 3, 0, true) }
  | _ => none

/-- The access of a word of one piece that may go to another home, but for pst; what its place must be besides (09 R230; 15 R377, R379).
-/
def outward (th : Thread) (i : Instr) : Option AccessRule :=
  match i with
  | .pst .. => none
  | .vld _ _ a _ k o => some { q := lineWant 0 k, va := lineAddr th a o, thread := fun _ _ _ => th }
  | .vst _ d a k o => some (lineStore th d a k o)
  | .qput _ _ y _ c => some {
      q := { kind := 2, size := 64 }, va := th.sv y, scope := some c, release := some c, waits := true, thread := fun _ _ _ => th }
  | .qget _ _ y _ c => some {
      q := { kind := 2, size := 64 }, va := th.sv y, scope := some c, waits := true, thread := fun _ _ _ => th }
  | i => (access th i).or (placed th i)

/-- What lets an access of a word leave for its home: its checks pass at a place that is not of the issuing core's own local store, its
scope is within the cap, a release finds no store of its cover open, a wait-table entry is free, and the part of the store rule that the
issuer checks (18 R395) lets it pass. A queue's descriptor has a good address. -/
structure Leaves (s : State) (th : Thread) (r : AccessRule) (p : Place) (t : State) : Prop where
  check : s.check (whoIs s.cur th) r.q r.va = (t, .ok p)
  away : p.here = false
  scope : ∀ c, r.scope = some c → scopeCode c ≤ (s.pp th.part).scopeCap.toNat
  release : ∀ c, r.release = some c → s.openIn s.cur th c = false ∧ (c = .sys → th.hostDirty = [])
  free : r.waits = true → s.entryFree s.cur th.part = true
  queue : r.q = { kind := 2, size := 64 } → r.va.toNat % 64 = 0 ∧ r.va.toNat < 2 ^ 56
  rule : ∀ lv, r.lv = some lv →
    (p.egress = true → (if r.q.atom.isSome = true then lv ||| t.labelAt p.pa p.leaf.lab else lv) &&& ~~~(t.owner th.part) = 0) ∧
    (spaceOf p.pa ≠ 1 → lv &&& ~~~(t.labelAt p.pa p.leaf.lab) = 0)

/-- A migrant that is at a word whose access another core of its package homes ships there (08 R206). -/
def ships (s : State) (th : Thread) (p : Place) (c : Nat) : Prop :=
  th.kind = .migrant ∧ p.home = .core c ∧ c ≠ coreOf s.cur ∧ p.leaf.rp = none

/-- The message of a word's one piece, in the state `s` in which the word issues. -/
structure Asked (s : State) (th : Thread) (r : AccessRule) (p : Place) (a : Ask) (o : Owner) (m : Msg) : Prop where
  ends : m.src = .core (coreOf s.cur) ∧ m.dst = p.home ∧ m.pl = planeOf a.req
  place : m.pa = p.pa ∧ m.va = r.va ∧ m.idx = 0 ∧ m.mlab = p.leaf.lab ∧ m.mx = p.leaf.mx ∧ m.inbound = p.leaf.rp.isSome
  from_ : m.owner = o ∧ m.part = th.part ∧ m.world = th.world ∧ m.ctrl = decide (th.kind = .control) ∧ m.others = []
  body : m.req = a.req ∧ m.lv = a.lab

/-- The registers that an answer writes. -/
def answerDest : Machine.Cont → List Dest
  | .load d _ _ | .atomic d _ _ _ | .read d _ | .label d _ | .sumRead d _ _ _ | .sumFlags d _ _ => [.s d]
  | .vload d _ _ _ _ => [.v d]
  | _ => []

/-- The journal entries that a thread may take: those of its partition's slots on the core, or of its migrant host slot (12 R275). -/
def entries (s : State) (th : Thread) : List Nat :=
  (if th.kind = .migrant then [slotOf s.cur] else slotsOf (s.pdie (dieOf (coreOf s.cur)) th.part).smask).flatMap fun k =>
    [4 * k, 4 * k + 1, 4 * k + 2, 4 * k + 3]

end Sys2Proof.Rules
end

