-- ==== Sys2Proof/Rules/Words.lean ====
section
/-! DEFINITION. What the words of control registers, queues, threads, barriers and traps do, in the form that statements use:
written from 02 Tables 2.4 to 2.13, 04 R113 to R119, 09 R216 to R238, 20 R410 to R421, and not from the meanings. -/

namespace Sys2Proof.Rules

open Sys2Proof.Machine

/-! ### Control registers (02 Tables 2.4 to 2.12; 04 R114 to R116) -/

/-- The word whose fields stand at the given bit positions, with zeros between them. -/
def fieldsOf (l : List (Nat × Nat)) : Word := BitVec.ofNat 64 (l.foldl (fun a x => a + x.2 * 2 ^ x.1) 0)

/-- TSTAT.TMODE: 0 untimed, 1 timed and running, 2 frozen, 3 counter paused (02 Table 2.4). -/
def timedMode (s : State) (th : Thread) : Nat :=
  match th.timed.bind fun k => nget s.tgroups k with
  | none => 0
  | some g =>
    if g.started = false then 0
    else if s.rot < (s.pcore (coreOf s.cur) th.part).frozenTo then 2
    else if g.pausedFrom.any (fun n => decide (n ≤ s.rot)) then 3
    else 1

/-- TSTAT of the current thread (02 Table 2.4). -/
def tstatOf (s : State) (th : Thread) : Word :=
  fieldsOf [(13, slotOf s.cur), (12, b2n th.world), (11, b2n (decide (th.kind = .migrant))), (10, b2n (decide (th.kind = .control))),
    (8, timedMode s th), (1, b2n th.te), (0, b2n th.sbc)]

/-- The live cores of row `y` of a die whose column lies below `x` (08 R186). -/
def liveLeft (s : State) (die x y : Nat) : Nat := ((nums x).filter fun i => (vget (s.die die).hmap y).getLsbD i).length

/-- The logical number of the live core (x, y): the live cores before it, row by row (08 R186). -/
def logicalAt (s : State) (die x y : Nat) : Nat := ((nums y).map (liveLeft s die 32)).sum + liveLeft s die x y

/-- TG.VCC and TG.LAG: zero in an untimed thread (08 R209). -/
def timedRegs (s : State) (th : Thread) : Word × Word :=
  match th.timed.bind fun k => nget s.tgroups k with
  | none => (0, 0)
  | some g =>
    let v := (nget g.vcc (coreOf s.cur)).getD 0
    if g.started then (BitVec.ofNat 64 v, s.quartz - BitVec.ofNat 64 (g.t0.getD 0) - BitVec.ofNat 64 v) else (0, 0)

/-- BSLOTn of the current thread's partition on its core (15 R364, Table 15.5). -/
def slotReg (s : State) (th : Thread) (n : Nat) : Word :=
  let b := vget (s.pcore (coreOf s.cur) th.part).bslots n
  if (s.pdie (dieOf (coreOf s.cur)) th.part).bslots ≤ n then 0
  else fieldsOf [(40, b.lim.toNat), (37, b.holder.toNat), (36, b2n b.bound), (35, b2n b.dead), (32, b.state.toNat), (16, b.tag.toNat),
    (0, b.etag.toNat)]

/-- Registers of a thread, of its launch and of its place, with the value that mfcr gives for each. -/
def threadRegs (s : State) (th : Thread) : List (BitVec 12 × Word) := [
  (0x000, tstatOf s th), (0x242, (timedRegs s th).1), (0x243, (timedRegs s th).2), (0x001, th.fpc), (0x002, th.ctxl.setWidth 64), (0x008, th.tepc), (0x009, th.tcause), (0x00A, th.tinfo0), (0x00B, th.tinfo1),
  (0x00C, th.tsave), (0x00D, th.tsig.setWidth 64),
  (0x010, (th.ts.get 0).setWidth 64), (0x011, (th.ts.get 1).setWidth 64), (0x012, (th.ts.get 2).setWidth 64),
  (0x013, (th.ts.get 3).setWidth 64), (0x014, (th.ts.get 4).setWidth 64), (0x015, (th.ts.get 5).setWidth 64),
  (0x016, (th.ts.get 6).setWidth 64), (0x017, (th.ts.get 7).setWidth 64),
  (0x018, th.abown), (0x019, th.barPend.setWidth 64), (0x01A, th.accWin.setWidth 64), (0x01B, th.depSel.setWidth 64),
  (0x100, th.grpId.setWidth 64), (0x101, th.grpN.setWidth 64), (0x102, th.strId.setWidth 64), (0x103, th.strN.setWidth 64),
  (0x104, BitVec.ofNat 64 (coreOf s.cur % 1024)), (0x107, BitVec.ofNat 64 (dieOf (coreOf s.cur))),
  (0x108, s.fixed.pkgId.setWidth 64), (0x109, th.arg)]

/-- Registers of the core, the partition, the die and the package, with their values. -/
def sharedRegs (s : State) (th : Thread) : List (BitVec 12 × Word) :=
  let c := s.pcore (coreOf s.cur) th.part
  let d := s.pdie (dieOf (coreOf s.cur)) th.part
  let p := s.pp th.part
  [(0x200, BitVec.ofNat 64 (b2n (s.core (coreOf s.cur)).rodOff * 256 + (s.core (coreOf s.cur)).rodFail.toNat)),
   (0x201, c.rnsTrans.setWidth 64), (0x202, (c.ambUnst ++ c.ambUnloc).setWidth 64), (0x240, c.waitRetry.setWidth 64),
   (0x241, BitVec.ofNat 64 c.migQ.length),
   (0x244, BitVec.ofNat 64 (c.killCount.toNat * 2 ^ 32 + c.killSlot.toNat * 256 + c.killReason.toNat)),
   (0x245, c.flintRep ++ c.flintMism), (0x404, BitVec.ofNat 64 (th.part % 4)),
   (0x405, BitVec.ofNat 64 (b2n c.dmtd * 2 ^ 16 + b2n p.scopeDem * 256 + p.scopeCap.toNat)), (0x406, p.trapVec),
   (0x410, p.s1), (0x411, p.s2), (0x412, p.rng), (0x414, d.poolRing), (0x415, d.poolTail ++ d.poolHead),
   (0x416, d.poolBad.setWidth 64), (0x417, p.tensTbl), (0x418, s.prinMap.setWidth 64),
   (0x419, BitVec.ofNat 64 (b2n p.ownV * 16 + p.own.toNat)), (0x41B, p.denied ++ p.released), (0x41C, s.fixed.serial),
   (0x41D, s.fixed.gateBoot), (0x420, BitVec.ofNat 64 (c.drain.toNat * 2 ^ 16 + c.phase.toNat)), (0x421, c.spillBase),
   (0x461, d.ageLim.setWidth 64), (0x464, s.quartz), (0x465, d.wdCnt), (0x466, d.wdLim), (0x467, d.lostRefuse ++ d.lostStatus),
   (0x468, 0), (0x475, p.podCfg), (0x480, (s.die (dieOf (coreOf s.cur))).droopStr ++ (s.die (dieOf (coreOf s.cur))).droopEvt),
   (0x481, (s.die (dieOf (coreOf s.cur))).pwrRot.setWidth 64),
   (0x41A, fieldsOf ((nums 16).map fun e => (e, b2n (vget p.policies e).isSome))),
   (0x422, fieldsOf [(32, b2n c.spillOvf), (0, c.spill.length + c.spillMig.length)]),
   (0x460, BitVec.ofNat 64 ((nums 32).map (liveLeft s (dieOf (coreOf s.cur)) 32)).sum),
   (0x474, fieldsOf [(32, (s.die (dieOf (coreOf s.cur))).narrow.toNat),
      (0, (s.die (dieOf (coreOf s.cur))).links.toList.foldl (fun a x => max a x.toNat) 0)])]

/-- The registers that a die, a partition or a core holds several of, with their values (08 Tables 8.1, 8.5; 11 Table 11.4; 15 Table
15.5; 22 Table 22.1). -/
def arrayRegs (s : State) (th : Thread) : List (BitVec 12 × Word) :=
  let d := dieOf (coreOf s.cur)
  ((nums 4).map fun n => (BitVec.ofNat 12 (0x400 + n), fieldsOf [(31, b2n (s.pdie d n).v), (16, (s.pdie d n).smask.toNat),
    (8, b2n (s.pdie d n).migh), (0, n)])) ++
  ((nums 4).map fun n => (BitVec.ofNat 12 (0x408 + n), fieldsOf [(26, (s.pdie d n).savea), (16, (s.pdie d n).bslots),
    (8, (s.pdie d n).nbank), (0, (s.pdie d n).lbank)])) ++
  ((nums 16).map fun n => (BitVec.ofNat 12 (0x220 + n), slotReg s th n)) ++
  ((nums 32).map fun n => (BitVec.ofNat 12 (0x440 + n), (vget (s.die d).hmap n).setWidth 64)) ++
  ((nums 4).map fun n => (BitVec.ofNat 12 (0x470 + n), vget (s.pp th.part).redWin n))

/-- The label with which a register is read, besides CTXL: that of the trap for the registers of a trap (04 R114), that of the
bead for BSLOTn (15 R364). -/
def regLabel (s : State) (th : Thread) (c : BitVec 12) : Label :=
  if 0x008 ≤ c.toNat ∧ c.toNat ≤ 0x00C then th.tcause.extractLsb' 48 16 else crLabel s (coreOf s.cur) th c.toNat

/-- The new value of a register under the three write functions (04 R115). -/
def written (f : CrFn) (old x : Word) : Word :=
  match f with | .write => x | .set => old ||| x | .clear => old &&& ~~~x

/-- A write of `x` to a register of a thread whose CTXL has widened: the thread afterwards (04 R115, R116; Table 4.7; 02 Tables 2.4
to 2.6 and 2.13). FPC and TSn only for values that R40 and R42 accept. -/
def threadWrite (f : CrFn) (th : Thread) (x : Word) : List (BitVec 12 × Thread) := [
  (0x000, { th with sbc := (written f (if th.sbc then 1 else 0) x).getLsbD 0 }),
  (0x002, { th with ctxl := if f = .clear then th.ctxl else th.ctxl ||| (written f (th.ctxl.setWidth 64) x).setWidth 16 }),
  (0x008, { th with tepc := written f th.tepc x }),
  (0x009, { th with tcause := written f th.tcause x &&& 0xFFFF00FF0000FFFF#64 }),
  (0x00A, { th with tinfo0 := written f th.tinfo0 x }),
  (0x00B, { th with tinfo1 := written f th.tinfo1 x }),
  (0x00C, { th with tsave := written f th.tsave x }),
  (0x00D, { th with tsig := (written f (th.tsig.setWidth 64) x).setWidth 16 }),
  (0x018, th), (0x019, th),
  (0x01A, { th with accWin := (written f (th.accWin.setWidth 64) x).setWidth 5 }),
  (0x01B, { th with depSel := (written f (th.depSel.setWidth 64) x).setWidth 8 })]

/-- The control-register words: what each writes, its register and its number. -/
def crWord : Instr → Option (CrFn × SReg × BitVec 12)
  | .mtcr _ x c => some (.write, x, c)
  | .mtcrs _ x c => some (.set, x, c)
  | .mtcrc _ x c => some (.clear, x, c)
  | _ => none

/-- FPC after a write: the flags [17:12] are write-one-to-clear, [11:10] reserved (02 Table 2.5). -/
def fpcWritten (f : CrFn) (old x : Word) : Word :=
  (written f old x &&& ~~~0x3FC00#64) ||| (if f = .set then old &&& 0x3F000#64 else old &&& 0x3F000#64 &&& ~~~x)

/-! ### Ring queues (09 R230, R231) -/

/-- The descriptor at a physical address is good. -/
structure RingGood (t : State) (pa : Nat) : Prop where
  cap : t.num (pa + 8) 1 ≤ 20
  zero : t.num (pa + 9) 7 = 0 ∧ t.num (pa + 0x14) 4 = 0 ∧ t.num (pa + 0x1C) 36 = 0
  base : t.num pa 8 % 8 = 0 ∧ t.num pa 8 < 2 ^ 56

/-- The elements in the queue. -/
def ringCount (t : State) (pa : Nat) : Nat := (t.num (pa + 0x18) 4 + 2 ^ 32 - t.num (pa + 0x10) 4) % 2 ^ 32

/-- The address of element `n`. -/
def ringElem (t : State) (pa n : Nat) : Word := BitVec.ofNat 64 (t.num pa 8) + BitVec.ofNat 64 (8 * (n % 2 ^ t.num (pa + 8) 1))

/-- For whom the queue home reaches an element. -/
def ringWho (s : State) (th : Thread) : Who := ⟨coreOf s.cur, th.part, th.world, true, false⟩

/-- The access to the descriptor at s[y]. -/
def ringWant : Want := { kind := 2, size := 64 }

/-! ### Threads (09 R218, R222; 02 Table 2.7) -/

/-- The status of a spawn (09 Table 9.1). -/
def spawnCode (s : State) (th : Thread) (k : Nat) (entry : Word) : Word :=
  let c := coreOf s.cur
  if k ∉ computeSlots (s.pdie (dieOf c) th.part) then 1
  else if (s.thread? (tidOf c k)).isSome = true ∨ (k, s.rot) ∈ (s.core c).freed ∨ (∃ x ∈ (s.core c).scrubs, x.1 = k) ∨
      (∃ x ∈ (s.pcore c th.part).vacated, x.1 = k) then 2
  else if entry.toNat % 4 ≠ 0 ∨ 2 ^ 56 ≤ entry.toNat then 3
  else 0

/-- A thread as it starts: every register zero with the empty label, CTXL that of its creator, TE 1, the flint all ones. -/
def started (s : State) (kind : Kind) (th : Thread) (entry arg : Word) (ctxl : Label) : Thread :=
  { Thread.fresh s.serial kind th.part entry ctxl th.world (s.rot + 1) with strN := 1, arg := arg }

/-- The bit of BAR.ST for a scope (09 Table 9.5). -/
def barBit (c : Scope) : BitVec 5 := BitVec.ofNat 5 (2 ^ (scopeCode c - 1))

/-- A barrier word for which its thread is a member, under the cap, with no store of the scope's cover open. -/
structure Arrives (s : State) (th : Thread) (c : Scope) (k : BarKey) : Prop where
  member : s.barKey? s.cur th c = some k
  cap : scopeCode c ≤ (s.pp th.part).scopeCap.toNat
  clear : s.openIn s.cur th c = false
  links : c = .sys → th.hostDirty = []

/-! ### Save areas (20 R416 to R420) -/

/-- The physical address of the record that s[y] names on the issuing core. -/
def savePa (s : State) (th : Thread) (y : SReg) : Nat := localPa (coreOf s.cur) ((th.sv y).toNat % 2 ^ 19)

/-- Whether a record of `n` bytes there lies in the partition's save area. -/
def savesAt (s : State) (th : Thread) (y : SReg) (n : Nat) : Prop :=
  (th.sv y).toNat % 2 ^ 19 % 64 = 0 ∧ saveBase (s.pdie (dieOf (coreOf s.cur)) th.part) ≤ (th.sv y).toNat % 2 ^ 19 ∧
    (th.sv y).toNat % 2 ^ 19 + n ≤ migBase (s.pdie (dieOf (coreOf s.cur)) th.part)

/-- The 64 bytes of a trap record (20 R416), as fields: offset, bytes, value. -/
def trapFields (th : Thread) : List (Nat × Nat × Nat) := [
  (0, 8, th.tepc.toNat), (8, 8, th.tcause.toNat), (16, 8, th.tinfo0.toNat), (24, 8, th.tinfo1.toNat), (32, 8, th.tsave.toNat),
  (40, 2, th.tsig.toNat), (42, 22, 0)]

/-- The bytes of a context record without banks (20 Table 20.4), by kind. -/
def contextSize (th : Thread) : Nat := (if th.kind = .compute then 0x4A80 else 0x0280) + 1880

/-- Whether a thread of a kind has scalar register `n`: a migrant has s0 to s24 (08 R205). -/
def hasS (k : Kind) (n : Nat) : Prop := k = .migrant → n ≤ 24

/-- The banks that a compute thread holds, in ascending order. -/
def heldList (th : Thread) : List Nat := if th.kind = .compute then (nums 64).filter fun b => th.abown.getLsbD b else []

/-- The offset of the bank directory: the first multiple of 64 after the tail (20 R420). -/
def directoryAt (th : Thread) : Nat := (contextSize th + 63) / 64 * 64

/-- The offset of the images of `n` banks, behind their directory. -/
def imagesAt (th : Thread) (n : Nat) : Nat := directoryAt th + (8 * n + 63) / 64 * 64

/-- The bytes of a context record with `n` banks. -/
def recordBytes (th : Thread) (n : Nat) : Nat := if n = 0 then contextSize th else imagesAt th n + 2048 * n

/-- The scalars of a context record and, of a compute thread, its vectors and tiles (20 Table 20.4): offset, bytes, value. -/
def contextHead (th : Thread) : List (Nat × Nat × Nat) :=
  ((nums 64).map fun n => (8 * n, 8, if th.kind = .migrant ∧ 24 < n then 0 else (th.sv (BitVec.ofNat 6 n)).toNat)) ++
  ((nums 64).map fun n => (0x200 + 2 * n, 2, if th.kind = .migrant ∧ 24 < n then 0 else (th.sl (BitVec.ofNat 6 n)).toNat)) ++
  if th.kind = .compute then
    ((nums 32).map fun n => (0x280 + 64 * n, 64, (th.vreg (BitVec.ofNat 5 n)).bits.toNat)) ++
    ((nums 8).map fun n => (0xA80 + 2048 * n, 2048, (th.treg (BitVec.ofNat 3 n)).bits.toNat))
  else []

/-- The vector, mask and tile fields of the tail of a context record. -/
def contextVectors (th : Thread) : List (Nat × Nat × Nat) :=
  if th.kind = .compute then
    ((nums 8).map fun n => (0x78 + 2 * n, 2, (th.kreg (BitVec.ofNat 3 n)).val.toNat)) ++
    ((nums 8).map fun n => (0x88 + 2 * n, 2, (th.kreg (BitVec.ofNat 3 n)).lab.toNat)) ++
    ((nums 32).map fun n => (0x98 + n, 1, (th.vreg (BitVec.ofNat 5 n)).tag.toNat)) ++
    ((nums 32).map fun n => (0xB8 + 2 * n, 2, (th.vreg (BitVec.ofNat 5 n)).lab.toNat)) ++
    ((nums 8).map fun n => (0xF8 + n, 1, (tsFmt (th.tsreg (BitVec.ofNat 3 n))).toNat)) ++
    ((nums 8).map fun n => (0x100 + 2 * n, 2, (th.treg (BitVec.ofNat 3 n)).lab.toNat)) ++
    ((nums 8).map fun n => (0x110 + 4 * n, 4, (th.tsreg (BitVec.ofNat 3 n)).toNat))
  else [(0x78, 184, 0)]

/-- The fields of the tail of a context record (20 Table 20.4) of a thread at a csave: offset from the tail, bytes, value. A pending
record's TCAUSE keeps the label of its location in bits [63:48] (log 44). -/
def contextTail (s : State) (th : Thread) : List (Nat × Nat × Nat) := [
  (0x00, 8, (th.pc + 4).toNat), (0x08, 8, (tstatOf s th).toNat), (0x10, 8, th.fpc.toNat), (0x18, 8, th.tepc.toNat),
  (0x20, 8, th.tcause.toNat), (0x28, 8, th.tinfo0.toNat), (0x30, 8, th.tinfo1.toNat), (0x38, 8, th.tsave.toNat), (0x40, 2, th.ctxl.toNat),
  (0x42, 2, th.tsig.toNat), (0x44, 2, th.flint.toNat), (0x46, 1, match th.kind with | .control => 0 | .compute => 1 | .migrant => 2),
  (0x47, 1, 1 + ((nums 7).map fun n => b2n (th.preg (BitVec.ofNat 3 (n + 1))).val * 2 ^ (n + 1)).sum),
  (0x56, 2, 0), (0x58, 8, th.barPend.toNat), (0x60, 8, th.accWin.toNat), (0x68, 8, th.depSel.toNat),
  (0x70, 8, if th.kind = .compute then th.abown.toNat else 0), (0x130, 8, th.pendSet.length),
  (0x138 + 24 * th.pendSet.length, 24 * (64 - th.pendSet.length) + 32, 0)] ++
  ((nums 7).map fun n => (0x48 + 2 * n, 2, (th.preg (BitVec.ofNat 3 (n + 1))).lab.toNat)) ++ contextVectors th ++
  (th.pendSet.zip (nums th.pendSet.length)).flatMap fun (e, j) => [
    (0x138 + 24 * j, 8, e.code.toNat + e.cls.toNat * 2 ^ 32 + e.lab.toNat * 2 ^ 48), (0x140 + 24 * j, 8, e.i0.toNat),
    (0x148 + 24 * j, 8, e.i1.toNat)]

/-- The directory words and images of the banks of a context record (20 R420). -/
def contextBanks (s : State) (th : Thread) : List (Nat × Nat × Nat) :=
  let l := heldList th
  (l.zip (nums l.length)).flatMap fun (b, j) =>
    let x := bankOf (s.core (coreOf s.cur)) b
    [(directoryAt th + 8 * j, 8, b + x.kind.toNat * 2 ^ 8 + x.lab.toNat * 2 ^ 16), (imagesAt th l.length + 2048 * j, 2048, x.bits.toNat)]

/-- Every field of the context record of a thread (20 Table 20.4): offset, bytes, value. -/
def contextRecord (s : State) (th : Thread) : List (Nat × Nat × Nat) :=
  contextHead th ++ ((contextTail s th).map fun f => (contextSize th - 1880 + f.1, f.2)) ++ contextBanks s th

/-- The label that a save gives the blocks it writes: CTXL and the label of the trap (18 R394). -/
def savedLabel (th : Thread) : Label := th.ctxl ||| th.tcause.extractLsb' 48 16

/-- A record of `n` bytes at `pa` written by `th`: no byte outside it changes, every word of it is sound, and the labels of its blocks,
and of no other, widen by the saver's (18 R394; 20 R416 to R418). -/
structure Recorded (s t : State) (th : Thread) (pa n : Nat) : Prop where
  outside : ∀ a, a < pa ∨ pa + n ≤ a → t.num a 1 = s.num a 1
  sound : t.isPoisoned pa n = false
  label : ∀ a, t.blockLabel a =
    if pa / 256 ≤ a / 256 ∧ a / 256 ≤ (pa + n - 1) / 256 then s.blockLabel a ||| savedLabel th else s.blockLabel a
  same : t.threads = s.threads ∧ t.cores = s.cores ∧ t.full = s.full

/-- The directory words of a context record with `n` banks at a physical address. -/
def directory (s : State) (th : Thread) (pa n : Nat) : List Word :=
  (nums n).map fun j => BitVec.ofNat 64 (s.num (pa + directoryAt th + 8 * j) 8)

/-- The byte that says the kind of a context record (20 Table 20.4). -/
def kindByte (th : Thread) : Nat := match th.kind with | .control => 0 | .compute => 1 | .migrant => 2

/-- How many banks the record at a physical address has, that of a compute thread by its ABOWN. -/
def banksAt (s : State) (th : Thread) (pa : Nat) : Nat :=
  if th.kind = .compute then popcNat (s.num (pa + contextSize th - 1880 + 0x70) 8) 64 else 0

/-- The banks that its directory names. -/
def namesAt (s : State) (th : Thread) (pa : Nat) : List Nat :=
  (directory s th pa (banksAt s th pa)).map fun d => d.toNat % 64

/-- The pending records of a context record whose tail stands at a physical address: those of classes 1 and 2 (20 R411). -/
def pendingAt (s : State) (o : Nat) : List PendEvent :=
  ((nums (min (s.num (o + 0x130) 8) 64)).map fun j =>
    ({ code := BitVec.ofNat 16 (s.num (o + 0x138 + 24 * j) 8), cls := BitVec.ofNat 8 (s.num (o + 0x138 + 24 * j) 8 / 2 ^ 32)
       i0 := BitVec.ofNat 64 (s.num (o + 0x140 + 24 * j) 8), i1 := BitVec.ofNat 64 (s.num (o + 0x148 + 24 * j) 8)
       lab := BitVec.ofNat 16 (s.num (o + 0x138 + 24 * j) 8 / 2 ^ 48) } : PendEvent)).filter
    fun e => decide (e.cls = 1) || decide (e.cls = 2)

/-- The registers that thread `th` has as `u` once crest has read the record at `pa`, whose blocks carry the label `lab` (20 R420, 18
R394; reserved bits read zero, 02 Tables 2.1, 2.3, 2.5, 2.6). Events that stand in no record stay pending behind those of the record
(log 44). -/
structure Restored (s : State) (th u : Thread) (pa o : Nat) (lab : Label) : Prop where
  same : u.kind = th.kind ∧ u.part = th.part ∧ u.gen = th.gen ∧ u.launch = th.launch ∧ u.world = th.world
  pc : u.pc = BitVec.ofNat 64 (s.num o 8) &&& ~~~3
  tstat : u.sbc = (s.num (o + 8) 8).testBit 0 ∧ u.te = (s.num (o + 8) 8).testBit 1
  fpc : u.fpc = BitVec.ofNat 64 (s.num (o + 16) 8) &&& ~~~0xC00
  tepc : u.tepc = BitVec.ofNat 64 (s.num (o + 24) 8)
  tcause : u.tcause = BitVec.ofNat 64 (s.num (o + 32) 8) &&& 0xFFFF00FF0000FFFF
  tinfo : u.tinfo0 = BitVec.ofNat 64 (s.num (o + 40) 8) ∧ u.tinfo1 = BitVec.ofNat 64 (s.num (o + 48) 8)
  tsave : u.tsave = BitVec.ofNat 64 (s.num (o + 56) 8)
  ctxl : u.ctxl = th.ctxl ||| BitVec.ofNat 16 (s.num (o + 0x40) 2) ||| lab
  tsig : u.tsig = BitVec.ofNat 16 (s.num (o + 0x42) 2)
  flint : u.flint = BitVec.ofNat 16 (s.num (o + 0x44) 2)
  bar : u.barPend = BitVec.ofNat 5 (s.num (o + 0x58) 8)
  win : u.accWin = BitVec.ofNat 5 (s.num (o + 0x60) 8)
  dep : u.depSel = BitVec.ofNat 8 (s.num (o + 0x68) 8)
  scalars : ∀ r : SReg, r ≠ 0 → hasS th.kind r.toNat → u.sv r = BitVec.ofNat 64 (s.num (pa + 8 * r.toNat) 8) ∧
    u.sl r = BitVec.ofNat 16 (s.num (pa + 0x200 + 2 * r.toNat) 2) ||| lab
  preds : ∀ n : PReg, n ≠ 0 → (u.preg n).val = (s.num (o + 0x47) 1).testBit n.toNat ∧
    (u.preg n).lab = BitVec.ofNat 16 (s.num (o + 0x46 + 2 * n.toNat) 2) ||| lab
  masks : th.kind = .compute → ∀ n : KReg, n ≠ 0 → (u.kreg n).val = BitVec.ofNat 16 (s.num (o + 0x78 + 2 * n.toNat) 2) ∧
    (u.kreg n).lab = BitVec.ofNat 16 (s.num (o + 0x88 + 2 * n.toNat) 2) ||| lab
  vectors : th.kind = .compute → ∀ n : VReg, (u.vreg n).bits = BitVec.ofNat 512 (s.num (pa + 0x280 + 64 * n.toNat) 64) ∧
    (u.vreg n).tag = BitVec.ofNat 6 (s.num (o + 0x98 + n.toNat) 1) ∧
    (u.vreg n).lab = BitVec.ofNat 16 (s.num (o + 0xB8 + 2 * n.toNat) 2) ||| lab
  tiles : th.kind = .compute → ∀ n : TReg, (u.treg n).bits = BitVec.ofNat 16384 (s.num (pa + 0xA80 + 2048 * n.toNat) 2048) ∧
    (u.treg n).lab = BitVec.ofNat 16 (s.num (o + 0x100 + 2 * n.toNat) 2) ||| lab ∧
    u.tsreg n = BitVec.ofNat 32 (s.num (o + 0x110 + 4 * n.toNat) 4) &&& 0x003F3FFF
  pending : u.pendSet = (pendingAt s o ++ th.pendSet.filter fun e => !(pendingAt s o).contains e).take 64
  going : u.chain = none ∧ u.park = none ∧ u.again = none ∧ u.pend = []

/-! ### The release gate (18 R403, R404) -/

/-- The signatures of a policy record, one for each principal of LSET in ascending order, are all good; else the first principal
whose signature fails. -/
def firstBad (s : State) (l : List Byte) : Option Nat :=
  let ps := (nums 16).filter fun i => (labAt l 2).getLsbD i
  ((ps.zip (nums ps.length)).find? fun x =>
    !edVerify (toBytes 32 (vget s.keys x.1).toNat) (l.take 128) ((l.drop (128 + 64 * x.2)).take 64)).map (·.1)

/-- Steps 1 to 6 of the checks of gset: the first failure. -/
def gateFail (s : State) (part : Nat) (l : List Byte) : Option Nat :=
  let lset := labAt l 2
  let cls := byteField l 4 1
  let port := byteField l 6 2
  let lo := byteField l 0x20 8
  let hi := byteField l 0x28 8
  let top := if cls = 0 then 2 ^ 48 else 2 ^ 52
  if byteField l 0 2 ≠ 1 ∨ byteField l 0x3C 4 ≠ 0 ∨ byteField l 0x60 32 ≠ 0 then some 1
  else if wordAt l 8 ≠ s.fixed.serial ∨ wordAt l 0x10 ≠ s.fixed.gateBoot then some 2
  else if byteField l 5 1 ≠ part then some 3
  else if lset = 0 ∨ lset &&& ~~~s.prinMap ≠ 0 then some 4
  else if 1 < cls ∨ (cls = 0 ∧ 2 ≤ port) ∨ (cls ≠ 0 ∧ 256 ≤ port) ∨ top ≤ lo ∨ top < hi ∨ hi ≤ lo ∨ byteField l 0x30 8 = 0 ∨
      byteField l 0x38 4 = 0 then some 5
  else (firstBad s l).map fun i => 6 + 256 * i

/-- The policy that a record installs, for the issuer's world. -/
def policyAt (l : List Byte) (world : Bool) : Policy where
  lset := labAt l 2
  dclass := byteField l 4 1
  dport := BitVec.ofNat 16 (byteField l 6 2)
  dlo := byteField l 0x20 8
  dhi := byteField l 0x28 8
  cap := byteField l 0x30 8
  count := byteField l 0x38 4
  world := world

/-- Whether one piece of a release, `len` bytes at place `x`, lies in a policy's range (18 R404): by the host bus address and its link in
class 0, by the address in the target package and its number in class 1. -/
def inRange (p : Policy) (x : Place) (len : Nat) : Prop :=
  match x.leaf.rp with
  | some k => p.dclass = 1 ∧ k = p.dport.toNat % 256 ∧ p.dlo ≤ x.pa ∧ x.pa + len ≤ p.dhi
  | none => p.dclass = 0 ∧ x.pa / 2 ^ 48 % 2 = p.dport.toNat % 2 ∧ p.dlo ≤ x.pa % 2 ^ 48 ∧ x.pa % 2 ^ 48 + len ≤ p.dhi

/-- Whether a policy serves a release of `n` bytes labelled `lab` (18 R404). -/
def servesAll (p : Policy) (world : Bool) (lab : Label) (n : Nat) (l : List (Place × Nat)) : Prop :=
  p.world = world ∧ lab &&& ~~~p.lset = 0 ∧ n ≤ p.cap ∧ 1 ≤ p.count ∧ ∀ x ∈ l, inRange p x.1 x.2

/-- The policy that a release of `n` bytes leaves of entry `p`: none once CAP or COUNT has reached 0 (18 R404). -/
def policyUsed (p : Policy) (n : Nat) : Option Policy :=
  if p.cap - n = 0 ∨ p.count - 1 = 0 then none else some { p with cap := p.cap - n, count := p.count - 1 }

/-- The message that writes one piece of a release: its bytes of `data`, with the empty label (18 R404). -/
structure Releases (s : State) (th : Thread) (va : Word) (data : List Byte) (m : Msg) (x : (Nat × Nat) × Place) : Prop where
  req : m.req = .write (((data.drop x.1.1).take x.1.2).map some)
  place : m.pa = x.2.pa ∧ m.dst = x.2.home ∧ m.va = va + BitVec.ofNat 64 x.1.1 ∧ m.idx = x.1.1
  lab : m.lv = 0
  own : m.owner = .thread s.cur th.gen ∧ m.part = th.part ∧ m.src = .core (coreOf s.cur)

end Sys2Proof.Rules
end

