-- ==== Sys2Proof/Rules/Engine.lean ====
section
/-! DEFINITION. What the engine words ask for and leave behind, in the form that statements use: written from 15 R357 to R376 and
Tables 15.1 to 15.8, and not from the meanings. -/

namespace Sys2Proof.Rules

open Sys2Proof.Machine

/-- The checks of a completion object (15 R357) pass, the slot has fewer than four commands (15 R356), and nothing stands in the wait
lists; `t` is the state after the checks. -/
structure ObjReady (s : State) (th : Thread) (va : Word) (p : Place) (t : State) : Prop where
  check : s.check (whoIs s.cur th) { kind := 1, size := 64 } va = (t, .ok p)
  here : p.here = true
  space : spaceOf p.pa = 1
  plain : areaOf (t.pdie (dieOf (coreOfPa p.pa)) th.part) (p.pa % 2 ^ 19) = .plain
  sc : p.leaf.sc = false
  sound : t.isPoisoned p.pa 1 = false
  idle : t.num p.pa 1 ≠ 1
  room : (t.engines.filter fun x => decide (x.2.core = coreOf s.cur) && decide (x.2.slot = slotOf s.cur)).length < 4
  quiet : t.waiters = []

/-- A completion object as the fork writes it (15 R357, Table 15.1): offset, bytes, value. -/
def objFields (kind tag : Nat) (quartz : Word) : List (Nat × Nat × Nat) :=
  [(0, 1, 1), (1, 1, kind), (2, 10, 0), (0x0C, 2, tag), (0x0E, 1, 0xFF), (0x0F, 1, 0), (0x10, 24, 0), (0x28, 8, quartz.toNat),
    (0x30, 16, 0)]

/-- An engine thread `g` has forked: it is the issuer's, its completion object is written, no other byte changes but the D bits of
the object's mapping, and nothing else of the state `t` does. -/
structure Forked (s : State) (th : Thread) (x y z : SReg) (p : Place) (t u : State) (kind : Nat) (g : Engine) : Prop where
  engines : u.engines = nset t.engines t.serial g
  object : ∀ f ∈ objFields kind g.tag.toNat s.quartz, u.num (p.pa + f.1) f.2.1 = f.2.2
  frame : ∀ a, a < p.pa ∨ p.pa + 64 ≤ a → u.num a 1 = (t.setDirty (whoIs s.cur th) p).num a 1
  threads : u.threads = s.threads
  full : u.full = s.full
  blab : u.blab = s.blab
  issuer : g.tid = s.cur ∧ g.gen = th.gen ∧ g.core = coreOf s.cur ∧ g.slot = slotOf s.cur ∧ g.part = th.part ∧ g.launch = th.launch
  place : g.obj = p.pa
  label : g.lab = th.sl x ||| th.sl y ||| th.sl z ||| th.ctxl
  fresh : g.cause = 0 ∧ g.outstanding = 0 ∧ g.bytes = 0 ∧ g.issueQ = s.quartz ∧ g.cancelled = false

/-- The bytes that btour has read, 32 of the descriptor, 64 of the header and those of the stops, pass every check of 15 R360 to R362.
-/
structure TourReady (s : State) (th : Thread) (y z : SReg) (l : List Byte) : Prop where
  valid : byteField l 0x1B 1 = 1
  gen : byteField l 0x18 2 = (th.sv z).toNat % 4096
  fmt : byteField l 0x1A 1 < 64 ∧ byteField l 0x1A 1 ≠ 0 ∧ tagAssigned (BitVec.ofNat 6 (byteField l 0x1A 1)) = true
  zero : byteField l 0x1C 4 = 0
  steps : byteField l 0 8 % elemSize (BitVec.ofNat 6 (byteField l 0x1A 1)) = 0 ∧
    byteField l 8 8 % elemSize (BitVec.ofNat 6 (byteField l 0x1A 1)) = 0
  size : byteField l 0x10 4 ≠ 0 ∧ byteField l 0x14 4 ≠ 0
  operand : (th.sv z).extractLsb' 48 16 = 0
  aligned : (th.sv y).toNat % 64 = 0
  header : byteField l 33 1 < 2 ∧ byteField l 34 2 = 0 ∧ byteField l 50 46 = 0
  count : 1 ≤ byteField l 32 1 ∧ byteField l 32 1 ≤ 16
  stops : ∀ k, k < byteField l 32 1 →
    byteField l (96 + 16 * k + 4) 2 < 2048 ∧ byteField l (96 + 16 * k + 7) 1 = 0 ∧ byteField l (96 + 16 * k + 12) 4 = 0 ∧
    byteField l (96 + 16 * k + 6) 1 < 16 ∧
    byteField l (96 + 16 * k + 6) 1 < (s.pdie (dieOf (coreOf s.cur)) th.part).bslots ∧
    byteField l (96 + 16 * k + 4) 2 / 1024 < s.diesOf ∧
    byteField l (96 + 16 * k + 4) 2 % 1024 < liveN (s.die (byteField l (96 + 16 * k + 4) 2 / 1024)) ∧
    (byteField l (96 + 16 * k) 4 = 0 ∨
      legalFollow (BitVec.ofNat 32 (byteField l (96 + 16 * k) 4)) (some (byteField l (96 + 16 * k + 6) 1)) = true)

/-- The rows and columns of a tour's tile (15 Table 15.4). -/
def tourRows (l : List Byte) : Nat := if byteField l 48 1 = 0 then byteField l 0x10 4 else byteField l 48 1
/-- The columns. -/
def tourCols (l : List Byte) : Nat := if byteField l 49 1 = 0 then byteField l 0x14 4 else byteField l 49 1
/-- The bytes of an element. -/
def tourElem (l : List Byte) : Nat := elemSize (BitVec.ofNat 6 (byteField l 0x1A 1))

/-- The tile lies in its tensor and fits a bead (15 R362 check 3). -/
def tourFits (l : List Byte) : Prop :=
  0 < tourRows l ∧ tourRows l ≤ 64 ∧ 0 < tourCols l ∧ tourCols l ≤ 64 ∧ tourRows l * tourCols l * tourElem l ≤ 8192 ∧
  byteField l 40 4 + tourRows l ≤ byteField l 0x10 4 ∧ byteField l 44 4 + tourCols l ≤ byteField l 0x14 4

/-- A copy's record and length pass the checks of 15 R373. -/
structure CopyReady (th : Thread) (z : SReg) (l : List Byte) : Prop where
  zero : byteField l 0x1B 37 = 0
  length : 1 ≤ (th.sv z).toNat ∧ (th.sv z).toNat ≤ 2 ^ 31
  apart : (wordAt l 8).toNat + (th.sv z).toNat ≤ (wordAt l 0).toNat ∨ (wordAt l 0).toNat + (th.sv z).toNat ≤ (wordAt l 8).toNat
  follow : byteField l 0x10 4 = 0 ∨ legalFollow (BitVec.ofNat 32 (byteField l 0x10 4)) none = true

/-- A multicast's record and length pass the checks of 15 R376. -/
structure McastReady (s : State) (th : Thread) (z : SReg) (l : List Byte) : Prop where
  zero : byteField l 0x10 1 < 16 ∧ byteField l 0x11 3 = 0 ∧ byteField l 0x18 40 = 0
  length : 1 ≤ (th.sv z).toNat ∧ (th.sv z).toNat ≤ 524288
  named : byteField l 0x10 1 ≠ 0
  dest : byteField l 8 4 % 8 = 0 ∧ lsBase (s.pdie (dieOf (coreOf s.cur)) th.part) ≤ byteField l 8 4 ∧
    byteField l 8 4 + (th.sv z).toNat ≤ saveBase (s.pdie (dieOf (coreOf s.cur)) th.part)
  barrier : byteField l 12 4 = 0xFFFFFFFF ∨ (byteField l 12 4 % 8 = 0 ∧
    lsBase (s.pdie (dieOf (coreOf s.cur)) th.part) ≤ byteField l 12 4 ∧
    byteField l 12 4 + 8 ≤ saveBase (s.pdie (dieOf (coreOf s.cur)) th.part))

/-- A bead that has left a core is on its way to the next of its stops `l`, if there is one (15 R363; 12 Table 12.2). -/
def sentOn (s : State) (e core : Nat) (g : Engine) (l : List (Nat × Bool)) : State :=
  match l with
  | [] => s
  | y :: _ => match g.stops[y.1]? with
    | some x => s.send (.core core) (.core x.core) .b (.bead e)
    | none => s

end Sys2Proof.Rules
end

