-- ==== Sys2Proof/Rules/Frame.lean ====
section
/-! DEFINITION. The words that touch registers only, named for the statement of their frame (04; 05; 06 but for vld and vst; 14 but
for tld and tst; 20 R414, R415, R421, R424; 03 R80 to R84). -/

namespace Sys2Proof.Rules

open Sys2Proof.Machine

/-- A word that reads and writes registers, banks and its thread's own state, and makes no access to memory. -/
def registerOnly : Instr → Bool
  | .add .. | .sub .. | .mul .. | .mulhI64 .. | .mulhN64 .. | .divI64 .. | .divN64 .. | .remI64 .. | .remN64 ..
  | .and .. | .or .. | .xor .. | .andn .. | .orn .. | .xnor .. | .sll .. | .srl .. | .sra .. | .rol .. | .ror ..
  | .minI64 .. | .maxI64 .. | .minN64 .. | .maxN64 .. | .popc .. | .clz .. | .ctz .. | .bextN .. | .bextI ..
  | .bins .. | .rev8 .. | .clmul .. | .clmulh .. | .sh1add .. | .sh2add .. | .sh3add .. | .sh4add .. | .cmp ..
  | .cmpi .. | .cmpin .. | .pand .. | .por .. | .pxor .. | .pmov .. | .mfpw .. | .mtpw .. | .sel .. | .addi ..
  | .andi .. | .ori .. | .xori .. | .slli .. | .srli .. | .srai .. | .roli .. | .rori .. | .lea .. | .movi ..
  | .br .. | .call .. | .brnz .. | .brz .. | .jr .. | .jalr .. => true
  | .vaddI .. | .vsubI .. | .vmulI .. | .vmulh .. | .vminI .. | .vmaxI .. | .vadds .. | .vsubs .. | .vand ..
  | .vor .. | .vxor .. | .vandn .. | .vsll .. | .vsrl .. | .vsra .. | .vrol .. | .vror .. | .vpopc .. | .vclz ..
  | .vnegL .. | .vabsL .. | .vaddF .. | .vsubF .. | .vmulF .. | .vfma .. | .vfms .. | .vfnma .. | .vminF ..
  | .vmaxF .. | .vabsF .. | .vnegF .. | .vdiv .. | .vsqrt .. | .vcmpInt .. | .vcmpFloat .. | .vmov ..
  | .vperm32 .. | .vperm64 .. | .vsel .. | .kand .. | .kor .. | .kxor .. | .knot .. | .kmov .. | .vclmulLo32 ..
  | .vclmulHi32 .. | .vclmulLo64 .. | .vclmulHi64 .. | .vradd .. | .vrmin .. | .vrmax .. | .vbcast32 ..
  | .vbcast64 .. | .vins32 .. | .vins64 .. | .vext32 .. | .vext64 .. | .vcvt .. | .vscale .. | .vgexp ..
  | .vmxsc .. | .vmxq .. | .vmxdq .. => true
  | .tzero .. | .tmov .. | .tshape .. | .tgshape .. | .rela .. | .ardt .. | .azero .. | .acqa .. | .rfwd ..
  | .rrevI64 .. | .rrevI32 .. | .rchk .. | .rodrd .. => true
  | .rten .. | .tret .. | .swtrap .. | .lrd .. | .lrdp .. | .lrdv .. | .lrdk .. | .lrdt .. | .ljoin .. => true
  | .nop .. | .sig .. | .schedTrip .. | .schedBias .. | .limm .. | .rnd .. | .sround .. | .spar .. | .itinOpts ..
  | .reservedHint .. => true
  | _ => false

end Sys2Proof.Rules
end

