-- ==== Sys2Proof/Rules/Matrix.lean ====
section
/-! DEFINITION. What the matrix and residue words ask for and do, in the form that statements use: written from 14 Tables 14.2 to
14.5 and R326 to R353, and not from the meanings. -/

namespace Sys2Proof.Rules

open Sys2Proof.Machine

/-- A row of 14 Table 14.4, with the operands of a word. -/
structure MatrixRow where
  bank : Bank
  a : TReg
  b : BSrc
  z : Bool
  /-- M, K and N. -/
  m : Nat
  k : Nat
  n : Nat
  /-- The tags that both operands may have. -/
  tags : List Tag
  /-- The kinds of the banks. -/
  kinds : List Nat
  /-- Products of a chunk; K for an exact form. -/
  chunk : Nat
  /-- Time from start to completion: dense, 4-of-8, 2-of-8. -/
  time : Nat × Nat × Nat
  mx : Bool := false
  rns : Bool := false

/-- 14 Table 14.4. -/
def matrixRow : Instr → Option MatrixRow
  | .mmaF64 _ n a b z =>
    some {
      bank := n, a := a, b := b, z := z, m := 16, k := 16, n := 16, tags := [0x09],
      kinds := [1], chunk := 4, time := (16, 16, 16) }
  | .mmaF32 _ n a b z =>
    some {
      bank := n, a := a, b := b, z := z, m := 32, k := 16, n := 16, tags := [0x0A],
      kinds := [2], chunk := 8, time := (16, 16, 16) }
  | .mmaBf16 _ n a b z =>
    some {
      bank := n, a := a, b := b, z := z, m := 32, k := 32, n := 32, tags := [0x0C],
      kinds := [3, 4], chunk := 16, time := (32, 16, 8) }
  | .mmaF16 _ n a b z =>
    some {
      bank := n, a := a, b := b, z := z, m := 32, k := 32, n := 32, tags := [0x0B],
      kinds := [3, 4], chunk := 16, time := (32, 16, 8) }
  | .mmaB8 _ n a b z =>
    some {
      bank := n, a := a, b := b, z := z, m := 32, k := 64, n := 32, tags := b8Tags,
      kinds := [3, 4], chunk := 32, time := (32, 16, 8) }
  | .mmaMxe4m3 _ n a b z =>
    some {
      bank := n, a := a, b := b, z := z, m := 32, k := 64, n := 32, tags := [0x0D],
      kinds := [3, 4], chunk := 32, time := (32, 16, 8), mx := true }
  | .mmaMxe5m2 _ n a b z =>
    some {
      bank := n, a := a, b := b, z := z, m := 32, k := 64, n := 32, tags := [0x0E],
      kinds := [3, 4], chunk := 32, time := (32, 16, 8), mx := true }
  | .rmmaI8 _ n a b z =>
    some {
      bank := n, a := a, b := b, z := z, m := 32, k := 64, n := 32, tags := [0x01, 0x05],
      kinds := [8, 9, 10, 11, 12, 13], chunk := 64, time := (20, 20, 20), rns := true }
  | .rmmaI16 _ n a b z =>
    some {
      bank := n, a := a, b := b, z := z, m := 32, k := 32, n := 32, tags := [0x02, 0x06],
      kinds := [8, 9, 10, 11, 12, 13], chunk := 32, time := (36, 36, 36), rns := true }
  | _ => none
where
  /-- The tags of the B8 formats (05 Table 5.1). -/
  b8Tags : List Tag := (nums 64).map (BitVec.ofNat 6) |>.filter tagB8

/-- A tile register with a shape and one of the tags given. -/
def tileIs (th : Thread) (t : TReg) (rows cols : Nat) (tags : List Tag) : Prop :=
  tsRows (th.tsreg t) = rows ∧ tsCols (th.tsreg t) = cols ∧ tsFmt (th.tsreg t) ∈ tags

/-- Stored values of A in a group of 8 (14 R339). -/
def keepOf (sp : Option (TReg × SpPat)) : Nat := match sp with | none => 8 | some (_, .of4) => 4 | some (_, .of2) => 2

/-- The banks of an accumulator: the thread holds each, and unless the word starts from zero each is zero or of its kind (14 R325). -/
def banksFit (s : State) (th : Thread) (b : Nat) (kinds : List Nat) (z : Bool) : Prop :=
  ∀ n, n < kinds.length → b + n < 64 ∧ th.abown.getLsbD (b + n) = true ∧
    (z = true ∨ (bankOf (s.core (coreOf s.cur)) (b + n)).kind.toNat = 0 ∨
      (bankOf (s.core (coreOf s.cur)) (b + n)).kind.toNat = kinds.getD n 0)

/-- The checks of a matrix word whose B is a tile register (14 R335), with the spar prefix that precedes it. -/
structure MatrixReady (s : State) (th : Thread) (r : MatrixRow) (t : TReg) (sp : Option (TReg × SpPat)) : Prop where
  unit : r.rns = true → (s.core (coreOf s.cur)).rodOff = false
  a : tileIs th r.a r.m (r.k / 8 * keepOf sp) r.tags
  b : tileIs th t r.k r.n r.tags
  scales : r.mx = true → tileIs th (r.a ^^^ 4) r.m 2 [0x05] ∧ tileIs th (t ^^^ 4) 2 r.n [0x05]
  banks : banksFit s th r.bank.toNat r.kinds r.z
  mask : ∀ x p, sp = some (x, p) → tileIs th x r.m (r.k / 8) [0x05] ∧ x ≠ r.a ∧ x ≠ t ∧ (r.mx = true → x ≠ r.a ^^^ 4 ∧ x ≠ t ^^^ 4) ∧
    ∀ n, n < r.m * (r.k / 8) → popcNat ((th.treg x).bits.toNat / 2 ^ (8 * n) % 256) 8 ≤ keepOf sp

/-- The checks of a matrix word whose B stands in bead slot `n`, but for the rule of the slot's state: the slot exists, and a bead that is
HELD there has one of the tags (14 R335, R338). -/
structure SlotReady (s : State) (th : Thread) (r : MatrixRow) (n : Nat) (sp : Option (TReg × SpPat)) : Prop where
  unit : r.rns = true → (s.core (coreOf s.cur)).rodOff = false
  a : tileIs th r.a r.m (r.k / 8 * keepOf sp) r.tags
  scales : r.mx = true → tileIs th (r.a ^^^ 4) r.m 2 [0x05]
  banks : banksFit s th r.bank.toNat r.kinds r.z
  mask : ∀ x p, sp = some (x, p) → tileIs th x r.m (r.k / 8) [0x05] ∧ x ≠ r.a ∧ (r.mx = true → x ≠ r.a ^^^ 4) ∧
    ∀ n, n < r.m * (r.k / 8) → popcNat ((th.treg x).bits.toNat / 2 ^ (8 * n) % 256) 8 ≤ keepOf sp
  slot : n < (s.pdie (dieOf (coreOf s.cur)) th.part).bslots
  tag : (vget (s.pcore (coreOf s.cur) th.part).bslots n).state = 2 → (vget (s.pcore (coreOf s.cur) th.part).bslots n).fmt ∈ r.tags

/-- What a command reads of its bead slot is sound: the bytes of B, and in the MX forms its scales (14 R338; 20 R426). -/
def slotSound (s : State) (core part : Nat) (r : MatrixRow) (n : Nat) : Prop :=
  s.isPoisoned (s.slotPa core part n) (r.k * r.n * ((tagWidth (r.tags.headD 0)).getD 8 / 8)) = false ∧
    (r.mx = true → s.isPoisoned (s.slotPa core part n + 2048) 64 = false)

/-- The state once the tag of the bead in slot `n` has been compared for the current thread (15 R366). -/
def tagChecked (s : State) (part n : Nat) : State :=
  s.modPCore (coreOf s.cur) part fun q => { q with
    bslots := vset q.bslots n { vget (s.pcore (coreOf s.cur) part).bslots n with
      chk := (vget (s.pcore (coreOf s.cur) part).bslots n).chk ||| (1#8 <<< (s.cur % 8)) } }

/-- Banks `b` to `b + n − 1` lie in the pool of the thread's partition on its core, and no thread of the core holds one (14 R326). -/
def freeAt (s : State) (th : Thread) (n b : Nat) : Prop :=
  ∀ i, i < n → b + i ∈ bankPool (s.pdie (dieOf (coreOf s.cur)) th.part) ∧ (s.heldBanks (coreOf s.cur)).getLsbD (b + i) = false

/-- Element (i, j) of a floating-point accumulator of the given kind whose banks hold `x` (14 Table 14.2): 16 columns of 64 bits for
kind 1, of 32 bits for kind 2, 32 columns of 32 bits in two banks of 16 rows for kinds 3 and 4. -/
def accNum (x : Nat → TileBits) (kind i j : Nat) : Nat :=
  if kind = 1 then (x 0).toNat / 2 ^ (64 * (16 * i + j)) % 2 ^ 64
  else if kind = 2 then (x 0).toNat / 2 ^ (32 * (16 * i + j)) % 2 ^ 32
  else (x (i / 16)).toNat / 2 ^ (32 * (32 * (i % 16) + j)) % 2 ^ 32

/-- Element (i, j) of the floating-point accumulator at bank `b` of a core. -/
def accValue (s : State) (core b kind i j : Nat) : Nat := accNum (fun p => (bankOf (s.core core) (b + p)).bits) kind i j

/-- Element `n` of `w` bits of a byte string read as a number. -/
def numAt (x w n : Nat) : Nat := x / 2 ^ (w * n) % 2 ^ w

/-- Element `n` of a tile of elements of `w` bits. -/
def tileNum (x : TileBits) (w n : Nat) : Nat := numAt x.toNat w n

/-- Residue `r` of element `n` of the residue accumulator at bank `b`: 16 bits each (14 Table 14.2). -/
def residueAt (s : State) (core b r n : Nat) : Nat := (bankOf (s.core core) (b + r)).bits.toNat / 2 ^ (16 * n) % 2 ^ 16

/-- An integer saturated to the accumulator's range (14 R346). -/
def saturated (v : Int) : Int := if v < -(rnsHalf : Int) then -(rnsHalf : Int) else if (rnsHalf : Int) ≤ v then (rnsHalf : Int) - 1 else v

/-- What a readout into tile `d` of elements of `w` bits leaves: each element of the shape is its value, the bytes behind them stay, and the
flags are the elements' union (14 R329). -/
def readsOut (th : Thread) (d : TReg) (w : Nat) (f : Nat → Nat × Flags) (x : TVal) (fl : Flags) : Prop :=
  let n := tsRows (th.tsreg d) * tsCols (th.tsreg d)
  (∀ e, e < n → tileNum x.bits w e = (f e).1 % 2 ^ w) ∧ x.bits.toNat / 2 ^ (w * n) = (th.treg d).bits.toNat / 2 ^ (w * n) ∧
    ∀ b, fl.getLsbD b = true ↔ ∃ e, e < n ∧ (f e).2.getLsbD b = true

/-- Command `c` entered at the end of the queue of its core. What a command of the slot that is due later would still write to the banks of
mask `b`, which `c` writes, is discarded (02 R49; 14 R330). -/
def enqueued (s : State) (core : Nat) (c : MxCmd) (b : Word) : State :=
  (s.modCore core fun x => { dropDue x c.slot s.rot b with mxQueue := (dropDue x c.slot s.rot b).mxQueue ++ [c] }).tick1

/-- The checks of a residue word on its accumulator: the unit is up, the thread holds the six banks, each of its kind or zero, none is
poisoned, and no unfinished command of the thread names one (14 R347 to R349). -/
structure ResidueReady (s : State) (th : Thread) (b : Nat) : Prop where
  unit : (s.core (coreOf s.cur)).rodOff = false
  banks : banksFit s th b [8, 9, 10, 11, 12, 13] false
  sound : ∀ r, r < 6 → (bankOf (s.core (coreOf s.cur)) (b + r)).poisoned = false
  done : s.cmds s.cur = []

/-- The window of a residue word: the tile has 32 columns and a tag of the list, and its rows fit below ACC.WIN (14 R349, R350). -/
def windowFits (th : Thread) (d : TReg) (tags : List Tag) : Prop :=
  tsRows (th.tsreg d) ≠ 0 ∧ tsCols (th.tsreg d) = 32 ∧ tsFmt (th.tsreg d) ∈ tags ∧ th.accWin.toNat + tsRows (th.tsreg d) ≤ 32

/-! ### What a command computes (14 R336 to R341, R346) -/

/-- A row's time under a prefix. -/
def timeOf (r : MatrixRow) (sp : Option (TReg × SpPat)) : Nat :=
  match sp with | none => r.time.1 | some (_, .of4) => r.time.2.1 | some (_, .of2) => r.time.2.2

/-- The format of a tag that a matrix form takes. -/
def fmtOf (g : Tag) : Fmt := (tagFmt g).getD fp32

/-- Element (i, k) of logical A. Under a prefix of `c` values a group, the presence mask's byte (i, k / 8) says which of the eight
indices are there: the q-th set bit stands for stored value c × group + q (14 R339). -/
def logicalA (th : Thread) (r : MatrixRow) (sp : Option (TReg × SpPat)) (i k : Nat) : Nat :=
  let w := (tagWidth (tsFmt (th.tsreg r.a))).getD 8
  let c := keepOf sp
  let stored (j : Nat) : Nat := tileNum (th.treg r.a).bits w (i * (r.k / 8 * c) + j)
  match sp with
  | none => stored k
  | some (x, _) =>
    let m := tileNum (th.treg x).bits 8 (i * (r.k / 8) + k / 8)
    if bitAt m (k % 8) && decide (popcNat m (k % 8) < c) then stored (k / 8 * c + popcNat m (k % 8)) else 0

/-- The tag of B: the tile's, or what the command read of the bead (14 R338). -/
def tagOfB (th : Thread) (r : MatrixRow) (c : MxCmd) : Tag := match r.b with | .tile t => tsFmt (th.tsreg t) | .slot _ => c.btag

/-- Element (k, j) of B: in its tile, or in the first bytes of the bead slot, rows first (14 R336, R338). -/
def logicalB (s : State) (core : Nat) (th : Thread) (r : MatrixRow) (c : MxCmd) (k j : Nat) : Nat :=
  let w := (tagWidth (tagOfB th r c)).getD 8
  match r.b with
  | .tile t => tileNum (th.treg t).bits w (k * r.n + j)
  | .slot n => numAt (s.num (s.slotPa core th.part n.toNat) 2048) w (k * r.n + j)

/-- The scales of A's and of B's block that hold index `k` (14 R337). -/
def scaleA (th : Thread) (r : MatrixRow) (i k : Nat) : Nat := tileNum (th.treg (r.a ^^^ 4)).bits 8 (i * 2 + k / 32)

/-- The scale of B's block. -/
def scaleB (s : State) (core : Nat) (th : Thread) (r : MatrixRow) (k j : Nat) : Nat :=
  match r.b with
  | .tile t => tileNum (th.treg (t ^^^ 4)).bits 8 (k / 32 * r.n + j)
  | .slot n => numAt (s.num (s.slotPa core th.part n.toNat + 2048) 64) 8 (k / 32 * r.n + j)

/-- A(i, k) × B(k, j) × sc(i, k, j), exact, with the invalid flag that it raises (14 R336, R337; 05 R144): a scale of 255 makes it
NaN. -/
def product (s : State) (core : Nat) (th : Thread) (r : MatrixRow) (c : MxCmd) (i j k : Nat) : Machine.Num × Flags :=
  let p := mulNum (numOf (fmtOf (tsFmt (th.tsreg r.a))) (logicalA th r c.spar i k)) (numOf (fmtOf (tagOfB th r c)) (logicalB s core th r c k j))
  let sa := scaleA th r i k
  let sb := scaleB s core th r k j
  if r.mx = true then
    if sa = 255 ∨ sb = 255 then (.nan false (numKey p.1), p.2)
    else match p.1 with | .fin g m e => (.fin g m (e + (sa - 127 : Int) + (sb - 127 : Int)), p.2) | x => (x, p.2)
  else p

/-- One chunk: the exact sum of its products and of what stood before, rounded once. Where it is NaN and no term carries a payload,
the payload names the package, the die and the core, and the lowest k of a term that makes it NaN: a NaN, or an infinity where the sum
holds both (05 R144, R146, R147). -/
def chunkOf (f : Fmt) (q : Rnd) (idx : Nat) (here : Nat × Nat × Nat) (before : Option Nat) (ps : List (Nat × Machine.Num)) : Nat × Flags :=
  let terms := ps.map (·.2) ++ (before.map (numOf f)).toList
  let both := terms.any (isInf true) && terms.any (isInf false)
  let x := sumNums f q idx terms
  if (terms.any isNan || both) && terms.all (fun v => (numKey v).isNone) then
    match ps.find? fun y => isNan y.2 || (both && (isInf true y.2 || isInf false y.2)) with
    | some y => (nanWith f (some (here.1, here.2.1, here.2.2, y.1)), x.2)
    | none => x
  else x

/-- An element after its first chunks: what it holds, none before the first of a word that starts from zero, and the flags raised
(14 R336). -/
def afterChunks (f : Fmt) (q : Rnd) (here : Nat × Nat × Nat) (chunk base : Nat) (old : Option Nat) (p : Nat → Machine.Num × Flags) :
    Nat → Option Nat × Flags
  | 0 => (old, 0)
  | c + 1 =>
    let x := afterChunks f q here chunk base old p c
    let ks := numsFrom (c * chunk) chunk
    let y := chunkOf f q (base + c) here x.1 (ks.map fun k => (k, (p k).1))
    (some y.1, x.2 ||| y.2 ||| ks.foldl (fun a k => a ||| (p k).2) 0)

/-- The format of an accumulator that rounds: FP64 for kind 1, FP32 for the others (14 Table 14.2). -/
def accFmt (r : MatrixRow) : Fmt := if r.kinds = [1] then fp64 else fp32

/-- The rounding of a command: the mode at its issue, and under sround the bits of each index (05 R141; 14 R336). -/
def commandRnd (th : Thread) (c : MxCmd) : Rnd where
  mode := c.rm
  draw := fun idx => if c.stoch = true then some (srBits th.srseed c.srcnt.toNat c.pc idx) else none

/-- Element (i, j) of a floating-point command, and its flags (14 R336). -/
def mmaElement (s : State) (core : Nat) (th : Thread) (r : MatrixRow) (c : MxCmd) (i j : Nat) : Nat × Flags :=
  let nc := r.k / r.chunk
  let old := if r.z = true then none else some (accValue s core r.bank.toNat (r.kinds.headD 1) i j)
  let x := afterChunks (accFmt r) (commandRnd th c) (s.fixed.pkgId.toNat, dieOf core, core % 1024) r.chunk ((i * r.n + j) * nc) old
    (product s core th r c i j) nc
  (x.1.getD 0, x.2)

/-- Residue `q` of element (i, j) of a residue command (14 R341). -/
def rmmaResidue (s : State) (core : Nat) (th : Thread) (r : MatrixRow) (c : MxCmd) (q i j : Nat) : Nat :=
  let x := (tagInt (tsFmt (th.tsreg r.a))).getD (true, 8)
  let y := (tagInt (tagOfB th r c)).getD (true, 8)
  let m : Int := rodMod q
  let sum : Int := (nums r.k).foldl (fun z k => z + intOf x.1 x.2 (logicalA th r c.spar i k) % m * (intOf y.1 y.2 (logicalB s core th r c k j) % m)) 0
  (((if r.z = true then 0 else residueAt s core r.bank.toNat q (32 * i + j) : Nat) + sum) % m).toNat

/-- The label of a command's operands (14 R336): A, B or the bead, the scales, the mask, and CTXL at issue. -/
def commandLabel (th : Thread) (r : MatrixRow) (c : MxCmd) : Label :=
  (th.treg r.a).lab ||| (match r.b with | .tile t => (th.treg t).lab | .slot _ => c.blab) |||
    (if r.mx = true then (th.treg (r.a ^^^ 4)).lab ||| (match r.b with | .tile t => (th.treg (t ^^^ 4)).lab | .slot _ => 0) else 0) |||
    (match c.spar with | some (x, _) => (th.treg x).lab | none => 0) ||| c.ctxl

/-- What a command writes: a sound bank of each kind, whose label is the operands' and, unless the word starts from zero, the bank's
before (14 R336). -/
structure BanksOf (s : State) (core : Nat) (th : Thread) (r : MatrixRow) (c : MxCmd) (l : List (Nat × BankVal)) (v : Nat → BankVal) : Prop where
  banks : l = (nums r.kinds.length).map fun p => (r.bank.toNat + p, v p)
  kind : ∀ p, p < r.kinds.length → (v p).kind.toNat = r.kinds.getD p 0 ∧ (v p).poisoned = false
  lab : ∀ p, p < r.kinds.length → (v p).lab =
    (if r.z = true then 0 else (bankOf (s.core core) (r.bank.toNat + p)).lab) ||| commandLabel th r c

end Sys2Proof.Rules
end

