-- ==== Sys2Proof/Rules/Scalar.lean ====
section
/-! DEFINITION. The results that the spec's tables give the scalar words, in the form that statements use: one row for each
word, written from 04 Tables 4.1, 4.3 and 4.5 and not from the meanings. -/

namespace Sys2Proof.Rules

open Sys2Proof.Machine

/-- Where a word's result goes, its value, and the union of the labels of its sources (04 R91; CTXL comes besides). -/
abbrev ScalarResult : Type := SReg × Word × Label

/-- n of 04 R97: the length of a bit field, at most 64, cut at bit 63. -/
def fieldLen (b : Word) : Nat :=
  let len := min (b.extractLsb' 8 7).toNat 64
  if 64 < (b.extractLsb' 0 6).toNat + len then 64 - (b.extractLsb' 0 6).toNat else len

/-- Bits [pos + n − 1 : pos] of a number. -/
def cut (a pos n : Nat) : Nat := a / 2 ^ pos % 2 ^ n

/-- The words of 04 Table 4.1 whose result is readable by the next word, with bins, those of 04 Table 4.3, mfpw, sel and vext
(06 Table 6.7). -/
def scalar (th : Thread) : Instr → Option ScalarResult
  | .add _ d a b => some (d, th.sv a + th.sv b, th.sl a ||| th.sl b)
  | .sub _ d a b => some (d, th.sv a - th.sv b, th.sl a ||| th.sl b)
  | .mul _ d a b => some (d, th.sv a * th.sv b, th.sl a ||| th.sl b)
  | .and _ d a b => some (d, th.sv a &&& th.sv b, th.sl a ||| th.sl b)
  | .or _ d a b => some (d, th.sv a ||| th.sv b, th.sl a ||| th.sl b)
  | .xor _ d a b => some (d, th.sv a ^^^ th.sv b, th.sl a ||| th.sl b)
  | .andn _ d a b => some (d, th.sv a &&& ~~~(th.sv b), th.sl a ||| th.sl b)
  | .orn _ d a b => some (d, th.sv a ||| ~~~(th.sv b), th.sl a ||| th.sl b)
  | .xnor _ d a b => some (d, ~~~(th.sv a ^^^ th.sv b), th.sl a ||| th.sl b)
  | .sll _ d a b => some (d, BitVec.ofNat 64 ((th.sv a).toNat * 2 ^ ((th.sv b).extractLsb' 0 6).toNat), th.sl a ||| th.sl b)
  | .srl _ d a b => some (d, BitVec.ofNat 64 ((th.sv a).toNat / 2 ^ ((th.sv b).extractLsb' 0 6).toNat), th.sl a ||| th.sl b)
  | .sra _ d a b => some (d, BitVec.ofInt 64 ((th.sv a).toInt / 2 ^ ((th.sv b).extractLsb' 0 6).toNat), th.sl a ||| th.sl b)
  | .rol _ d a b => some (d, (th.sv a).rotateLeft ((th.sv b).extractLsb' 0 6).toNat, th.sl a ||| th.sl b)
  | .ror _ d a b => some (d, (th.sv a).rotateRight ((th.sv b).extractLsb' 0 6).toNat, th.sl a ||| th.sl b)
  | .minI64 _ d a b => some (d, BitVec.ofInt 64 (min (th.sv a).toInt (th.sv b).toInt), th.sl a ||| th.sl b)
  | .maxI64 _ d a b => some (d, BitVec.ofInt 64 (max (th.sv a).toInt (th.sv b).toInt), th.sl a ||| th.sl b)
  | .minN64 _ d a b => some (d, BitVec.ofNat 64 (min (th.sv a).toNat (th.sv b).toNat), th.sl a ||| th.sl b)
  | .maxN64 _ d a b => some (d, BitVec.ofNat 64 (max (th.sv a).toNat (th.sv b).toNat), th.sl a ||| th.sl b)
  | .popc _ d a => some (d, BitVec.ofNat 64 (popcNat (th.sv a).toNat 64), th.sl a)
  | .clz _ d a => some (d, BitVec.ofNat 64 (clzNat (th.sv a).toNat 64), th.sl a)
  | .ctz _ d a => some (d, BitVec.ofNat 64 (ctzNat (th.sv a).toNat 0 64), th.sl a)
  | .bextN _ d a b => some (d, BitVec.ofNat 64 (cut (th.sv a).toNat ((th.sv b).extractLsb' 0 6).toNat (fieldLen (th.sv b))),
      th.sl a ||| th.sl b)
  | .bextI _ d a b =>
    let x := cut (th.sv a).toNat ((th.sv b).extractLsb' 0 6).toNat (fieldLen (th.sv b))
    some (d, if fieldLen (th.sv b) = 0 then 0
      else BitVec.ofInt 64 (if x < 2 ^ (fieldLen (th.sv b) - 1) then (x : Int) else (x : Int) - 2 ^ fieldLen (th.sv b)),
      th.sl a ||| th.sl b)
  | .bins _ d a b =>
    let pos := ((th.sv b).extractLsb' 0 6).toNat
    let n := fieldLen (th.sv b)
    let old := (th.sv d).toNat
    some (d, BitVec.ofNat 64 (old / 2 ^ (pos + n) * 2 ^ (pos + n) + (th.sv a).toNat % 2 ^ n * 2 ^ pos + old % 2 ^ pos),
      th.sl a ||| th.sl b ||| th.sl d)
  | .rev8 _ d a => some (d, BitVec.ofNat 64 (fromBytes (toBytes 8 (th.sv a).toNat).reverse), th.sl a)
  | .sh1add _ d a b => some (d, BitVec.ofNat 64 ((th.sv a).toNat * 2 + (th.sv b).toNat), th.sl a ||| th.sl b)
  | .sh2add _ d a b => some (d, BitVec.ofNat 64 ((th.sv a).toNat * 4 + (th.sv b).toNat), th.sl a ||| th.sl b)
  | .sh3add _ d a b => some (d, BitVec.ofNat 64 ((th.sv a).toNat * 8 + (th.sv b).toNat), th.sl a ||| th.sl b)
  | .sh4add _ d a b => some (d, BitVec.ofNat 64 ((th.sv a).toNat * 16 + (th.sv b).toNat), th.sl a ||| th.sl b)
  | .addi _ d a i => some (d, BitVec.ofInt 64 ((th.sv a).toInt + immS th.chain i), th.sl a)
  | .andi _ d a i => some (d, th.sv a &&& BitVec.ofNat 64 (immZ th.chain i), th.sl a)
  | .ori _ d a i => some (d, th.sv a ||| BitVec.ofNat 64 (immZ th.chain i), th.sl a)
  | .xori _ d a i => some (d, th.sv a ^^^ BitVec.ofNat 64 (immZ th.chain i), th.sl a)
  | .slli _ d a n => some (d, BitVec.ofNat 64 ((th.sv a).toNat * 2 ^ n.toNat), th.sl a)
  | .srli _ d a n => some (d, BitVec.ofNat 64 ((th.sv a).toNat / 2 ^ n.toNat), th.sl a)
  | .srai _ d a n => some (d, BitVec.ofInt 64 ((th.sv a).toInt / 2 ^ n.toNat), th.sl a)
  | .roli _ d a n => some (d, (th.sv a).rotateLeft n.toNat, th.sl a)
  | .rori _ d a n => some (d, (th.sv a).rotateRight n.toNat, th.sl a)
  | .lea _ d i => some (d, BitVec.ofInt 64 (th.pc.toInt + immS th.chain i), 0)
  | .movi _ d i => some (d, BitVec.ofInt 64 (immS th.chain i), 0)
  | .sel _ d a b n c => some (d, if th.pv n c then th.sv a else th.sv b, th.pl c ||| th.sl a ||| th.sl b)
  | .mfpw _ d => some (d, BitVec.ofNat 64 (1 + b2n (th.pv false 1) * 2 + b2n (th.pv false 2) * 4 + b2n (th.pv false 3) * 8 +
      b2n (th.pv false 4) * 16 + b2n (th.pv false 5) * 32 + b2n (th.pv false 6) * 64 + b2n (th.pv false 7) * 128),
      th.pl 1 ||| th.pl 2 ||| th.pl 3 ||| th.pl 4 ||| th.pl 5 ||| th.pl 6 ||| th.pl 7)
  | .vext32 _ v a n => some (a, BitVec.ofNat 64 (cut (th.vreg v).bits.toNat (32 * n.toNat) 32), (th.vreg v).lab)
  | .vext64 _ v a n => some (a, BitVec.ofNat 64 (cut (th.vreg v).bits.toNat (64 * n.toNat) 64), (th.vreg v).lab)
  | _ => none

/-- The words of 04 Table 4.1 of class F2. -/
def scalarLate (th : Thread) : Instr → Option ScalarResult
  | .mulhI64 _ d a b => some (d, BitVec.ofInt 64 ((th.sv a).toInt * (th.sv b).toInt / 2 ^ 64), th.sl a ||| th.sl b)
  | .mulhN64 _ d a b => some (d, BitVec.ofNat 64 ((th.sv a).toNat * (th.sv b).toNat / 2 ^ 64), th.sl a ||| th.sl b)
  | .clmul _ d a b => some (d, BitVec.ofNat 64 (clmulNat (th.sv a).toNat (th.sv b).toNat 64), th.sl a ||| th.sl b)
  | .clmulh _ d a b => some (d, BitVec.ofNat 64 (clmulNat (th.sv a).toNat (th.sv b).toNat 64 / 2 ^ 64), th.sl a ||| th.sl b)
  | _ => none

/-- The quotient and the remainder of 04 R94. -/
def divide (th : Thread) : Instr → Option ScalarResult
  | .divI64 _ d a b => some (d, if th.sv b = 0 then 0xFFFFFFFFFFFFFFFF#64
      else BitVec.ofInt 64 ((th.sv a).toInt.tdiv (th.sv b).toInt), th.sl a ||| th.sl b)
  | .divN64 _ d a b => some (d, if th.sv b = 0 then 0xFFFFFFFFFFFFFFFF#64
      else BitVec.ofNat 64 ((th.sv a).toNat / (th.sv b).toNat), th.sl a ||| th.sl b)
  | .remI64 _ d a b => some (d, if th.sv b = 0 then th.sv a
      else BitVec.ofInt 64 ((th.sv a).toInt - (th.sv a).toInt.tdiv (th.sv b).toInt * (th.sv b).toInt), th.sl a ||| th.sl b)
  | .remN64 _ d a b => some (d, if th.sv b = 0 then th.sv a
      else BitVec.ofNat 64 ((th.sv a).toNat - (th.sv a).toNat / (th.sv b).toNat * (th.sv b).toNat), th.sl a ||| th.sl b)
  | _ => none

/-- The condition of a compare of two integers, and for tst and ntst of two bit strings (04 R101, R102). -/
def holds (c : ICond) (x y : Int) (m n : Nat) : Bool :=
  match c with
  | .eq => x == y
  | .ne => x != y
  | .lt => decide (x < y)
  | .le => decide (x ≤ y)
  | .gt => decide (x > y)
  | .ge => decide (x ≥ y)
  | .tst => m &&& n != 0
  | .ntst => m &&& n == 0

/-- The low `w` bits of a register as an integer of a type (04 R101). -/
def asInt (t : ITy) (x : Word) : Int := intOf (ityS t) (ityW t) (x.toNat % 2 ^ ityW t)

/-- The words of 04 that write a predicate: where, the value, the union of the labels of the sources (04 R101 to R104). -/
def predicate (th : Thread) : Instr → Option (PReg × Bool × Label)
  | .cmp _ p a b c t => some (p, holds c (asInt t (th.sv a)) (asInt t (th.sv b)) ((th.sv a).toNat % 2 ^ ityW t)
      ((th.sv b).toNat % 2 ^ ityW t), th.sl a ||| th.sl b)
  | .cmpi _ c p a i => some (p, holds c (th.sv a).toInt (immS th.chain i) (th.sv a).toNat (BitVec.ofInt 64 (immS th.chain i)).toNat,
      th.sl a)
  | .cmpin _ c p a i => some (p, holds c (th.sv a).toNat (immZ th.chain i) (th.sv a).toNat (immZ th.chain i), th.sl a)
  | .pand _ d m a n b => some (d, th.pv m a && th.pv n b, th.pl a ||| th.pl b)
  | .por _ d m a n b => some (d, th.pv m a || th.pv n b, th.pl a ||| th.pl b)
  | .pxor _ d m a n b => some (d, th.pv m a ^^ th.pv n b, th.pl a ||| th.pl b)
  | .pmov _ d m a => some (d, th.pv m a, th.pl a)
  | _ => none

/-- The thread after mtpw: bits 1 to 7 of the source in p1 to p7 (04 Table 4.5). -/
def predicateWord (th : Thread) (a : SReg) : Thread :=
  let x := th.sv a
  let l := th.sl a ||| th.ctxl
  ((((((th.putP 1 (x.getLsbD 1) l).putP 2 (x.getLsbD 2) l).putP 3 (x.getLsbD 3) l).putP 4 (x.getLsbD 4) l).putP 5
    (x.getLsbD 5) l).putP 6 (x.getLsbD 6) l).putP 7 (x.getLsbD 7) l

/-- The conditional words of 04 R107 and R109: whether they transfer, the label that decides it, and the distance in words. -/
def branch (th : Thread) : Instr → Option (Bool × Label × Int)
  | .br _ p n o => some (th.pv n p, th.pl p, immS th.chain o)
  | .brnz _ r o => some (decide (th.sv r ≠ 0), th.sl r, immS th.chain o)
  | .brz _ r o => some (decide (th.sv r = 0), th.sl r, immS th.chain o)
  | _ => none

end Sys2Proof.Rules
end

