-- ==== Sys2Proof/Certificates/Slice0/Obligations.lean ====
section
/-! DEFINITION. The statements for the provers. -/

open Sys2Proof Sys2Proof.Machine

/-! ### Scalar words -/

/-- 04 R91, R93, R97 to R100, R105 and Tables 4.1, 4.3 and 4.5; 06 Table 6.7: a scalar word of class F1 retires with its table's
value in its destination, labelled by its sources and CTXL, and with nothing else changed.
02 R46 and 04 Table 4.1: the high products and carry-less products retire at once, and their result, labelled by the sources
and CTXL, is due two rotations later; a hard-wired destination takes none. -/
def Obligations.ScalarResults : Prop :=
  (∀ (i : Instr) (s : State) (th : Thread) (d : SReg) (x : Word) (l : Label),
    Issues i s th → Rules.scalar th i = some (d, x, l) →
    exec i s = .next (retired i s (th.putS d x (l ||| th.ctxl)) s)) ∧
  (∀ (i : Instr) (s : State) (th : Thread) (d : SReg) (x : Word) (l : Label),
    Issues i s th → Rules.scalarLate th i = some (d, x, l) →
    exec i s = .next (retired i s (if th.wiredS d then th else th.later i s.rot 2 (.s d) (.s ⟨x, l ||| th.ctxl⟩) 0 0) s))

/-- 04 R94, R95: a divide or remainder parks its thread with the quotient or remainder, labelled by the sources and CTXL and due at
the latest 72 cycles on.
Rests on the model's readings of log 13. -/
def Obligations.DividesPark : Prop :=
  ∀ (i : Instr) (s : State) (th : Thread) (d : SReg) (x : Word) (l : Label),
    Issues i s th → Rules.divide th i = some (d, x, l) →
    ∃ p, p.instr = i ∧ p.cond = .divide s.cycle (s.cycle + 72) d ⟨x, l ||| th.ctxl⟩ ∧ p.entry = false ∧ p.acc = none ∧
      exec i s = .next (parked s th p s)

/-- 04 R101 to R104: the compares and the predicate operations write their predicate, and mtpw writes p1 to p7. -/
def Obligations.PredicateResults : Prop :=
  (∀ (i : Instr) (s : State) (th : Thread) (p : PReg) (x : Bool) (l : Label),
    Issues i s th → Rules.predicate th i = some (p, x, l) →
    exec i s = .next (retired i s (th.putP p x (l ||| th.ctxl)) s)) ∧
  (∀ (st : Stall) (a : SReg) (s : State) (th : Thread),
    Issues (.mtpw st a) s th → exec (.mtpw st a) s = .next (retired (.mtpw st a) s (Rules.predicateWord th a) s))

/-- 04 R107, R109: a conditional branch widens CTXL by the label that decides it, taken or not, and goes to PC + 4 × the
distance when it is taken, else to the next word.
04 R108: a taken call writes PC + 4 to s63 with the widened CTXL and branches; one not taken leaves s63. Where TSTAT.SBC finds an
earlier result still on its way to s63, a taken call takes STALL.SHORT.
04 R110: jr and jalr go to s[RA] and widen CTXL by its label; jalr writes PC + 4 to s[RD]. An address that is not a
multiple of 4, or not below 2^56, takes JUMP.TARGET with the widened CTXL.
The STALL.SHORT clause rests on 02 R47, R49 and Table 2.9; that its count of missing rotations stops at 3 is the model's reading of
log 29. -/
def Obligations.ControlTransfers : Prop :=
  (∀ (i : Instr) (s : State) (th : Thread) (taken : Bool) (l : Label) (off : Int),
    Issues i s th → Rules.branch th i = some (taken, l, off) →
    exec i s = .next (jumped i s { th with ctxl := th.ctxl ||| l }
      (if taken then th.pc + BitVec.ofInt 64 (4 * off) else th.pc + 4))) ∧
  (∀ (st : Stall) (p : PReg) (n : Bool) (o : BitVec 20) (s : State) (th : Thread),
    Issues (.call st p n o) s th →
    ((th.sbc = true → th.pv n p = true →
        (∀ w ∈ th.pend, w.dest = .s 63 → w.due ≤ s.rot) ∧ ∀ x ∈ th.sched, .s 63 ∈ x.dests → x.due ≤ s.rot) →
      exec (.call st p n o) s = .next (
        if th.pv n p then jumped (.call st p n o) s ((th.widen (th.pl p)).putS 63 (th.pc + 4) (th.ctxl ||| th.pl p))
          (th.pc + BitVec.ofInt 64 (4 * immS th.chain o))
        else jumped (.call st p n o) s (th.widen (th.pl p)) (th.pc + 4))) ∧
    (∀ w, th.sbc = true → th.pv n p = true → th.pend = [w] → w.dest = .s 63 → s.rot < w.due →
      exec (.call st p n o) s = .next (trapped s th .stallShort w.pc
        (BitVec.ofNat 64 (63 * 2 ^ 8 + w.stall.toNat * 2 ^ 4 + min (w.due - s.rot) 3)) 0 s)) ∧
    (∀ x, th.sbc = true → th.pv n p = true → th.pend = [] → th.sched = [x] → .s 63 ∈ x.dests → s.rot < x.due →
      exec (.call st p n o) s = .next (trapped s th .stallShort x.pc
        (BitVec.ofNat 64 (63 * 2 ^ 8 + x.stall.toNat * 2 ^ 4 + min (x.due - s.rot) 3)) 0 s))) ∧
  ((∀ (st : Stall) (a : SReg) (s : State) (th : Thread), Issues (.jr st a) s th →
    (th.sv a).toNat % 4 = 0 → (th.sv a).toNat < 2 ^ 56 →
    exec (.jr st a) s = .next (jumped (.jr st a) s (th.widen (th.sl a)) (th.sv a))) ∧
  (∀ (st : Stall) (d a : SReg) (s : State) (th : Thread), Issues (.jalr st d a) s th →
    (th.sv a).toNat % 4 = 0 → (th.sv a).toNat < 2 ^ 56 →
    exec (.jalr st d a) s =
      .next (jumped (.jalr st d a) s ((th.widen (th.sl a)).putS d (th.pc + 4) (th.ctxl ||| th.sl a)) (th.sv a))) ∧
  (∀ (st : Stall) (d a : SReg) (s : State) (th : Thread), ((th.sv a).toNat % 4 ≠ 0 ∨ 2 ^ 56 ≤ (th.sv a).toNat) →
    (Issues (.jr st a) s th → ∃ info : Word, info.getLsbD 0 = decide ((th.sv a).toNat % 4 ≠ 0) ∧
        info.getLsbD 1 = decide (2 ^ 56 ≤ (th.sv a).toNat) ∧ info.toNat < 4 ∧
        exec (.jr st a) s = .next (trapped s (th.widen (th.sl a)) .jumpTarget (th.sv a) info 0 s)) ∧
    (Issues (.jalr st d a) s th → ∃ info : Word, info.getLsbD 0 = decide ((th.sv a).toNat % 4 ≠ 0) ∧
        info.getLsbD 1 = decide (2 ^ 56 ≤ (th.sv a).toNat) ∧ info.toNat < 4 ∧
        exec (.jalr st d a) s = .next (trapped s (th.widen (th.sl a)) .jumpTarget (th.sv a) info 0 s))))

/-- 03 R80: nop, sched and the reserved hints retire and change no architectural state. -/
def Obligations.HintsDoNothing : Prop :=
  ∀ (i : Instr) (s : State) (th : Thread), Issues i s th →
    ((∃ st, i = .nop st) ∨ (∃ st n, i = .schedTrip st n) ∨ (∃ st b, i = .schedBias st b) ∨ (∃ st k p, i = .reservedHint st k p)) →
    exec i s = .next (retired i s th s)

/-- 20 R424, R425: a signature word whose payload is the running signature retires; another is a detected mismatch, which counts
and enters the handler with cause 0x0601, class 3, after the word has retired.
Rests on the model's readings of log 30. -/
def Obligations.SignatureWords : Prop :=
  ∀ (st : Stall) (g : BitVec 16) (s : State) (th : Thread), Issues (.sig st g) s th →
    (th.flint = g → exec (.sig st g) s = .next (retired (.sig st g) s { th with lastBad := none } s)) ∧
    (th.flint ≠ g → th.lastBad ≠ some th.pc →
      exec (.sig st g) s = .next (((s.modPCore (coreOf s.cur) th.part fun p => { p with flintMism := p.flintMism + 1 }).takeTrap
        s.cur ({ th with lastBad := some th.pc }.retire (.sig st g)) 0x0601 3 th.pc
        (BitVec.ofNat 64 (g.toNat * 2 ^ 16 + th.flint.toNat)) 0 (th.pc + 4) (s.rot + 1))))

/-- 03 R81 to R83: the first prefix of a chain, and one more of a kind that the chain does not hold yet, is remembered for the
prefixed word; nothing else of the thread changes but the PC.
02 R38; 03 R87: spar names a tile register, so in a control thread or a migrant it takes UNIT.ABSENT. That the prefix word itself takes it
is the model's reading of log 65. -/
def Obligations.PrefixesJoin : Prop :=
  (∀ (i : Instr) (s : State) (th : Thread) (c c' : Chain), Issues i s th →
    c = th.chain.getD ⟨th.pc, [], none, none, false, none, none⟩ →
    ((∃ l, i = .limm l ∧ c.limm = none ∧ c' = { c with limm := some l, words := c.words ++ [encode i] }) ∨
     (∃ m, i = .rnd m ∧ c.rnd = none ∧ c.sround = false ∧ c' = { c with rnd := some m, words := c.words ++ [encode i] }) ∨
     (i = .sround ∧ c.rnd = none ∧ c.sround = false ∧ c' = { c with sround := true, words := c.words ++ [encode i] }) ∨
     (∃ t p, i = .spar t p ∧ c.spar = none ∧ c' = { c with spar := some (t, p), words := c.words ++ [encode i] }) ∨
     (∃ n, i = .itinOpts n ∧ c.itin = none ∧ c' = { c with itin := some n, words := c.words ++ [encode i] })) →
    exec i s = .next (s.setThread s.cur { th with chain := some c', pc := th.pc + 4, nextRot := s.rot + 1 })) ∧
  (∀ (t : TReg) (q : SpPat) (s : State) (x th : Thread), s.thread? s.cur = some x → x.again = none → (x.settle s.rot).strayed = none →
    th = (x.settle s.rot).landed → (th.kind = .control ∨ th.kind = .migrant) → (∀ c, th.chain = some c → c.spar = none) →
    exec (.spar t q) s = .next (trapped s th .unitAbsent ((encode (.spar t q)).setWidth 64) 0 0 s))

/-! ### Vector words -/

/-- 06 R150, R153 to R155, R159 to R168: a vector word whose operands carry the tags its row asks for, and that raises no enabled
exception, gives each element of its destination the value of its table, its tag and its label, and posts the union of the flags,
at the latency of Table 6.1.
05 R140; 06 R169: a vector word that raises an enabled exception takes FP.EXC instead, with every flag it raised and the mask
of the elements that raised an enabled one; nothing of its effect takes place.
05 R127, R128, R135 to R137: the rounding that both stand on, pinned for FP32: an encoding's value; a normal result rounds to nearest
with ties to even and raises inexact or overflow; a sum of finite values is their exact sum rounded; ∞ − ∞ is the canonical NaN with
invalid; a finite value over zero is infinity with divide-by-zero.
Rests on the model's readings of log 33. -/
def Obligations.VectorResults : Prop :=
  (∀ (i : Instr) (s : State) (th : Thread) (r : Rules.VectorResult),
    Issues i s th → Rules.vector th i = some r → (Rules.tags th i).all (·.2.1) = true → r.calm th →
    ∃ (x : VVal) (fl : Flags), (∀ e, e < 512 / r.w → Rules.element x.bits r.w e = r.after th e) ∧ x.tag = r.tag ∧
      x.lab = r.label th ∧ r.flags th fl ∧
      exec i s = .next (retired i s (if r.lat = 1 then (th.putV r.d x.bits x.tag x.lab).post fl x.lab
        else th.later i s.rot r.lat (.v r.d) (.v x) fl x.lab) s)) ∧
  (∀ (i : Instr) (s : State) (th : Thread) (r : Rules.VectorResult),
    Issues i s th → Rules.vector th i = some r → (Rules.tags th i).all (·.2.1) = true → ¬ r.calm th →
    ∃ (fl : Flags) (m : Word), r.flags th fl ∧ r.raised th m ∧
      exec i s = .next (trapped s th .fpExc (fl.setWidth 64) m 0 s)) ∧
  ((∀ x, x % 2 ^ 31 < 0x7F800000 → x < 2 ^ 32 →
      numOf fp32 x = .fin (Rules.valueFp32 x).1 (Rules.valueFp32 x).2.1 (Rules.valueFp32 x).2.2) ∧
    (∀ (q : Rnd) (idx : Nat) (neg : Bool) (n rem sh : Nat) (e : Int), q.mode = .rne → q.draw idx = none → 2 ^ 23 ≤ n → n < 2 ^ 24 →
      rem < 2 ^ sh → -149 ≤ e → roundNum fp32 q idx false neg (n * 2 ^ sh + rem) (e - sh) false = Rules.nearest neg n rem sh e) ∧
    (∀ (q : Rnd) (idx a b : Nat) (g g' : Bool) (m m' : Nat) (e e' : Int), numOf fp32 a = .fin g m e → numOf fp32 b = .fin g' m' e' →
      m ≠ 0 → m' ≠ 0 → ∃ z w : Int, w ≤ e ∧ w ≤ e' ∧
        z = (if g then -1 else 1) * m * 2 ^ (e - w).toNat + (if g' then -1 else 1) * m' * 2 ^ (e' - w).toNat ∧
        (z ≠ 0 → fAdd fp32 q idx a b = roundNum fp32 q idx false (decide (z < 0)) z.natAbs w false)) ∧
    (∀ (q : Rnd) (idx : Nat), fAdd fp32 q idx 0x7F800000 0xFF800000 = (0x7FC00000, fInvalid) ∧
      ∀ x, 0 < x → x < 0x7F800000 → fDiv fp32 q idx x 0 = (0x7F800000, fDivZero)))

/-- 05 R123; 06 R151: the first operand, in the order of the row, whose tag fails its check is reported by FMT.TAG.
Rests on the model's readings of log 60. -/
def Obligations.TagTraps : Prop :=
  ∀ (i : Instr) (s : State) (th : Thread) (r : VReg) (req : Nat),
    Issues i s th → (Rules.tags th i).find? (fun c => !c.2.1) = some (r, false, req) →
    exec i s = .next (trapped s th .fmtTag ((encode i).setWidth 64)
      (BitVec.ofNat 64 (req * 2 ^ 18 + r.toNat * 2 ^ 8 + (th.vreg r).tag.toNat)) 0 s)

/-- 06 R155, R156: vdiv and vsqrt park their thread with their result, at the latest 48 cycles on, and with the information of
FP.EXC where an enabled exception is to be taken then.
Rests on the model's readings of log 13. -/
def Obligations.VectorDividesPark : Prop :=
  ∀ (i : Instr) (s : State) (th : Thread) (r : Rules.VectorResult),
    Issues i s th → Rules.slowVector th i = some r → (Rules.tags th i).all (·.2.1) = true →
    ∃ (x : VVal) (fl : Flags) (exc : Option (Word × Word)) (p : Park),
      (∀ e, e < 512 / r.w → Rules.element x.bits r.w e = r.after th e) ∧ x.tag = r.tag ∧ x.lab = r.label th ∧ r.flags th fl ∧
      (r.calm th → exc = none) ∧ (¬ r.calm th → ∃ m, r.raised th m ∧ exc = some (fl.setWidth 64, m)) ∧
      p.instr = i ∧ p.cond = .vdivide s.cycle (s.cycle + 48) r.d x fl exc ∧ p.entry = false ∧ p.acc = none ∧
      exec i s = .next (parked s th p s)

/-- 06 R162: the mask operations write every bit of their destination.
06 R157, R158: a vector compare writes a mask bit where its lane mask enables it, when the condition holds for every element
the bit governs; it posts its flags, or takes FP.EXC for an enabled one. A write of k0 is discarded.
Rests on the model's choice of log 73, that a bit which is not enabled and governs no element (bits 8 to 15, for elements of 64 bits) keeps
its value, and on that of log 32 for the labels of masks. -/
def Obligations.MaskWords : Prop :=
  (∀ (i : Instr) (s : State) (th : Thread) (d : KReg) (x : BitVec 16) (l : Label),
    Issues i s th → Rules.mask th i = some (d, x, l) →
    exec i s = .next (retired i s (th.putK d x (l ||| th.ctxl)) s)) ∧
  (∀ (i : Instr) (s : State) (th : Thread) (r : Rules.CompareResult),
    Issues i s th → Rules.compare th i = some r → (Rules.tags th i).all (·.2.1) = true →
    (r.calm th → ∃ (x : BitVec 16) (fl : Flags), (∀ n, n < 16 → (x.getLsbD n = true ↔ r.after th n)) ∧ r.flags th fl ∧
      exec i s = .next (retired i s (if r.lat = 1 then th.putK r.d x (r.label th)
        else th.later i s.rot r.lat (if r.d = 0 then .none else .k r.d) (.k ⟨x, r.label th⟩) fl (r.label th)) s)) ∧
    (¬ r.calm th → ∃ (fl : Flags) (m : Word), r.flags th fl ∧ r.raised th m ∧
      exec i s = .next (trapped s th .fpExc (fl.setWidth 64) m 0 s)))

/-! ### Memory words -/

/-- 13 R297 to R312, 15 R379, 18 R395, R399: a memory word whose access stays in the issuing core's own local store, and that
nothing makes wait, completes when it issues: its register takes its row's value and label, the place its row's bytes.
12 R288: an lda or stl above the cap takes SCOPE.CAP, or, where SCOPE.CTL.DEM is 1, does the same at the cap and sets DMTD.
Rests on the model's readings of log 19, 22 and 23. -/
def Obligations.LocalAccesses : Prop :=
  (∀ (i : Instr) (s t : State) (th : Thread) (r : Rules.AccessRule) (p : Place),
    Issues i s th → Rules.access th i = some r → Local s th r.q r.va p t → Rules.Completes s th r p t →
    exec i s = .next (retired i s (r.thread (Rules.touched s th r p t) p.pa (t.blockLabel p.pa)) (Rules.accessed s th r p t))) ∧
  (∀ (i : Instr) (s u t : State) (th : Thread) (r r' : Rules.AccessRule) (p : Place) (c c' : Scope),
    Issues i s th → Rules.access th i = some r → r.scope = some c → (s.pp th.part).scopeCap.toNat < scopeCode c →
    ((s.pp th.part).scopeDem = false → exec i s = .next (trapped s th .scopeCap ((encode i).setWidth 64)
      (BitVec.ofNat 64 ((s.pp th.part).scopeCap.toNat * 8 + scopeCode c)) 0 s)) ∧
    (Rules.runsAt s th c c' u → r' = { r with scope := none, release := r.release.map fun _ => c' } → Local u th r.q r.va p t →
      Rules.Completes u th r' p t →
      exec i s = .next (retired i s (r.thread (Rules.touched u th r p t) p.pa (t.blockLabel p.pa)) (Rules.accessed u th r p t))))

/-- 15 R377 to R379: byte barriers, join and poll, at a place of the issuing core's own local store that they accept.
12 R281, R283, R296; 08 R206, R211: a word whose place is not of the issuing core's own local store sends one request to its home and
parks until the home has answered, a wait form with the limit and information that it expires with. A migrant ships instead to another
core that is the home. While a posted store or a scheduled access of the thread to the home is open, nothing is sent. In timed mode a word
that is no wait form goes on, with its registers due RLAT/8 rotations later.
12 R282, R283, R296; 13 R304: a posted store to another home takes a free journal entry, sends its bytes, and the thread goes on; with none
free it parks until one retires, and a scheduled access to the home holds it back.
Rests on the model's readings of log 22 and 81. -/
def Obligations.PlacedAccesses : Prop :=
  (∀ (i : Instr) (s u t : State) (th : Thread) (r : Rules.AccessRule) (p : Place),
    Issues i s th → Rules.placed th i = some r → s.check (whoIs s.cur th) r.q r.va = (u, .ok p) → Local u th r.q r.va p t →
    Rules.Completes u th r p t → (r.q.size = 1 → r.va.toNat % 64 = 0) →
    exec i s = .next (retired i s (r.thread (Rules.touched u th r p t) p.pa (t.blockLabel p.pa)) (Rules.accessed u th r p t))) ∧
  (∀ (i : Instr) (s u t v : State) (th : Thread) (r : Rules.AccessRule) (p : Place) (a : Rules.Ask), Issues i s th →
    Rules.outward th i = some r → Rules.asks th (if s.away p.leaf = true then none else s.redFmt th.part p.pa p.leaf.sc) i = some a →
    (Rules.placed th i = none → u = s) →
    (∀ x, Rules.placed th i = some x → ∃ q, s.check (whoIs s.cur th) r.q r.va = (u, .ok q) ∧
      (r.q.size = 1 → r.va.toNat % 64 = 0 ∧ spaceOf q.pa = 1) ∧ (r.q.size = 8 → q.leaf.rp = none → u.isPlain th.part q = true)) →
    Rules.Leaves u th r p t → v = Rules.touched s th r p t →
    (∀ c, Rules.ships s th p c → ∃ k, k.instr = i ∧ k.cond = .ship c p.va p.pa ∧ k.entry = false ∧ k.acc = none ∧
      exec i s = .next (parked s th k t)) ∧
    ((∀ c, ¬ Rules.ships s th p c) → t.homeBusy s.cur th [p.home] = true →
      ∃ k, k.instr = i ∧ k.entry = false ∧ k.acc = none ∧ exec i s = .next (parked s th k t) ∧
        ((∃ j ∈ t.openEntries s.cur th, j.home = p.home) → k.cond = .homesClosed [p.home]) ∧
        ((∀ j ∈ t.openEntries s.cur th, j.home ≠ p.home) → k.cond = .held [p.home])) ∧
    ((∀ c, ¬ Rules.ships s th p c) → t.homeBusy s.cur th [p.home] = false → (a.wait.isSome = true ∨ v.isTimed s.cur th = false) →
      ∃ (m : Msg) (k : Park) (w : Access), Rules.Asked s th r p a (.thread s.cur th.gen) m ∧ k.instr = i ∧ k.cond = .access ∧
        k.acc = some w ∧ w.outstanding = 1 ∧ w.got = [] ∧ w.refused = none ∧ w.homes = [p.home] ∧ w.cont = a.cont ∧
        k.entry = a.wait.isSome ∧ (∀ e i0 i1 b, a.wait = some (e, i0, i1, b) → k.lim = e ∧ k.i0 = i0 ∧ k.i1 = i1 ∧
          k.at_ = (if b = true then some (p.home, planeOf a.req, p.pa) else none)) ∧
        exec i s = .next (parked s th k (v.request m))) ∧
    (∀ (n : Nat) (g : TGroup), (∀ c, ¬ Rules.ships s th p c) → t.homeBusy s.cur th [p.home] = false → a.wait = none →
      v.isTimed s.cur th = true → th.timed = some n → nget s.tgroups n = some g →
      (∀ d ∈ Rules.answerDest a.cont, (∀ w ∈ th.pend, w.dest ≠ d) ∧ ∀ y ∈ th.sched, d ∉ y.dests) →
      ∃ (m : Msg) (x : Sched), Rules.Asked s th r p a (.sched s.cur th.gen x.id) m ∧ x.due = s.rot + g.rlat / 8 ∧
        x.dests = (Rules.answerDest a.cont).filter (fun d => decide (d ≠ .s 0) && !(decide (th.kind = .migrant) && decide (d = .s 63))) ∧
        x.acc.outstanding = 1 ∧ x.acc.refused = none ∧ x.acc.homes = [p.home] ∧ x.acc.cont = a.cont ∧ x.pc = th.pc ∧
        x.tpc = (match th.chain with | some c => c.first | none => th.pc) ∧
        exec i s = .next (retired i s { th with sched := th.sched ++ [x] } (v.request m).tick1))) ∧
  (∀ (st : Stall) (d a : SReg) (w : Wid) (o : BitVec 9) (s t v : State) (th : Thread) (r : Rules.AccessRule) (p : Place),
    Issues (.pst st d a w o) s th → r = Rules.store th d a w (th.sv a + BitVec.ofInt 64 (immS th.chain o)) → Rules.Leaves s th r p t →
    v = Rules.touched s th r p t →
    ((∃ y ∈ th.sched, y.acc.outstanding ≠ 0 ∧ p.home ∈ y.acc.homes) →
      ∃ k, k.instr = .pst st d a w o ∧ k.cond = .held [p.home] ∧ k.entry = false ∧ k.acc = none ∧
        exec (.pst st d a w o) s = .next (parked s th k t)) ∧
    ((∀ y ∈ th.sched, y.acc.outstanding ≠ 0 → p.home ∉ y.acc.homes) →
      (∀ n ∈ Rules.entries t th, ∃ j ∈ (t.core (coreOf s.cur)).journal, j.num = n) →
      ∃ k, k.instr = .pst st d a w o ∧ k.cond = .journalFree ∧ k.entry = false ∧ k.acc = none ∧
        exec (.pst st d a w o) s = .next (parked s th k t)) ∧
    ((∀ y ∈ th.sched, y.acc.outstanding ≠ 0 → p.home ∉ y.acc.homes) →
      (∃ n ∈ Rules.entries t th, ∀ j ∈ (t.core (coreOf s.cur)).journal, j.num ≠ n) →
      ∃ (n : Nat) (m : Msg), n ∈ Rules.entries t th ∧ (∀ j ∈ (t.core (coreOf s.cur)).journal, j.num ≠ n) ∧
        Rules.Asked s th r p { req := .write ((toBytes (Rules.storeSize w) (th.sv d).toNat).map some), lab := Rules.storeLabel th d a, cont := .ack }
          (.journal (coreOf s.cur) s.serial) m ∧
        exec (.pst st d a w o) s = .next (retired (.pst st d a w o) s th ((v.request m).modCore (coreOf s.cur) fun c => { c with
          journal := c.journal ++ [⟨n, s.serial, s.cur, th.gen, p.home, p.pa, r.va, w, Rules.storeLabel th d a, m.req, p.leaf.rp.isSome,
            false⟩] }).tick1)))

/-- 13 R313; 06 R150: vld gives each element that its mask enables the element of the line, keeps the others, and sets the tag;
its result is due two rotations later.
13 R314; 22 R440, R441: vst writes the bytes of the elements that its mask enables and no others; a line in a reduction
window is added to the line that stands there.
Rests on the model's readings of log 22. -/
def Obligations.LineAccesses : Prop :=
  (∀ (st : Stall) (d : VReg) (a : SReg) (g : Tag) (k : KReg) (o : BitVec 4) (s t : State) (th : Thread) (p : Place),
    Issues (.vld st d a g k o) s th → Local s th (Rules.lineWant 0 k) (Rules.lineAddr th a o) p t → t.isPoisoned p.pa 64 = false →
    ∃ x : VVal, (∀ e, e < 512 / (tagWidth g).getD 32 → Rules.element x.bits ((tagWidth g).getD 32) e =
        Rules.element (if (th.kreg k).val.getLsbD (Rules.governor ((tagWidth g).getD 32) e) then BitVec.ofNat 512 (t.num p.pa 64)
          else (th.vreg d).bits) ((tagWidth g).getD 32) e) ∧
      x.tag = g ∧ x.lab = th.sl a ||| t.blockLabel p.pa ||| th.ctxl ||| (if k = 0 then 0 else (th.kreg k).lab ||| (th.vreg d).lab) ∧
      exec (.vld st d a g k o) s = .next (retired (.vld st d a g k o) s (th.later (.vld st d a g k o) s.rot 2 (.v d) (.v x) 0 0) t)) ∧
  (∀ (st : Stall) (d : VReg) (a : SReg) (k : KReg) (o : BitVec 4) (s t : State) (th : Thread) (p : Place),
    Issues (.vst st d a k o) s th → Local s th (Rules.lineWant 1 k) (Rules.lineAddr th a o) p t →
    (t.redFmt th.part p.pa p.leaf.sc = none → Rules.Completes s th (Rules.lineStore th d a k o) p t →
      exec (.vst st d a k o) s = .next (retired (.vst st d a k o) s th (Rules.accessed s th (Rules.lineStore th d a k o) p t))) ∧
    (∀ f, t.redFmt th.part p.pa p.leaf.sc = some f → Rules.Completes s th (Rules.lineReduce th d a o f) p t →
      k = 0 ∧ exec (.vst st d a k o) s = .next (retired (.vst st d a k o) s
        ((Rules.lineReduce th d a o f).thread (Rules.touched s th (Rules.lineReduce th d a o f) p t) p.pa (t.blockLabel p.pa))
        (Rules.accessed s th (Rules.lineReduce th d a o f) p t))))

/-- 14 R323: tld of a shaped tile whose registers are multiples of its element size gives byte n of the tile the byte at its
address, and keeps the bytes beyond the shape.
14 R323; 18 R395: tst writes every byte that the tile's shape covers at its address, piece after piece: the label of a block widens
where the store rule has it widen, and stays where it takes in the stored label already.
Rests on the model's readings of log 22 and 50. -/
def Obligations.TileAccesses : Prop :=
  (∀ (st : Stall) (d : TReg) (a b : SReg) (s t : State) (th : Thread) (ps : List Place), Issues (.tld st d a b) s th →
    tsRows (th.tsreg d) ≠ 0 → tsCols (th.tsreg d) ≠ 0 → Rules.tileLen (th.tsreg d) ≤ 2048 →
    (th.sv a).toNat % Rules.tileElem (th.tsreg d) = 0 → (th.sv b).toNat % Rules.tileElem (th.tsreg d) = 0 →
    Rules.TileHere s th { kind := 0, size := 64, slotRead := true } (Rules.tileWhole (th.tsreg d) (th.sv a) (th.sv b)) ps t →
    ∃ x : TVal,
      (∀ y ∈ (Rules.tileWhole (th.tsreg d) (th.sv a) (th.sv b)).zip ps, ∀ j, j < y.1.2.2 →
        x.bits.toNat / 2 ^ (8 * (y.1.2.1 + j)) % 256 = t.num (y.2.pa + j) 1) ∧
      x.bits.toNat / 2 ^ (8 * Rules.tileLen (th.tsreg d)) = (th.treg d).bits.toNat / 2 ^ (8 * Rules.tileLen (th.tsreg d)) ∧
      (∀ n, x.lab.getLsbD n = true ↔ (th.sl a ||| th.sl b ||| th.ctxl).getLsbD n = true ∨ ∃ p ∈ ps, (t.blockLabel p.pa).getLsbD n = true) ∧
      exec (.tld st d a b) s = .next (retired (.tld st d a b) s (th.putT d x.bits x.lab) t)) ∧
  (∀ (st : Stall) (d : TReg) (a b : SReg) (s t : State) (th : Thread) (ps : List Place), Issues (.tst st d a b) s th →
    tsRows (th.tsreg d) ≠ 0 → tsCols (th.tsreg d) ≠ 0 →
    (th.sv a).toNat % Rules.tileElem (th.tsreg d) = 0 → (th.sv b).toNat % Rules.tileElem (th.tsreg d) = 0 →
    Rules.TileHere s th { kind := 1, size := 64 } (Rules.tileWhole (th.tsreg d) (th.sv a) (th.sv b)) ps t →
    (∀ p ∈ ps, p.leaf.mx = true ∨
      ((th.treg d).lab ||| th.sl a ||| th.sl b ||| th.ctxl) &&& ~~~(t.blockLabel p.pa) = 0) →
    exec (.tst st d a b) s = .next (retired (.tst st d a b) s th
      (((Rules.tileWhole (th.tsreg d) (th.sv a) (th.sv b)).zip ps).foldl
        (Rules.tilePut ((th.treg d).lab ||| th.sl a ||| th.sl b ||| th.ctxl) (th.treg d).bits)
        (ps.foldl (fun u p => u.setDirty (whoIs s.cur th) p) t))))

/-- 14 R322: tzero, tmov, tshape and tgshape. A shape that R40 refuses takes CR.VALUE after CTXL has widened.
02 R39: tgshape of an unshaped register takes FMT.SHAPE, with the register and what its shape register holds.
Rests on the model's readings of log 20 and 50. -/
def Obligations.TileRegisters : Prop :=
  (∀ (st : Stall) (d : TReg) (s : State) (th : Thread), Issues (.tzero st d) s th →
    exec (.tzero st d) s = .next (retired (.tzero st d) s (th.putT d 0 th.ctxl) s)) ∧
  (∀ (st : Stall) (d a : TReg) (s : State) (th : Thread), Issues (.tmov st d a) s th →
    exec (.tmov st d a) s = .next (retired (.tmov st d a) s (if d = a then th else
      th.later (.tmov st d a) s.rot 2 (.t d) (.t ⟨(th.treg a).bits, (th.treg a).lab ||| th.ctxl⟩ (th.tsreg a)) 0 0) s)) ∧
  (∀ (st : Stall) (d : TReg) (a : SReg) (s : State) (th : Thread) (x : BitVec 32), Issues (.tshape st d a) s th →
    x = (th.sv a).setWidth 32 →
    (tsRows x ≤ 64 ∧ tsCols x ≤ 64 ∧ tagAssigned (tsFmt x) = true ∧ Rules.tileLen x ≤ 2048 →
      exec (.tshape st d a) s = .next (retired (.tshape st d a) s ((th.widen (th.sl a)).putShape d (x &&& 0x003F3FFF#32)) s)) ∧
    (64 < tsRows x ∨ 64 < tsCols x ∨ tagAssigned (tsFmt x) = false ∨ 2048 < Rules.tileLen x →
      exec (.tshape st d a) s = .next (trapped s (th.widen (th.sl a)) .crValue (BitVec.ofNat 64 (0x10 + d.toNat)) (x.setWidth 64) 0 s))) ∧
  (∀ (st : Stall) (d : TReg) (a : SReg) (s : State) (th : Thread), Issues (.tgshape st d a) s th →
    (tsRows (th.tsreg d) ≠ 0 → tsCols (th.tsreg d) ≠ 0 →
      exec (.tgshape st d a) s = .next (retired (.tgshape st d a) s (th.putS a ((th.tsreg d).setWidth 64) th.ctxl) s)) ∧
    (tsRows (th.tsreg d) = 0 ∨ tsCols (th.tsreg d) = 0 →
      exec (.tgshape st d a) s = .next (trapped s th .fmtShape ((encode (.tgshape st d a)).setWidth 64)
        (BitVec.ofNat 64 (d.toNat * 2 ^ 32 + (th.tsreg d).toNat)) 0 s)))

/-- 09 R230 to R232: a put whose queue has room writes s[x] as element TAIL and advances TAIL; a take from a queue that holds an
element answers element HEAD and advances HEAD. Both wait for nothing then, and widen CTXL by the descriptor's label. A put to a full
queue and a take from an empty one park with their limit, and wait at the queue home.
12 R288: above the cap both take SCOPE.CAP, or, where SCOPE.CTL.DEM is 1, do the same at the cap and set DMTD.
20 R426: a put over a whole word of a local store clears its poison; elsewhere, and for a take, the element must be sound.
Rests on the model's readings of log 25. -/
def Obligations.QueueWords : Prop :=
  (∀ (i : Instr) (st : Stall) (x y : SReg) (e : BitVec 6) (c : Scope) (s : State) (th : Thread), Issues i s th →
    (i = .qput st x y e c ∨ i = .qget st x y e c) → (s.pp th.part).scopeCap.toNat < scopeCode c → (s.pp th.part).scopeDem = false →
    exec i s = .next (trapped s th .scopeCap ((encode i).setWidth 64)
      (BitVec.ofNat 64 ((s.pp th.part).scopeCap.toNat * 8 + scopeCode c)) 0 s)) ∧
  (∀ (i : Instr) (st : Stall) (x y : SReg) (e : BitVec 6) (c c' : Scope) (s v t w : State) (th : Thread) (p : Place) (r : Rules.AccessRule)
    (a : Rules.Ask), Issues i s th → (i = .qput st x y e c ∨ i = .qget st x y e c) → Rules.runsAt s th c c' v →
    v.entryFree s.cur th.part = true → (th.sv y).toNat % 64 = 0 → (th.sv y).toNat < 2 ^ 56 → Local v th Rules.ringWant (th.sv y) p t →
    t.isPoisoned p.pa 64 = false → w = t.setDirty (whoIs s.cur th) p → Rules.RingGood w p.pa →
    (i = .qput st x y e c → s.openIn s.cur th c' = false ∧ (c' = .sys → th.hostDirty = []) ∧
      2 ^ w.num (p.pa + 8) 1 ≤ Rules.ringCount w p.pa) →
    (i = .qget st x y e c → Rules.ringCount w p.pa = 0) → Rules.outward th i = some r → Rules.asks th none i = some a →
    ∃ (m : Msg) (k : Park) (z : Access), Rules.Asked s th r p a (.thread s.cur th.gen) m ∧ k.instr = i ∧ k.cond = .access ∧ k.lim = e ∧
      k.entry = true ∧ k.acc = some z ∧ z.outstanding = 1 ∧ z.got = [] ∧ z.refused = none ∧ z.cont = a.cont ∧
      exec i s = .next (parked s th k { w with waiters := [m] })) ∧
  ∀ (st : Stall) (x y : SReg) (e : BitVec 6) (c c' : Scope) (s v t u : State) (th : Thread) (p q : Place),
    Rules.runsAt s th c c' v → v.entryFree s.cur th.part = true →
    (th.sv y).toNat % 64 = 0 → (th.sv y).toNat < 2 ^ 56 → Local v th Rules.ringWant (th.sv y) p t → t.isPoisoned p.pa 64 = false →
    Rules.RingGood (t.setDirty (whoIs s.cur th) p) p.pa → q.egress = false → q.leaf.rp = none →
    (Issues (.qput st x y e c) s th → s.openIn s.cur th c' = false → (c' = .sys → th.hostDirty = []) →
      Rules.ringCount (t.setDirty (whoIs s.cur th) p) p.pa < 2 ^ (t.setDirty (whoIs s.cur th) p).num (p.pa + 8) 1 →
      (t.setDirty (whoIs s.cur th) p).check (Rules.ringWho s th) { kind := 1, size := 8 }
        (Rules.ringElem (t.setDirty (whoIs s.cur th) p) p.pa ((t.setDirty (whoIs s.cur th) p).num (p.pa + 0x18) 4)) = (u, .ok q) →
      Rules.storeLabel th x y &&& ~~~(u.labelAt q.pa q.leaf.lab) = 0 → (u.isPoisoned q.pa 8 = true → spaceOf q.pa = 1) →
      exec (.qput st x y e c) s = .next (retired (.qput st x y e c) s (th.widen (t.blockLabel p.pa))
        ((Rules.put (u.setDirty (Rules.ringWho s th) q) q.pa 8 (th.sv x) (decide (spaceOf q.pa = 1))).putNum (p.pa + 0x18) 4
          (((t.setDirty (whoIs s.cur th) p).num (p.pa + 0x18) 4 + 1) % 2 ^ 32)))) ∧
    (Issues (.qget st x y e c) s th → 0 < Rules.ringCount (t.setDirty (whoIs s.cur th) p) p.pa →
      (t.setDirty (whoIs s.cur th) p).check (Rules.ringWho s th) { kind := 0, size := 8 }
        (Rules.ringElem (t.setDirty (whoIs s.cur th) p) p.pa ((t.setDirty (whoIs s.cur th) p).num (p.pa + 0x10) 4)) = (u, .ok q) →
      u.isPoisoned q.pa 8 = false →
      exec (.qget st x y e c) s = .next (retired (.qget st x y e c) s
        ((th.widen (t.blockLabel p.pa)).putS x (BitVec.ofNat 64 (u.num q.pa 8))
          (th.sl y ||| t.blockLabel p.pa ||| u.labelAt q.pa q.leaf.lab ||| (th.ctxl ||| t.blockLabel p.pa)))
        (u.putNum (p.pa + 0x10) 4 (((t.setDirty (whoIs s.cur th) p).num (p.pa + 0x10) 4 + 1) % 2 ^ 32))))

/-! ### Control registers -/

/-- 04 R114, R117: mfcr gives the value of its register, with CTXL and the register's own label; FPC and CTXL are read when nothing
issued before is still to post. CORE.XY and QUAD.ID hold the place of the core's logical number on its die (08 R186).
Rests on the model's readings of log 27 and 50. -/
def Obligations.RegisterReads : Prop :=
  ∀ (st : Stall) (x : SReg) (c : BitVec 12) (s : State) (th : Thread), Issues (.mfcr st x c) s th → c ≠ 0x463 →
    (c = 1 ∨ c = 2 → th.pend = [] ∧ s.cmds s.cur = []) →
    (∃ v, exec (.mfcr st x c) s = .next (retired (.mfcr st x c) s (th.putS x v (Rules.regLabel s th c ||| th.ctxl)) s)) ∧
    (∀ v, (c, v) ∈ Rules.threadRegs s th ∨ (c, v) ∈ Rules.sharedRegs s th ∨ (c, v) ∈ Rules.arrayRegs s th →
      exec (.mfcr st x c) s = .next (retired (.mfcr st x c) s (th.putS x v (Rules.regLabel s th c ||| th.ctxl)) s)) ∧
    (∀ i j v : Nat, i < 32 → j < 32 → (vget (s.die (dieOf (coreOf s.cur))).hmap j).getLsbD i = true →
      Rules.logicalAt s (dieOf (coreOf s.cur)) i j = coreOf s.cur % 1024 →
      (c = 0x105 ∧ v = j * 256 + i) ∨ (c = 0x106 ∧ v = j / 2 * 16 + i / 2) →
      exec (.mfcr st x c) s = .next (retired (.mfcr st x c) s (th.putS x (BitVec.ofNat 64 v) (Rules.regLabel s th c ||| th.ctxl)) s))

/-- 04 R115, R116 and Table 4.7: mtcr, mtcrs and mtcrc widen CTXL by the label of s[x] and then write the fields that their
register lets them write; FPC and TSn refuse a value that R42 or R40 excludes with CR.VALUE.
20 R428 and Table 20.3: mtcr of CSW.CTL by a control thread of the secure world sets DRAIN and asks for the switch or for the resume,
as the moves of a request and of a resume do; with both bits the write is ignored, and other writes of it change nothing.
Rests on the model's reading of log 27. -/
def Obligations.RegisterWrites : Prop :=
  ∀ (i : Instr) (f : CrFn) (x : SReg) (c : BitVec 12) (s : State) (th w : Thread), Issues i s th → Rules.crWord i = some (f, x, c) →
    w = { th with ctxl := th.ctxl ||| th.sl x } → (c = 1 ∨ c = 2 → th.pend = [] ∧ s.cmds s.cur = []) →
    (∀ u, (c, u) ∈ Rules.threadWrite f w (th.sv x) → exec i s = .next (retired i s u s)) ∧
    (c = 0x001 → (Rules.written f th.fpc (th.sv x)).toNat % 8 < 5 →
      exec i s = .next (retired i s { w with fpc := Rules.fpcWritten f th.fpc (th.sv x) } s)) ∧
    (c = 0x001 → 5 ≤ (Rules.written f th.fpc (th.sv x)).toNat % 8 →
      exec i s = .next (trapped s w .crValue 1 (Rules.written f th.fpc (th.sv x)) 0 s)) ∧
    (∀ n : TReg, c.toNat = 0x010 + n.toNat →
      shapeOk ((Rules.written f ((th.tsreg n).setWidth 64) (th.sv x)).setWidth 32) = true →
      exec i s = .next (retired i s
        (w.putShape n ((Rules.written f ((th.tsreg n).setWidth 64) (th.sv x)).setWidth 32 &&& 0x003F3FFF#32)) s)) ∧
    (∀ n : TReg, c.toNat = 0x010 + n.toNat →
      shapeOk ((Rules.written f ((th.tsreg n).setWidth 64) (th.sv x)).setWidth 32) = false →
      exec i s = .next (trapped s w .crValue (c.setWidth 64) (Rules.written f ((th.tsreg n).setWidth 64) (th.sv x)) 0 s)) ∧
    (c = 0x405 → exec i s = .next (retired i s w (s.modPCore (coreOf s.cur) th.part fun p =>
      { p with dmtd := p.dmtd && !(decide (f ≠ .set) && (th.sv x).getLsbD 16) }))) ∧
    (c = 0x422 → exec i s = .next (retired i s w (s.modPCore (coreOf s.cur) th.part fun p =>
      { p with spillOvf := p.spillOvf && !(decide (f ≠ .set) && (th.sv x).getLsbD 32) }))) ∧
    (c = 0x421 → exec i s = .next (retired i s w (if th.kind = .control ∧ th.world = true ∧ f = .write then
      s.modPCore (coreOf s.cur) th.part fun p => { p with spillBase := keepBits (th.sv x) 51 12 ||| keepBits (th.sv x) 4 0 } else s))) ∧
    (c = 0x468 → exec i s = .next (retired i s w (if f = .clear then s else
      s.intRequest (coreOf s.cur) th.part w.ctxl ((th.sv x).setWidth 8)))) ∧
    (c = 0x420 → th.kind = .control → th.world = true → f = .write →
      ((th.sv x).getLsbD 2 = true → (th.sv x).getLsbD 3 = true → exec i s = .next (retired i s w s)) ∧
      (∀ u, u = (s.modPCore (coreOf s.cur) th.part fun p => { p with drain := (th.sv x).extractLsb' 16 32 }) →
        ((th.sv x).getLsbD 2 = false → (th.sv x).getLsbD 3 = false → exec i s = .next (retired i s w u)) ∧
        ((th.sv x).getLsbD 2 = true → (th.sv x).getLsbD 3 = false →
          ∃ t, exec (.cswCtlReq (coreOf s.cur) th.part) u = .next t ∧ exec i s = .next (retired i s w t)) ∧
        ((th.sv x).getLsbD 2 = false → (th.sv x).getLsbD 3 = true →
          ∃ t, exec (.cswCtlRes (coreOf s.cur) th.part) u = .next t ∧ exec i s = .next (retired i s w t)))) ∧
    (c = 0x420 → ¬(th.kind = .control ∧ th.world = true ∧ f = .write) → exec i s = .next (retired i s w s)) ∧
    (0x100 ≤ c.toNat → c ≠ 0x405 → c ≠ 0x420 → c ≠ 0x421 → c ≠ 0x422 → c ≠ 0x463 → c ≠ 0x468 → exec i s = .next (retired i s w s))

/-- 08 R199: a control-register move of DEP.VAL parks its thread, and its dispatcher is asked with the register number in DEP.SEL. -/
def Obligations.DependenceAccesses : Prop :=
  ∀ (i : Instr) (x : SReg) (op : DepOp) (s : State) (th : Thread), Issues i s th →
    ((∃ st, i = .mfcr st x 0x463 ∧ op = .read) ∨ (∃ st, i = .mtcr st x 0x463 ∧ op = .write) ∨ (∃ st, i = .mtcrs st x 0x463 ∧ op = .set) ∨
      (∃ st, i = .mtcrc st x 0x463 ∧ op = .clear)) →
    ∃ (w : Thread) (m : Msg) (p : Park), w = { th with ctxl := if op = .read then th.ctxl else th.ctxl ||| th.sl x } ∧
      m.req = .dep op th.depSel.toNat (if op = .read then 0 else th.sv x) ∧ m.dst = .disp (dieOf (coreOf s.cur)) ∧
      m.owner = .thread s.cur th.gen ∧ m.part = th.part ∧ m.lv = w.ctxl ∧ p.instr = i ∧ p.cond = .access ∧
      p.acc = some ⟨1, [], none, [.disp (dieOf (coreOf s.cur))], [], [(.disp (dieOf (coreOf s.cur)), m.pa, false)],
        .dep (if op = .read then some x else none) (if op = .read then th.ctxl else 0)⟩ ∧
      exec i s = .next (parked s w p (s.request m))

/-- 12 R284 to R288; 13 R315: a fence that finds no store of its scope's cover open retires and changes nothing; one that finds such
a store parks until it has been performed. Above the cap it takes SCOPE.CAP, or runs at the cap where SCOPE.CTL.DEM is 1.
Rests on the model's readings of log 27. -/
def Obligations.Fences : Prop :=
  ∀ (st : Stall) (c : Scope) (s : State) (th : Thread), Issues (.fence st c) s th →
    (scopeCode c ≤ (s.pp th.part).scopeCap.toNat →
      (s.openIn s.cur th c = false → (c = .sys → th.hostDirty = []) →
        exec (.fence st c) s = .next (retired (.fence st c) s th s)) ∧
      (s.openIn s.cur th c = true → ∃ p, p.instr = .fence st c ∧ p.cond = .scopeClosed c ∧ p.entry = false ∧ p.acc = none ∧
        exec (.fence st c) s = .next (parked s th p s))) ∧
    ((s.pp th.part).scopeCap.toNat < scopeCode c → (s.pp th.part).scopeDem = false →
      exec (.fence st c) s = .next (trapped s th .scopeCap ((encode (.fence st c)).setWidth 64)
        (BitVec.ofNat 64 ((s.pp th.part).scopeCap.toNat * 8 + scopeCode c)) 0 s)) ∧
    ((s.pp th.part).scopeCap.toNat < scopeCode c → (s.pp th.part).scopeDem = true →
      s.openIn s.cur th (scopeOf (s.pp th.part).scopeCap.toNat) = false → scopeOf (s.pp th.part).scopeCap.toNat ≠ .sys →
      exec (.fence st c) s = .next (retired (.fence st c) s th
        (s.modPCore (coreOf s.cur) th.part fun p => { p with dmtd := true })))

/-! ### Threads -/

/-- 09 R218: spawn in a control thread whose writes have all been performed widens CTXL by its operands, gives its status, and at
status 0 starts a compute thread in the slot at its entry. In any other thread it takes THR.CTX, reason 1.
09 R220; 08 R200, R223: exit ends a thread that is no control thread, holds no bank, and has no store open and no result due: its slot
is empty, and memory and every other thread are as before. A thread with results due parks until they are written. A control thread takes
THR.CTX, a thread that holds banks ACC.HELD.
Rests on the model's readings of log 31 and 36. -/
def Obligations.ThreadsStartAndEnd : Prop :=
  (∀ (st : Stall) (x y : SReg) (s : State) (th w : Thread) (k : Nat), Issues (.spawn st x y) s th →
    w = th.widen (th.sl x ||| th.sl y ||| th.sl (y + 1)) → k = (th.sv x).toNat % 8 →
    (th.kind ≠ .control → exec (.spawn st x y) s = .next (trapped s th .thrCtx ((encode (.spawn st x y)).setWidth 64) 1 0 s)) ∧
    (th.kind = .control → s.openIn s.cur th .sys = false → th.hostDirty = [] →
      exec (.spawn st x y) s = .next (retired (.spawn st x y) s (w.putS x (Rules.spawnCode s th k (th.sv y)) w.ctxl)
        ((if Rules.spawnCode s th k (th.sv y) = 0 then
          (s.setThread (tidOf (coreOf s.cur) k) (Rules.started s .compute th (th.sv y) (th.sv (y + 1)) w.ctxl)).tick1
        else s).modPCore (coreOf s.cur) th.part fun p => { p with icache := [] })))) ∧
  (∀ (st : Stall) (s : State) (th : Thread), Issues (.exit st) s th →
    (th.kind = .control → exec (.exit st) s = .next (trapped s th .thrCtx ((encode (.exit st)).setWidth 64) 2 0 s)) ∧
    (th.kind ≠ .control → th.abown ≠ 0 → exec (.exit st) s = .next (trapped s th .accHeld th.abown 0 0 s)) ∧
    (th.kind ≠ .control → th.abown = 0 → th.pend ≠ [] → ∃ p n, p.instr = .exit st ∧ p.cond = .posted n 0 ∧ (∃ w ∈ th.pend, w.due = n) ∧
      (∀ w ∈ th.pend, w.due ≤ n) ∧ p.entry = false ∧ p.acc = none ∧ exec (.exit st) s = .next (parked s th p s)) ∧
    (th.kind ≠ .control → th.abown = 0 → th.pend = [] → s.openIn s.cur th .sys = false → th.sched = [] →
      ∃ t, exec (.exit st) s = .next t ∧ t.thread? s.cur = none ∧ (∀ k, k ≠ s.cur → t.thread? k = s.thread? k) ∧ t.mem = s.mem ∧
        t.blab = s.blab ∧ t.full = s.full ∧ t.ppkg = s.ppkg ∧ t.dies = s.dies))

/-- 09 R221: launch at a misaligned or non-canonical address gives status 2; at another it reads the 64 bytes of its descriptor, and parks
until it goes on with them: at once from the issuing core's own local store, else when their home has answered. While a store of the
placement's cover is open, it parks until there is none. One whose descriptor has been read, with no store of the placement's cover open, widens CTXL by the labels of its address and of the descriptor, and gives status 1 when the dispatcher's
queue is full, else status 0 and a launch in the queue.
Rests on the model's readings of log 41. -/
def Obligations.Launches : Prop :=
  ∀ (st : Stall) (x y : SReg) (s : State) (th : Thread),
    (Issues (.launch st x y) s th → ((th.sv y).toNat % 64 ≠ 0 ∨ 2 ^ 56 ≤ (th.sv y).toNat) →
      exec (.launch st x y) s = .next (retired (.launch st x y) s ((th.widen (th.sl y)).putS x 2 (th.ctxl ||| th.sl y)) s)) ∧
    (∀ (t : State) (p : Place), Issues (.launch st x y) s th → (th.sv y).toNat % 64 = 0 → (th.sv y).toNat < 2 ^ 56 →
      Local s th { kind := 0, size := 64 } (th.sv y) p t → t.isPoisoned p.pa 64 = false →
      ∃ k, k.instr = .launch st x y ∧ k.cond = .time s.cycle ∧ k.phase = 1 ∧ k.data = t.bytes p.pa 64 ∧ k.lab = t.blockLabel p.pa ∧
        k.entry = false ∧ k.acc = none ∧ exec (.launch st x y) s = .next (parked s th k t)) ∧
    (∀ (t : State) (p : Place) (r : Rules.AccessRule), Issues (.launch st x y) s th → (th.sv y).toNat % 64 = 0 →
      (th.sv y).toNat < 2 ^ 56 → r = { q := { kind := 0, size := 64 }, va := th.sv y, thread := fun _ _ _ => th } →
      Rules.Leaves s th r p t → (∀ c, ¬ Rules.ships s th p c) → t.homeBusy s.cur th [p.home] = false →
      ∃ (m : Msg) (k : Park) (w : Access), Rules.Asked s th r p { req := .read 64, cont := .resume 1 } (.thread s.cur th.gen) m ∧
        k.instr = .launch st x y ∧ k.cond = .access ∧ k.data = [] ∧ k.lab = t.labelAt p.pa p.leaf.lab ∧ k.entry = false ∧
        k.acc = some w ∧ w.outstanding = 1 ∧ w.got = [] ∧ w.refused = none ∧ w.cont = .resume 1 ∧
        exec (.launch st x y) s = .next (parked s th k (t.request m))) ∧
    (∀ a : Again, GoesOn (.launch st x y) s th a → a.phase = 1 → s.openIn s.cur th (descOf a.data).cover = true →
      ∃ k, k.instr = .launch st x y ∧ k.cond = .scopeClosed (descOf a.data).cover ∧ k.phase = 1 ∧ k.data = a.data ∧ k.lab = a.lab ∧
        k.entry = false ∧ k.acc = none ∧ exec (.launch st x y) s = .next (parked s th k s)) ∧
    (∀ a : Again, GoesOn (.launch st x y) s th a → a.phase = 1 → s.openIn s.cur th (descOf a.data).cover = false →
      exec (.launch st x y) s = .next (resumedTo (.launch st x y) s
        ((th.widen (th.sl y ||| a.lab)).putS x (if Config.queueEntries ≤ s.queueUse (dieOf (coreOf s.cur)) th.part then 1 else 0)
          (th.ctxl ||| (th.sl y ||| a.lab)))
        (if Config.queueEntries ≤ s.queueUse (dieOf (coreOf s.cur)) th.part then s else
          s.enqueueLaunch (dieOf (coreOf s.cur)) th.part (th.ctxl ||| (th.sl y ||| a.lab)) (descOf a.data))))

/-- 09 R222: migr, with no store of the package open, gives its status, and at status 0 creates a migrant with the predicates and
s1 to s24 of its creator, which joins the core's arrival queue and its creator's launch. Which status stands first where several hold
is the model's choice of log 70.
Rests on the model's readings of log 31 and 70. -/
def Obligations.Migrations : Prop :=
  ∀ (st : Stall) (x y : SReg) (s : State) (th m : Thread), Issues (.migr st x y) s th → s.openIn s.cur th .pkg = false →
    m = { Thread.fresh s.serial .migrant th.part (th.sv y) (th.ctxl ||| th.sl y) th.world (s.rot + 1) with
      p := th.p, s := Vector.ofFn fun i => if 1 ≤ i.val ∧ i.val ≤ 24 then th.s.get i else ⟨0, 0⟩, grpId := th.grpId
      grpN := th.grpN, strId := th.strId, strN := th.strN, arg := th.arg, slotsM := th.slotsM, launch := th.launch } →
    (∀ r : Nat, ((s.pdie (dieOf (coreOf s.cur)) th.part).migh = false ∧ r = 1 ∨
        (s.pdie (dieOf (coreOf s.cur)) th.part).migh = true ∧ Config.maxMigrants ≤ s.migrantCount th.part ∧ r = 2 ∨
        (s.pdie (dieOf (coreOf s.cur)) th.part).migh = true ∧ s.migrantCount th.part < Config.maxMigrants ∧
          ((th.sv y).toNat % 4 ≠ 0 ∨ 2 ^ 56 ≤ (th.sv y).toNat) ∧ r = 3) →
      exec (.migr st x y) s = .next (retired (.migr st x y) s (th.putS x (BitVec.ofNat 64 r) (th.sl y ||| th.ctxl))
        (s.modPCore (coreOf s.cur) th.part fun p => { p with icache := [] }))) ∧
    ((s.pdie (dieOf (coreOf s.cur)) th.part).migh = true → s.migrantCount th.part < Config.maxMigrants →
      (th.sv y).toNat % 4 = 0 → (th.sv y).toNat < 2 ^ 56 →
      exec (.migr st x y) s = .next (retired (.migr st x y) s (th.putS x 0 (th.sl y ||| th.ctxl))
        ((((s.landMigrant (coreOf s.cur) m (coreOf s.cur) (th.sv y) 0).tick1).addMigrant th.launch).modPCore (coreOf s.cur) th.part fun p =>
          { p with icache := [] })))

/-- 09 R235, R236, R238: waitq retires once its clock has reached s[x], takes WAIT.EXPIRED at once where its limit comes first, and
parks otherwise; tgclk reads the group's clock and lag; tgstart parks its thread in the group's start, and retires after it.
Rests on the model's readings of log 7. -/
def Obligations.ClockWords : Prop :=
  (∀ (st : Stall) (x : SReg) (e : BitVec 6) (s : State) (th : Thread) (n : Nat), Issues (.waitq st x e) s th →
    n = (if (s.groupOf th).isSome then s.vcc (coreOf s.cur) th else s.quartz.toNat) →
    ((th.sv x).toNat ≤ n → exec (.waitq st x e) s = .next (retired (.waitq st x e) s th s)) ∧
    (n < (th.sv x).toNat → e.toNat < 63 → n + 2 ^ e.toNat < (th.sv x).toNat →
      exec (.waitq st x e) s = .next (trapped s th .waitExpired (BitVec.ofNat 64 (n % 2 ^ 48 * 2 ^ 16 + 4)) (th.sv x) 0 s)) ∧
    (n < (th.sv x).toNat → (e.toNat = 63 ∨ (th.sv x).toNat ≤ n + 2 ^ e.toNat) →
      ∃ p, p.instr = .waitq st x e ∧ p.cond = .clock (s.groupOf th).isSome (th.sv x).toNat ∧ p.acc = none ∧
        exec (.waitq st x e) s = .next (parked s th p s))) ∧
  (∀ (st : Stall) (x : SReg) (e : BitVec 6) (s : State) (th : Thread) (a : Again), GoesOn (.waitq st x e) s th a →
    exec (.waitq st x e) s = .next (resumedTo (.waitq st x e) s th s)) ∧
  (∀ (st : Stall) (x : SReg) (s : State) (th : Thread), Issues (.tgclk st x) s th → th.kind = .migrant →
    exec (.tgclk st x) s = .next (trapped s th .thrCtx ((encode (.tgclk st x)).setWidth 64) 4 0 s)) ∧
  (∀ (st : Stall) (x : SReg) (s : State) (th : Thread), Issues (.tgclk st x) s th → th.timed = none → th.kind ≠ .migrant →
    exec (.tgclk st x) s = .next (retired (.tgclk st x) s (th.putS x 0 th.ctxl) s)) ∧
  (∀ (st : Stall) (x : SReg) (s : State) (th : Thread), Issues (.tgclk st x) s th → th.kind ≠ .migrant →
    exec (.tgclk st x) s = .next (retired (.tgclk st x) s (th.putS x (BitVec.ofNat 64 (s.vcc (coreOf s.cur) th % 2 ^ 48 +
      min (s.lag (coreOf s.cur) th).toInt.toNat 65535 * 2 ^ 48)) th.ctxl) s)) ∧
  (∀ (st : Stall) (y : SReg) (s : State) (th : Thread), th.kind ≠ .migrant → tgBad (th.sv y) = false →
    (Issues (.tgstart st y) s th → ∃ p, p.instr = .tgstart st y ∧ p.cond = .tgstart (s.timedOf s.cur th).1 ∧ p.acc = none ∧
      exec (.tgstart st y) s = .next (parked s { th with timed := some (s.timedOf s.cur th).1 } p
        ({ s with tgroups := (nset s.tgroups (s.timedOf s.cur th).1
          ((s.timedOf s.cur th).2.arrive s.cur (th.sv y) s.cycle s.quartz.toNat)) }.tick1))) ∧
    (∀ a, GoesOn (.tgstart st y) s th a → exec (.tgstart st y) s = .next (resumedTo (.tgstart st y) s th s)))

/-! ### Barriers -/

/-- 09 R227, R228: a barrier word of a thread that is no member at its scope, as no migrant is, takes THR.CTX, reason 3; bara arrives
and sets its PEND bit, or takes BAR.ORDER when the bit is set; barw retires, clearing its bit, when the phase it arrived at has completed
and its wake-up has come, parks until then otherwise, and takes BAR.ORDER without an arrival; bar arrives when its bit is clear, and
parks, or waits out the phase that it has arrived at, and its bit clears when the wait is over.
12 R288: a barrier word of a member whose scope is above the cap takes SCOPE.CAP and is never demoted.
That a word that is no member's takes THR.CTX before SCOPE.CAP is the model's reading of log 27; that a wait ends with its notice, of
log 74. -/
def Obligations.BarrierWords : Prop :=
  (∀ (i : Instr) (st : Stall) (e : BitVec 6) (c : Scope) (s : State) (th : Thread), Issues i s th →
    (i = .bara st c ∨ i = .barw st e c ∨ i = .bar st e c) → (th.kind = .migrant ∨ s.barKey? s.cur th c = none) →
    exec i s = .next (trapped s th .thrCtx ((encode i).setWidth 64) 3 0 s)) ∧
  (∀ (i : Instr) (st : Stall) (e : BitVec 6) (c : Scope) (s : State) (th : Thread) (k : BarKey), Issues i s th →
    (i = .bara st c ∨ i = .barw st e c ∨ i = .bar st e c) → s.barKey? s.cur th c = some k →
    (s.pp th.part).scopeCap.toNat < scopeCode c →
    exec i s = .next (trapped s th .scopeCap ((encode i).setWidth 64)
      (BitVec.ofNat 64 ((s.pp th.part).scopeCap.toNat * 8 + scopeCode c)) 0 s)) ∧
  (∀ (i : Instr) (st : Stall) (e : BitVec 6) (c : Scope) (s : State) (th : Thread) (k : BarKey) (a : Again), GoesOn i s th a →
    (i = .barw st e c ∨ i = .bar st e c) → Rules.Arrives s th c k → th.barPend &&& Rules.barBit c ≠ 0 → s.hasArrived k s.cur = false →
    s.wakeOpen k (coreOf s.cur) = false →
    exec i s = .next (resumedTo i s { th with barPend := th.barPend &&& ~~~Rules.barBit c } s)) ∧
  ∀ (st : Stall) (e : BitVec 6) (c : Scope) (s : State) (th : Thread) (k : BarKey), Rules.Arrives s th c k →
    s.entryFree s.cur th.part = true →
    (Issues (.bara st c) s th → th.barPend &&& Rules.barBit c = 0 →
      exec (.bara st c) s = .next (retired (.bara st c) s { th with barPend := th.barPend ||| Rules.barBit c } (s.arriveAt k s.cur))) ∧
    (Issues (.bara st c) s th → th.barPend &&& Rules.barBit c ≠ 0 →
      exec (.bara st c) s = .next (trapped s th .barOrder ((encode (.bara st c)).setWidth 64) (BitVec.ofNat 64 (scopeCode c)) 0 s)) ∧
    (Issues (.barw st e c) s th → th.barPend &&& Rules.barBit c ≠ 0 → s.hasArrived k s.cur = false →
      s.wakeOpen k (coreOf s.cur) = false →
      exec (.barw st e c) s = .next (retired (.barw st e c) s { th with barPend := th.barPend &&& ~~~Rules.barBit c } s)) ∧
    (Issues (.barw st e c) s th → th.barPend &&& Rules.barBit c = 0 →
      exec (.barw st e c) s = .next (trapped s th .barOrder ((encode (.barw st e c)).setWidth 64) (BitVec.ofNat 64 (scopeCode c)) 0 s)) ∧
    (Issues (.barw st e c) s th → th.barPend &&& Rules.barBit c ≠ 0 →
      s.hasArrived k s.cur = true ∨ s.wakeOpen k (coreOf s.cur) = true →
      ∃ p, p.instr = .barw st e c ∧ p.cond = .barrier k ∧ p.lim = e ∧ p.entry = true ∧ exec (.barw st e c) s = .next (parked s th p s)) ∧
    (Issues (.bar st e c) s th → th.barPend &&& Rules.barBit c = 0 →
      ∃ p, p.instr = .bar st e c ∧ p.cond = .barrier k ∧ p.lim = e ∧ p.entry = true ∧ exec (.bar st e c) s =
        .next (parked s { th with barPend := th.barPend ||| Rules.barBit c } p (s.arriveAt k s.cur))) ∧
    (Issues (.bar st e c) s th → th.barPend &&& Rules.barBit c ≠ 0 →
      s.hasArrived k s.cur = true ∨ s.wakeOpen k (coreOf s.cur) = true →
      ∃ p, p.instr = .bar st e c ∧ p.cond = .barrier k ∧ p.lim = e ∧ p.entry = true ∧ exec (.bar st e c) s = .next (parked s th p s)) ∧
    (Issues (.bar st e c) s th → th.barPend &&& Rules.barBit c ≠ 0 → s.hasArrived k s.cur = false →
      s.wakeOpen k (coreOf s.cur) = false →
      exec (.bar st e c) s = .next (retired (.bar st e c) s { th with barPend := th.barPend &&& ~~~Rules.barBit c } s))

/-! ### Traps and returns -/

/-- 20 R410: a trap waits until the results and commands of its thread are over; then, with TSTAT.TE = 1, it saves CTXL, class and
cause in TCAUSE, the PC of the word in TEPC (of the first prefix of a chain, 03 R85), its information and the flint state, clears TE,
widens CTXL by the label of the location named, and goes to TRAP.VEC; with TE = 0 a precise trap kills the thread with reason 5. No
other register of the thread changes but for results then due.
That the entry waits for the thread's scheduled accesses too is the model's reading of log 57, and that TEPC and the information are
fixed when the trap is raised that of log 26. -/
def Obligations.TrapEntries : Prop :=
  (∀ (s t : State) (th : Thread) (c : Cause) (i0 i1 : Word) (lab : Label), (t.cmds s.cur ≠ [] ∨ th.sched ≠ []) →
    ∃ p, p.cond = .trapEntry (causeCode c) 0 i0 i1 lab (match th.chain with | some x => x.first | none => th.pc) ∧ p.entry = false ∧
      p.acc = none ∧ trapped s th c i0 i1 lab t = parked s th p t) ∧
  ∀ (s t : State) (th : Thread) (c : Cause) (i0 i1 : Word) (lab : Label), t.cmds s.cur = [] → th.sched = [] →
    (th.te = true → ∃ u, (trapped s th c i0 i1 lab t).thread? s.cur = some u ∧
      u.tcause = th.flush.ctxl ++ 0#8 ++ 0#8 ++ 0#16 ++ causeCode c ∧
      u.tepc = (match th.chain with | some x => x.first | none => th.pc) ∧ u.tinfo0 = i0 ∧ u.tinfo1 = i1 ∧ u.tsig = th.flint ∧
      u.flint = 0xFFFF ∧ u.te = false ∧ u.ctxl = th.flush.ctxl ||| lab ∧ u.pc = (t.pp th.part).trapVec ∧ u.park = none ∧
      u.s = th.flush.s ∧ u.p = th.flush.p ∧ u.v = th.flush.v ∧ u.k = th.flush.k ∧ u.t = th.flush.t ∧ u.ts = th.flush.ts ∧
      u.fpc = th.flush.fpc ∧ u.tsave = th.tsave ∧ u.abown = th.abown ∧ u.pendSet = th.pendSet) ∧
    (th.te = true → ∀ k, k ≠ s.cur → (trapped s th c i0 i1 lab t).thread? k = t.thread? k) ∧
    (th.te = true → (trapped s th c i0 i1 lab t).mem = t.mem ∧ (trapped s th c i0 i1 lab t).blab = t.blab ∧
      (trapped s th c i0 i1 lab t).cores = t.cores) ∧
    (th.te = false → trapped s th c i0 i1 lab t = (t.setThread s.cur th.flush).kill s.cur 5)

/-- 20 R414, R415, R421: rten sets TE; tret to a good TEPC joins TCAUSE's label to CTXL, restores the flint state and TE, and goes to
TEPC, else takes JUMP.TARGET; swtrap takes SW.TRAP with s[y] and its label.
That tret leaves one level of the model's own nesting depth, `handling`, is the model's choice of log 39. -/
def Obligations.TrapWords : Prop :=
  (∀ (st : Stall) (s : State) (th : Thread), Issues (.rten st) s th →
    exec (.rten st) s = .next (retired (.rten st) s { th with te := true } s)) ∧
  (∀ (st : Stall) (s : State) (th : Thread), Issues (.tret st) s th → th.tepc.toNat % 4 = 0 → th.tepc.toNat < 2 ^ 56 →
    exec (.tret st) s = .next (s.setThread s.cur { th with
      ctxl := th.ctxl ||| th.tcause.extractLsb' 48 16, flint := th.tsig, te := true, pc := th.tepc
      handling := th.handling.bind fun n => if n ≤ 1 then none else some (n - 1)
      chain := none, park := none, again := none, retry := none, nextRot := s.rot + 1 + st.toNat })) ∧
  (∀ (st : Stall) (s : State) (th : Thread), Issues (.tret st) s th → (th.tepc.toNat % 4 ≠ 0 ∨ 2 ^ 56 ≤ th.tepc.toNat) →
    exec (.tret st) s = .next (trapped s th .jumpTarget th.tepc
      (BitVec.ofNat 64 (b2n (decide (2 ^ 56 ≤ th.tepc.toNat)) * 2 + b2n (decide (th.tepc.toNat % 4 ≠ 0)))) 0 s)) ∧
  (∀ (st : Stall) (y : SReg) (s : State) (th : Thread), Issues (.swtrap st y) s th →
    exec (.swtrap st y) s = .next (trapped s th .swTrap (th.sv y) 0 (th.sl y) s))

/-- 20 R416 to R419: hsave in a handler writes the trap record, and no byte outside it, clears the poison there, widens its blocks'
labels by CTXL and the trap's (18 R394), and leaves TE; with TE = 1 it takes PRIV.OP, outside the save area MEM.RESV. hrest reads the
record into the trap registers, clears TE, widens CTXL by its blocks' labels, and is no word of the flint state (R424).
20 R417, R420, Table 20.4; 21 R436: csave in a handler, once its stores and matrix commands are over, writes every field of the context
record and the images of the banks that its thread holds, and no byte outside it; a thread that handles a PREEMPT leaves its slot then.
crest of a record of its own kind, with every bank named free for its thread, restores every field of Table 20.4 and the banks.
With TE = 1 both take PRIV.OP, and crest THR.CTX, reason 5, for a record of another kind, which it takes with TE = 0 as well; a record that
does not lie in the save area takes MEM.RESV, and a bank named that is not free for the thread ACC.BANK.
Rests on the model's readings of log 39, 44, 64 and 79. -/
def Obligations.SaveRecords : Prop :=
  (∀ (st : Stall) (y : SReg) (s : State) (th : Thread),
    (Issues (.hsave st y) s th → th.te = false → Rules.savesAt s th y 64 →
      ∃ t, exec (.hsave st y) s = .next (retired (.hsave st y) s th t) ∧
        (∀ f ∈ Rules.trapFields th, t.num (Rules.savePa s th y + f.1) f.2.1 = f.2.2) ∧ Rules.Recorded s t th (Rules.savePa s th y) 64) ∧
    (Issues (.hsave st y) s th → th.te = true →
      exec (.hsave st y) s = .next (trapped s th .privOp ((encode (.hsave st y)).setWidth 64) 0 0 s)) ∧
    (Issues (.hsave st y) s th → th.te = false → ¬ Rules.savesAt s th y 64 →
      exec (.hsave st y) s = .next (trapped s th .memResv (BitVec.ofNat 64 ((th.sv y).toNat % 2 ^ 19)) 0 0 s)) ∧
    (Issues (.hrest st y) s th → Rules.savesAt s th y 64 → s.isPoisoned (Rules.savePa s th y) 64 = false →
      exec (.hrest st y) s = .next (s.setThread s.cur { th with
        tepc := BitVec.ofNat 64 (s.num (Rules.savePa s th y) 8)
        tcause := BitVec.ofNat 64 (s.num (Rules.savePa s th y + 8) 8) &&& 0xFFFF00FF0000FFFF
        tinfo0 := BitVec.ofNat 64 (s.num (Rules.savePa s th y + 16) 8)
        tinfo1 := BitVec.ofNat 64 (s.num (Rules.savePa s th y + 24) 8)
        tsave := BitVec.ofNat 64 (s.num (Rules.savePa s th y + 32) 8)
        tsig := BitVec.ofNat 16 (s.num (Rules.savePa s th y + 40) 2)
        te := false, ctxl := th.ctxl ||| s.blockLabel (Rules.savePa s th y)
        pc := th.pc + 4, chain := none, park := none, again := none, retry := none, nextRot := s.rot + 1 + st.toNat }))) ∧
  (∀ (st : Stall) (y : SReg) (s : State) (th : Thread) (pa : Nat), th.te = false → s.cmds s.cur = [] → pa = Rules.savePa s th y →
    (Issues (.csave st y) s th → Rules.savesAt s th y (Rules.recordBytes th (Rules.heldList th).length) → s.openIn s.cur th .sys = false →
      th.sched = [] → th.pendSet.length ≤ 64 → (∀ b ∈ Rules.heldList th, (bankOf (s.core (coreOf s.cur)) b).poisoned = false) →
      ∃ t, (∀ f ∈ Rules.contextRecord s th.flush, t.num (pa + f.1) f.2.1 = f.2.2) ∧
        Rules.Recorded s t th.flush pa (Rules.recordBytes th (Rules.heldList th).length) ∧
        exec (.csave st y) s = .next (if th.handling.isSome then t.vacate s.cur th.flush else retired (.csave st y) s th.flush t)) ∧
    (∀ (o n : Nat) (names : List Nat) (lab : Label), Issues (.crest st y) s th → o = pa + Rules.contextSize th - 1880 →
      n = Rules.banksAt s th pa → names = Rules.namesAt s th pa → names.Nodup →
      (∀ b ∈ names, b ∈ bankPool (s.pdie (dieOf (coreOf s.cur)) th.part) ∧
        (s.heldBanks (coreOf s.cur) &&& ~~~th.abown).getLsbD b = false) →
      Rules.savesAt s th y (Rules.recordBytes th n) → s.isPoisoned pa (Rules.recordBytes th n) = false →
      s.num (o + 0x46) 1 = Rules.kindByte th →
      (∀ b, lab.getLsbD b = true ↔ ∃ a, pa ≤ a ∧ a < pa + Rules.recordBytes th n ∧ (s.blockLabel a).getLsbD b = true) →
      ∃ t u, exec (.crest st y) s = .next t ∧ t.thread? s.cur = some u ∧ t.mem = s.mem ∧ Rules.Restored s th u pa o lab ∧
        u.nextRot = s.rot + 1 + st.toNat ∧ (∀ b, u.abown.getLsbD b = true ↔ b ∈ names) ∧
        (∀ x ∈ (Rules.directory s th pa n).zip (nums n), bankOf (t.core (coreOf s.cur)) (x.1.toNat % 64) =
          if (x.1.extractLsb' 8 4).toNat ∈ [1, 2, 3, 4, 8, 9, 10, 11, 12, 13] then
            ⟨BitVec.ofNat 16384 (s.num (pa + Rules.imagesAt th n + 2048 * x.2) 2048), x.1.extractLsb' 8 4,
              x.1.extractLsb' 16 16 ||| lab, false⟩
          else ⟨0, 0, x.1.extractLsb' 16 16 ||| lab, false⟩) ∧
        (∀ b, b ∉ names → bankOf (t.core (coreOf s.cur)) b =
          if th.abown.getLsbD b then BankVal.zero else bankOf (s.core (coreOf s.cur)) b))) ∧
  (∀ (st : Stall) (y : SReg) (s : State) (th : Thread), Issues (.csave st y) s th →
    (th.te = true → exec (.csave st y) s = .next (trapped s th .privOp ((encode (.csave st y)).setWidth 64) 0 0 s)) ∧
    (th.te = false → ¬ Rules.savesAt s th y (Rules.recordBytes th (Rules.heldList th).length) →
      exec (.csave st y) s = .next (trapped s th .memResv (BitVec.ofNat 64 ((th.sv y).toNat % 2 ^ 19)) 0 0 s))) ∧
  (∀ (st : Stall) (y : SReg) (s : State) (th : Thread) (pa o kind n : Nat) (names : List Nat), Issues (.crest st y) s th →
    pa = Rules.savePa s th y → o = pa + Rules.contextSize th - 1880 →
    kind = Rules.kindByte th → n = Rules.banksAt s th pa → names = Rules.namesAt s th pa →
    (th.te = true → ((Rules.savesAt s th y (Rules.contextSize th) → s.num (o + 0x46) 1 = kind) →
        exec (.crest st y) s = .next (trapped s th .privOp ((encode (.crest st y)).setWidth 64) 0 0 s)) ∧
      (Rules.savesAt s th y (Rules.contextSize th) → s.num (o + 0x46) 1 ≠ kind →
        exec (.crest st y) s = .next (trapped s th .thrCtx ((encode (.crest st y)).setWidth 64) 5 0 s))) ∧
    (th.te = false → ¬ Rules.savesAt s th y (Rules.contextSize th) →
      exec (.crest st y) s = .next (trapped s th .memResv (BitVec.ofNat 64 ((th.sv y).toNat % 2 ^ 19)) 0 0 s)) ∧
    (th.te = false → Rules.savesAt s th y (Rules.contextSize th) → s.cmds s.cur = [] → s.isPoisoned pa (Rules.contextSize th) = false →
      (s.num (o + 0x46) 1 ≠ kind → exec (.crest st y) s = .next (trapped s th .thrCtx ((encode (.crest st y)).setWidth 64) 5 0 s)) ∧
      (s.num (o + 0x46) 1 = kind → ¬ Rules.savesAt s th y (Rules.recordBytes th n) →
        exec (.crest st y) s = .next (trapped s th .memResv (BitVec.ofNat 64 ((th.sv y).toNat % 2 ^ 19)) 0 0 s)) ∧
      (s.num (o + 0x46) 1 = kind → Rules.savesAt s th y (Rules.recordBytes th n) → s.isPoisoned pa (Rules.recordBytes th n) = false →
        (∃ b ∈ names, b ∉ bankPool (s.pdie (dieOf (coreOf s.cur)) th.part) ∨
          (s.heldBanks (coreOf s.cur) &&& ~~~th.abown).getLsbD b = true) →
        ∃ m : Word, (∀ b, m.getLsbD b = true ↔ b ∈ names ∧ (b ∉ bankPool (s.pdie (dieOf (coreOf s.cur)) th.part) ∨
            (s.heldBanks (coreOf s.cur) &&& ~~~th.abown).getLsbD b = true)) ∧
          exec (.crest st y) s = .next (trapped s th .accBank ((encode (.crest st y)).setWidth 64) m 0 s))))

/-! ### The page pool -/

/-- 13 R316 to R318: pcommit and pfree of a page that the page tables map writable, at a leaf of the pool's page size, and palloc, ask
the die's pool unit for their operation on the leaf's entry, and park until it answers.
Rests on the model's readings of log 54. -/
def Obligations.PoolWords : Prop :=
  (∀ (i : Instr) (y : SReg) (op : PoolOp) (s t : State) (th : Thread) (l : Leaf) (z : Nat), Issues i s th →
    ((∃ st, i = .pcommit st y ∧ op = .commit) ∨ (∃ st, i = .pfree st y ∧ op = .free 0)) →
    s.translate (whoIs s.cur th) (th.sv y) 1 = (t, .ok l) → l.level ≠ 7 → l.w = true → (l.world = true → th.world = true) →
    poolSize (t.pdie (dieOf (coreOf s.cur)) th.part) = some z → leafSize l.level (t.num l.entry 16) = z →
    ∃ (m : Msg) (p : Park), m.req = .pool op (th.sv y) (decide (z = 65536)) ∧ m.dst = .pool (dieOf (coreOf s.cur)) ∧ m.pa = l.entry ∧
      m.lv = th.sl y ||| th.ctxl ∧ m.owner = .thread s.cur th.gen ∧ m.part = th.part ∧ p.instr = i ∧ p.cond = .access ∧
      p.acc = some ⟨1, [], none, [.pool (dieOf (coreOf s.cur))], [], [(.pool (dieOf (coreOf s.cur)), m.pa, false)],
        .pool none (th.sv y) 0⟩ ∧
      exec i s = .next (parked s th p (t.request m))) ∧
  (∀ (st : Stall) (x y : SReg) (s : State) (th : Thread), Issues (.palloc st x y) s th →
    ∃ (m : Msg) (p : Park), m.req = .pool (.alloc ((th.sv y).toNat % 2 ^ 32)) 0 false ∧ m.dst = .pool (dieOf (coreOf s.cur)) ∧
      m.lv = th.sl y ||| th.ctxl ∧ m.owner = .thread s.cur th.gen ∧ m.part = th.part ∧ p.instr = .palloc st x y ∧
      p.cond = .access ∧ p.acc = some ⟨1, [], none, [.pool (dieOf (coreOf s.cur))], [],
        [(.pool (dieOf (coreOf s.cur)), m.pa, false)], .pool (some x) 0 (th.sl y ||| th.ctxl)⟩ ∧
      exec (.palloc st x y) s = .next (parked s th p (s.request m)))

/-! ### Labels and the release gate -/

/-- 18 R399, R400: the label reads give the label, with the tag of a vector or tile register above it, under that label and CTXL;
lrdg reports the mapping of its address; ljoin widens CTXL by s[a] and by its label. -/
def Obligations.LabelWords : Prop :=
  (∀ (i : Instr) (d : SReg) (l : Label) (g : Tag) (s : State) (th : Thread), Issues i s th →
    ((∃ st a, i = .lrd st d a ∧ l = th.sl a ∧ g = 0) ∨ (∃ st a, i = .lrdp st d a ∧ l = th.pl a ∧ g = 0) ∨
      (∃ st a, i = .lrdv st d a ∧ l = (th.vreg a).lab ∧ g = (th.vreg a).tag) ∨ (∃ st a, i = .lrdk st d a ∧ l = (th.kreg a).lab ∧ g = 0) ∨
      (∃ st a, i = .lrdt st d a ∧ l = (th.treg a).lab ∧ g = tsFmt (th.tsreg a))) →
    exec i s = .next (retired i s (th.putS d (BitVec.ofNat 64 (l.toNat + 2 ^ 16 * g.toNat)) (l ||| th.ctxl)) s)) ∧
  (∀ (st : Stall) (d a : SReg) (s t : State) (th : Thread) (l : Leaf), Issues (.lrdg st d a) s th →
    s.translate (whoIs s.cur th) (th.sv a) 0 = (t, .ok l) →
    ∃ x : Word, x.extractLsb' 0 16 = l.lab ∧ x.getLsbD 16 = l.world ∧ x.getLsbD 17 = l.mx ∧ x.getLsbD 18 = l.sc ∧
      x.getLsbD 19 = l.cm ∧ x.getLsbD 20 = l.w ∧ x.getLsbD 21 = l.rp.isSome ∧ x.toNat < 2 ^ 22 ∧
      exec (.lrdg st d a) s = .next (retired (.lrdg st d a) s (th.putS d x (l.lab ||| th.sl a ||| th.ctxl)) t)) ∧
  (∀ (st : Stall) (a : SReg) (s : State) (th : Thread), Issues (.ljoin st a) s th →
    exec (.ljoin st a) s = .next (retired (.ljoin st a) s { th with ctxl := th.ctxl ||| ((th.sv a).setWidth 16 ||| th.sl a) } s))

/-- 18 R403: gset whose record and signatures have been read gives the first reason that a check fails for, with bit 63 set, and
installs nothing; else it installs the policy in the lowest free entry, sets the mark to its SEQ, and gives the entry's number.
18 R404: rel gives 0x83 for arguments it refuses or a device source, 0x81 for a destination that is no egress location; once its source
has been read, 0x82 where its label neither fits the partition's owner nor is let out by a policy of the issuer's world; each counts a
denial. Else it takes the bytes off the CAP and one off the COUNT of the lowest policy that serves, freeing it at zero,
and writes its bytes with the empty label, a piece after the other, each once the one before is acknowledged, when no store to their
homes is open (12 R283, R296). The first acknowledgement counts a release, the last gives 0, or 0x100 with the policy's number; a piece
that is refused gives 0x85, counts a denial, and stops the rest.
Rests on the model's readings of log 7 and 37. -/
def Obligations.ReleaseGate : Prop :=
  (∀ (st : Stall) (d a : SReg) (s : State) (th : Thread) (b : Again), GoesOn (.gset st d a) s th b → b.phase = 2 →
    (∀ r, Rules.gateFail s th.part b.data = some r → exec (.gset st d a) s = .next (resumedTo (.gset st d a) s
      (th.putS d (BitVec.ofNat 64 (2 ^ 63 + r)) (b.lab ||| th.sl a ||| th.ctxl)) s)) ∧
    (Rules.gateFail s th.part b.data = none → byteField b.data 0x18 8 ≤ (s.pp th.part).mark →
      exec (.gset st d a) s = .next (resumedTo (.gset st d a) s
        (th.putS d (BitVec.ofNat 64 (2 ^ 63 + 7)) (b.lab ||| th.sl a ||| th.ctxl)) s)) ∧
    (Rules.gateFail s th.part b.data = none → (s.pp th.part).mark < byteField b.data 0x18 8 →
      ((∀ e, e < 16 → vget (s.pp th.part).policies e ≠ none) →
        exec (.gset st d a) s = .next (resumedTo (.gset st d a) s
          (th.putS d (BitVec.ofNat 64 (2 ^ 63 + 8)) (b.lab ||| th.sl a ||| th.ctxl)) s)) ∧
      (∀ e, e < 16 → vget (s.pp th.part).policies e = none → (∀ k, k < e → vget (s.pp th.part).policies k ≠ none) →
        exec (.gset st d a) s = .next (resumedTo (.gset st d a) s
          (th.putS d (BitVec.ofNat 64 e) (b.lab ||| th.sl a ||| th.ctxl))
          (s.modPP th.part fun p => { p with
            policies := vset p.policies e (some (Rules.policyAt b.data th.world)), mark := byteField b.data 0x18 8 }))))) ∧
  (∀ (st : Stall) (d a b : SReg) (s : State) (th : Thread),
    (Issues (.rel st d a b) s th → ((th.sv d).toNat < 8 ∨ 65536 < (th.sv d).toNat ∨ (th.sv d).toNat % 8 ≠ 0 ∨ (th.sv a).toNat % 8 ≠ 0 ∨
        (th.sv b).toNat % 8 ≠ 0) →
      exec (.rel st d a b) s = .next (retired (.rel st d a b) s (th.putS d 0x83 th.ctxl)
        (s.modPP th.part fun p => { p with denied := p.denied + 1 }))) ∧
    (∀ (g : Again) (t : State) (ps : List Place) (lab : Label), GoesOn (.rel st d a b) s th g → g.phase = 1 →
      lab = g.lab ||| th.sl a ||| th.sl b ||| th.sl d ||| th.ctxl →
      s.relDest s.cur th (th.sv b) g.data.length = (t, .ok ps) →
      ((∃ p ∈ ps, p.egress = false) → exec (.rel st d a b) s = .next (resumedTo (.rel st d a b) s (th.putS d 0x81 lab)
        (t.modPP th.part fun p => { p with denied := p.denied + 1 }))) ∧
      ((∀ p ∈ ps, p.egress = true) → t.homeBusy s.cur th (ps.map (·.home)) = true →
        ∃ p, p.instr = .rel st d a b ∧ p.data = g.data ∧ p.lab = g.lab ∧ p.acc = none ∧
          ((∃ j ∈ t.openEntries s.cur th, j.home ∈ ps.map (·.home)) → p.cond = .homesClosed (ps.map (·.home))) ∧
          ((∀ j ∈ t.openEntries s.cur th, j.home ∉ ps.map (·.home)) → p.cond = .held (ps.map (·.home))) ∧
          exec (.rel st d a b) s = .next (parked s th p t)) ∧
      ((∀ p ∈ ps, p.egress = true) → t.homeBusy s.cur th (ps.map (·.home)) = false → lab &&& ~~~(t.owner th.part) ≠ 0 →
        (∀ e x, e < 16 → vget (t.pp th.part).policies e = some x →
          ¬ Rules.servesAll x th.world lab g.data.length (ps.zip ((piecesOf (th.sv b) g.data.length).map (·.2)))) →
        exec (.rel st d a b) s = .next (resumedTo (.rel st d a b) s (th.putS d 0x82 lab)
          (t.modPP th.part fun p => { p with denied := p.denied + 1 }))) ∧
      (∀ (r : Word) (pol : Vector (Option Policy) 16), (∀ p ∈ ps, p.egress = true) → ps ≠ [] →
        t.homeBusy s.cur th (ps.map (·.home)) = false →
        (lab &&& ~~~(t.owner th.part) = 0 ∧ r = 0 ∧ pol = (t.pp th.part).policies ∨
          lab &&& ~~~(t.owner th.part) ≠ 0 ∧ ∃ e x, e < 16 ∧ r = BitVec.ofNat 64 (0x100 + e) ∧
            vget (t.pp th.part).policies e = some x ∧ pol = vset (t.pp th.part).policies e (Rules.policyUsed x g.data.length) ∧
            Rules.servesAll x th.world lab g.data.length (ps.zip ((piecesOf (th.sv b) g.data.length).map (·.2))) ∧
            ∀ k y, k < e → vget (t.pp th.part).policies k = some y →
              ¬ Rules.servesAll y th.world lab g.data.length (ps.zip ((piecesOf (th.sv b) g.data.length).map (·.2)))) →
        ∃ (m : Msg) (rest : List Msg) (p : Park) (w : Access), p.instr = .rel st d a b ∧ p.cond = .access ∧ p.acc = some w ∧
          w.outstanding = 1 ∧ w.got = [] ∧ w.refused = none ∧ w.cont = .rel d r lab false rest ∧
          List.Forall₂ (Rules.Releases s th (th.sv b) g.data) (m :: rest) ((piecesOf (th.sv b) g.data.length).zip ps) ∧
          exec (.rel st d a b) s = .next (parked s th p ((ps.foldl (fun u p => u.setDirty (whoIs s.cur th) p)
            (if r = 0 then t else t.modPP th.part fun q => { q with policies := pol })).request m)))) ∧
    (∀ (t u : State) (sp dp : List Place), Issues (.rel st d a b) s th → 8 ≤ (th.sv d).toNat → (th.sv d).toNat ≤ 65536 →
      (th.sv d).toNat % 8 = 0 → (th.sv a).toNat % 8 = 0 → (th.sv b).toNat % 8 = 0 →
      s.checkAll (whoIs s.cur th) { kind := 0, size := 8, word := true }
        ((piecesOf (th.sv a) (th.sv d).toNat).map fun x => (th.sv a + BitVec.ofNat 64 x.1, x.2)) = (t, .ok sp) →
      t.relDest s.cur th (th.sv b) (th.sv d).toNat = (u, .ok dp) →
      ((∃ p ∈ sp, spaceOf p.pa = 3) → exec (.rel st d a b) s = .next (retired (.rel st d a b) s (th.putS d 0x83 th.ctxl)
        (u.modPP th.part fun p => { p with denied := p.denied + 1 }))) ∧
      ((∀ p ∈ sp, spaceOf p.pa ≠ 3) → (∃ p ∈ dp, p.egress = false) →
        exec (.rel st d a b) s = .next (retired (.rel st d a b) s (th.putS d 0x81 th.ctxl)
          (u.modPP th.part fun p => { p with denied := p.denied + 1 }))))) ∧
  (∀ (n e : Node) (s v u : State) (tid gen i : Nat) (r : Resp) (l : List Item) (th : Thread) (p : Park) (w : Access) (d : SReg)
    (x : Word) (lab : Label) (wrote : Bool) (rest : List Msg), klist s.inbox n = .resp e (.thread tid gen) i r :: l → s.thread? tid = some th →
    th.gen = gen → th.park = some p → r.withdrawn = false → p.acc = some w → w.outstanding = 1 → w.refused = none →
    w.cont = .rel d x lab wrote rest → v = { s with inbox := kputList s.inbox n l } →
    u = (if wrote = true then v else v.modPP th.part fun p => { p with released := p.released + 1 }) →
    (r.ok = true → ∀ m k, rest = m :: k → ∃ (q : Park) (y : Access), q.acc = some y ∧ y.outstanding = 1 ∧ y.cont = .rel d x lab true k ∧
      q.instr = p.instr ∧ exec (.complete n) s = .next ((u.request m).setThread tid { th.performed w i r with park := some q })) ∧
    (r.ok = true → rest = [] → exec (.complete n) s = .next (u.setThread tid {
      ((th.performed w i r).putS d x lab).retire p.instr with nextRot := max (s.ownRot tid) th.nextRot + stallOf p.instr })) ∧
    (r.ok = false → exec (.complete n) s = .next ((v.setThread tid {
      (th.putS d 0x85 lab).retire p.instr with nextRot := max (s.ownRot tid) th.nextRot + stallOf p.instr }).modPP th.part fun p =>
        { p with denied := p.denied + 1 })))

/-! ### Matrix commands, banks and residues -/

/-- 14 R330, R335: a matrix word whose tile operands, banks and prefix pass its row's checks enters its slot's queue, with the rounding
mode, the prefix, CTXL and the PC of its issue; where two commands of the slot wait already, it parks until an entry is free. What a
command of a timed thread due later would still write to its banks is discarded (02 R49).
14 R338; 15 R366: one whose B stands in a bead slot does the same when a bead is HELD there, with the tag and label of that bead; the first
use by its thread compares the bead's tag and takes SCHED.TAG where it is not the one expected. An EMPTY or LANDING slot gives
SCHED.EMPTY, a LAPSED final one SCHED.MISSED, and at a LAPSED one the word parks with the slot's limit.
Rests on the model's readings of log 28 and 35. -/
def Obligations.MatrixCommands : Prop :=
  (∀ (i : Instr) (s : State) (th : Thread) (r : Rules.MatrixRow) (t : TReg), Issues i s th → Rules.matrixRow i = some r → r.b = .tile t →
    Rules.MatrixReady s th r t (th.chain.bind (·.spar)) →
    ((waitingCmds (s.core (coreOf s.cur)) (slotOf s.cur)).length < 2 →
      ∃ (c : MxCmd) (m : Word), (∀ j, m.getLsbD j = true ↔ r.bank.toNat ≤ j ∧ j < r.bank.toNat + r.kinds.length) ∧ c.lost = 0 ∧
        c.stoch = ((th.chain.map (·.sround)).getD false && !r.rns) ∧ c.serial = s.serial ∧ c.slot = slotOf s.cur ∧ c.instr = i ∧ c.pc = th.pc ∧ c.rm = th.rnd.mode ∧ c.ctxl = th.ctxl ∧
        c.spar = th.chain.bind (·.spar) ∧ c.eng = none ∧ (s.isTimed s.cur th = false → c.due = none) ∧
        exec i s = .next (retired i s th (Rules.enqueued s (coreOf s.cur) c m))) ∧
    (2 ≤ (waitingCmds (s.core (coreOf s.cur)) (slotOf s.cur)).length →
      ∃ p, p.instr = i ∧ p.cond = .queueRoom ∧ p.entry = false ∧ p.acc = none ∧ exec i s = .next (parked s th p s))) ∧
  (∀ (i : Instr) (s t : State) (th : Thread) (r : Rules.MatrixRow) (n : BitVec 4) (b : BSlot) (pa : Nat), Issues i s th →
    Rules.matrixRow i = some r → r.b = .slot n → Rules.SlotReady s th r n.toNat (th.chain.bind (·.spar)) →
    b = vget (s.pcore (coreOf s.cur) th.part).bslots n.toNat → pa = s.slotPa (coreOf s.cur) th.part n.toNat →
    (b.state = 2 → b.chk.getLsbD (s.cur % 8) = true ∧ t = s ∨
        b.chk.getLsbD (s.cur % 8) = false ∧ b.tag = b.etag ∧ t = Rules.tagChecked s th.part n.toNat →
      Rules.slotSound s (coreOf s.cur) th.part r n.toNat →
      ((waitingCmds (s.core (coreOf s.cur)) (slotOf s.cur)).length < 2 →
        ∃ (c : MxCmd) (m : Word), (∀ j, m.getLsbD j = true ↔ r.bank.toNat ≤ j ∧ j < r.bank.toNat + r.kinds.length) ∧ c.lost = 0 ∧
          c.btag = b.fmt ∧ c.blab = b.lab ∧ c.stoch = ((th.chain.map (·.sround)).getD false && !r.rns) ∧ c.serial = s.serial ∧
          c.slot = slotOf s.cur ∧ c.instr = i ∧ c.pc = th.pc ∧ c.rm = th.rnd.mode ∧ c.ctxl = th.ctxl ∧ c.spar = th.chain.bind (·.spar) ∧
          c.eng = none ∧ (s.isTimed s.cur th = false → c.due = none) ∧ exec i s = .next (retired i s th (Rules.enqueued t (coreOf s.cur) c m))) ∧
      (2 ≤ (waitingCmds (s.core (coreOf s.cur)) (slotOf s.cur)).length →
        ∃ p, p.instr = i ∧ p.cond = .queueRoom ∧ p.entry = false ∧ p.acc = none ∧ exec i s = .next (parked s th p t))) ∧
    (b.state = 2 → b.chk.getLsbD (s.cur % 8) = false → b.tag ≠ b.etag → exec i s = .next (trapped s th .schedTag (BitVec.ofNat 64 pa)
      (BitVec.ofNat 64 (n.toNat * 2 ^ 32 + b.tag.toNat * 2 ^ 16 + b.etag.toNat)) (s.blockLabel pa) s)) ∧
    (b.state = 0 ∨ b.state = 1 → exec i s = .next (trapped s th .schedEmpty (BitVec.ofNat 64 pa)
      (BitVec.ofNat 64 (n.toNat * 2 ^ 32 + b.state.toNat)) (s.blockLabel pa) s)) ∧
    (b.state = 4 → exec i s = .next (trapped s th .schedMissed (BitVec.ofNat 64 pa)
      (BitVec.ofNat 64 (n.toNat * 2 ^ 32 + 4)) (s.blockLabel pa) s)) ∧
    (b.state = 3 → s.entryFree s.cur th.part = true → ∃ p, p.instr = i ∧ p.cond = .slot n.toNat true (BitVec.ofNat 64 pa) ∧
      p.lim = b.lim ∧ p.entry = true ∧ p.acc = none ∧ exec i s = .next (parked s th p s)))

/-- 14 R330, R333: a free matrix unit starts the oldest command of the first slot, in barrel order after the last, whose queue holds
one, for the time of Table 14.4; a command that is over writes its banks and posts its flags under its label.
14 R336 to R339; 05 R143 to R147: the banks of a floating-point command hold for each element its chunks' exact sums, each rounded once,
with the kinds of Table 14.4, the operands' label, and the flags of every element.
14 R341, R346: those of a residue command, where every element is in range or OVER, hold on each rod the old residue plus the products'
sum modulo the rod; with OVT = 0 an OVER element saturates and sets RNSF, with OVT = 1 it raises RNS.OVF with the first one's index.
Rests on the model's readings of log 15, 16 and 33. -/
def Obligations.MatrixUnit : Prop :=
  (∀ (core n k : Nat) (c : MxCmd) (l : List MxCmd) (s : State) (th : Thread), (s.core core).mxRun = none → n < 8 →
    k = ((s.core core).mxLast + 1 + n) % 8 → waitingCmds (s.core core) k = c :: l →
    (∀ m, m < n → waitingCmds (s.core core) (((s.core core).mxLast + 1 + m) % 8) = []) → s.thread? (tidOf core k) = some th →
    (∀ b, (bankOf (s.core core) b).poisoned = false) →
    ∃ (t : State) (r : MxRun), exec (.matrixCommandStart core) s = .next t ∧ (t.core core).mxRun = some r ∧ r.cmd = c ∧ r.start = s.cycle ∧
      (t.core core).mxLast = k ∧ (t.core core).mxQueue = (s.core core).mxQueue.filter (fun m => m.serial ≠ c.serial) ∧
      (t.core core).banks = (s.core core).banks ∧ t.threads = s.threads ∧ t.mem = s.mem ∧
      ∀ row, Rules.matrixRow c.instr = some row → tsFmt (th.tsreg row.a) ∈ row.tags → Rules.tagOfB th row c ∈ row.tags →
        (row.rns = false → ∃ v, Rules.BanksOf s core th row c r.res.banks v ∧ r.finish = s.cycle + Rules.timeOf row c.spar ∧
          (∀ i j, i < row.m → j < row.n → Rules.accNum (fun p => (v p).bits) (row.kinds.headD 1) i j =
            (Rules.mmaElement s core th row c i j).1 % 2 ^ (Rules.accFmt row).width) ∧
          (∀ b, r.res.flags.getLsbD b = true ↔ ∃ i j, i < row.m ∧ j < row.n ∧ (Rules.mmaElement s core th row c i j).2.getLsbD b = true) ∧
          (∀ b, r.res.lab.getLsbD b = true ↔ ∃ p, p < row.kinds.length ∧ (v p).lab.getLsbD b = true) ∧
          r.res.rnsf = false ∧ r.res.events = [] ∧ r.res.mark = none ∧ r.res.trans = 0 ∧ r.res.unst = 0 ∧ r.res.unloc = 0) ∧
        (∀ (y : Nat → Nat → Int) (ovf : Nat → Nat → Bool), row.rns = true → (s.core core).rodOff = false → (s.core core).rodFaults = [] →
          (∀ i j, i < 32 → j < 32 → checkRods (liveRods (s.core core).rodFail) ((nums 6).map fun q => Rules.rmmaResidue s core th row c q i j) =
            if ovf i j then .over (y i j) else .ok (y i j)) →
          ∃ v, Rules.BanksOf s core th row c r.res.banks v ∧ r.finish = s.cycle + Rules.timeOf row c.spar ∧
          (∀ q i j, q < 6 → i < 32 → j < 32 → (v q).bits.toNat / 2 ^ (16 * (32 * i + j)) % 2 ^ 16 =
            if ovf i j = true ∧ th.ovt = false then (Rules.saturated (y i j) % (rodMod q : Int)).toNat
            else Rules.rmmaResidue s core th row c q i j) ∧
          (r.res.rnsf = true ↔ th.ovt = false ∧ ∃ i j, i < 32 ∧ j < 32 ∧ ovf i j = true) ∧
          (th.ovt = false ∨ (∀ i j, i < 32 → j < 32 → ovf i j = false) → r.res.events = []) ∧
          (∀ k, k < 1024 → th.ovt = true → ovf (k / 32) (k % 32) = true → (∀ m, m < k → ovf (m / 32) (m % 32) = false) →
            r.res.events = [⟨causeCode .rnsOvf, 1, c.pc, BitVec.ofNat 64 k, 0⟩]) ∧
          (∀ b, r.res.lab.getLsbD b = true ↔ ∃ p, p < 6 ∧ (v p).lab.getLsbD b = true) ∧
          r.res.flags = 0 ∧ r.res.mark = none ∧ r.res.trans = 0 ∧ r.res.unst = 0 ∧ r.res.unloc = 0)) ∧
  (∀ (core : Nat) (r : MxRun) (s : State) (th : Thread), (s.core core).mxRun = some r → r.finish ≤ s.cycle → r.cmd.slot < 8 →
    r.cmd.due = none → r.cmd.stoch = false → s.thread? (tidOf core r.cmd.slot) = some th → r.res.rnsf = false → r.res.events = [] →
    r.res.mark = none → r.res.trans = 0 → r.res.unst = 0 → r.res.unloc = 0 → (r.res.banks.map (·.1)).Nodup → r.cmd.lost = 0 →
    th.again = none → (∀ p n b, th.park = some p → p.cond ≠ .posted n b) →
    ∃ t, exec (.matrixCommandComplete core) s = .next t ∧ (t.core core).mxRun = none ∧
      (∀ x ∈ r.res.banks, bankOf (t.core core) x.1 = x.2) ∧
      (∀ b, b ∉ r.res.banks.map (·.1) → bankOf (t.core core) b = bankOf (s.core core) b) ∧
      t.thread? (tidOf core r.cmd.slot) = some (th.post r.res.flags r.res.lab) ∧
      (∀ j, j ≠ tidOf core r.cmd.slot → t.thread? j = s.thread? j) ∧ t.mem = s.mem)

/-- 14 R342, R343: the six residues of every integer of the range pass the check and give the integer back. -/
def Obligations.ResidueCheck : Prop :=
  ∀ v : Int, -(576302434976808960 : Int) ≤ v → v < 576302434976808960 → checkRods (liveRods 0) (residues v) = .ok v

/-- 14 R326, R327, R328: acqa gives the lowest run of free banks of the pool, zeroed, or the code of the first test that fails; rela
of banks that the thread holds and no command names zeroes them and gives them up, and of others takes ACC.BANK; azero zeroes its
bank. -/
def Obligations.BankWords : Prop :=
  (∀ (st : Stall) (x : SReg) (s : State) (th : Thread) (n : Nat), Issues (.acqa st x) s th → n = (th.sv x).toNat % 32 →
    (n = 0 ∨ 16 < n → exec (.acqa st x) s = .next (retired (.acqa st x) s (th.putS x (BitVec.ofInt 64 (-3)) (th.sl x ||| th.ctxl)) s)) ∧
    (0 < n → n ≤ 16 → 8 * th.slotsM < popcNat th.abown.toNat 64 + n →
      exec (.acqa st x) s = .next (retired (.acqa st x) s (th.putS x (BitVec.ofInt 64 (-2)) (th.sl x ||| th.ctxl)) s)) ∧
    (0 < n → n ≤ 16 → popcNat th.abown.toNat 64 + n ≤ 8 * th.slotsM →
      (∀ b ∈ bankPool (s.pdie (dieOf (coreOf s.cur)) th.part), ¬ Rules.freeAt s th n b) →
      exec (.acqa st x) s = .next (retired (.acqa st x) s (th.putS x (BitVec.ofInt 64 (-1)) (th.sl x ||| th.ctxl)) s)) ∧
    (∀ b, 0 < n → n ≤ 16 → popcNat th.abown.toNat 64 + n ≤ 8 * th.slotsM → Rules.freeAt s th n b →
      (∀ d, d < b → ¬ Rules.freeAt s th n d) →
      ∃ (m : Word) (t : State), (∀ j, m.getLsbD j = true ↔ b ≤ j ∧ j < b + n ∧ j < 64) ∧
        (∀ j, bankOf (t.core (coreOf s.cur)) j = if b ≤ j ∧ j < b + n ∧ j < 64 then BankVal.zero else bankOf (s.core (coreOf s.cur)) j) ∧
        t.threads = s.threads ∧ t.mem = s.mem ∧ exec (.acqa st x) s = .next (retired (.acqa st x) s
          ({ th with abown := th.abown ||| m }.putS x (BitVec.ofNat 64 b) (th.sl x ||| th.ctxl)) t))) ∧
  (∀ (st : Stall) (x : SReg) (s : State) (th : Thread), Issues (.rela st x) s th →
    (th.sv x &&& ~~~th.abown ≠ 0 → exec (.rela st x) s =
      .next (trapped s (th.widen (th.sl x)) .accBank ((encode (.rela st x)).setWidth 64) (th.sv x &&& ~~~th.abown) 0 s)) ∧
    (th.sv x &&& ~~~th.abown = 0 → s.cmds s.cur = [] →
      ∃ t, (∀ j, bankOf (t.core (coreOf s.cur)) j = if (th.sv x).getLsbD j then BankVal.zero else bankOf (s.core (coreOf s.cur)) j) ∧
        t.threads = s.threads ∧ t.mem = s.mem ∧ exec (.rela st x) s = .next (retired (.rela st x) s
          { th with ctxl := th.ctxl ||| th.sl x, abown := th.abown &&& ~~~th.sv x } t))) ∧
  (∀ (st : Stall) (n : Bank) (s : State) (th : Thread), Issues (.azero st n) s th → th.abown.getLsbD n.toNat = true → s.cmds s.cur = [] →
    ∃ t, (∀ j, bankOf (t.core (coreOf s.cur)) j = if j = n.toNat then ⟨0, 0, th.ctxl, false⟩ else bankOf (s.core (coreOf s.cur)) j) ∧
      t.threads = s.threads ∧ t.mem = s.mem ∧ exec (.azero st n) s = .next (retired (.azero st n) s th t))

/-- 14 R329: ardt of an accumulator that its thread holds, sound and with no command under way, rounds each element of the window into
the tile's format; the bytes behind the window stay, the label is the union of the banks read and CTXL, and the union of the elements'
flags posts under it. A bank of kind ZERO gives zeros of the format in every element of the tile, whatever its shape and ACC.WIN.
Rests on the model's readings of log 35. -/
def Obligations.AccumulatorReads : Prop :=
  (∀ (st : Stall) (n : Bank) (d : TReg) (s : State) (th : Thread) (kind rows cols w : Nat) (kinds : List Nat),
    Issues (.ardt st n d) s th → s.cmds s.cur = [] →
    (kind, cols, rows, kinds) ∈ [(1, 16, 16, [1]), (2, 16, 32, [2]), (3, 32, 32, [3, 4])] →
    (bankOf (s.core (coreOf s.cur)) n.toNat).kind.toNat = kind → Rules.banksFit s th n.toNat kinds false →
    (∀ b, (bankOf (s.core (coreOf s.cur)) b).poisoned = false) → tsCols (th.tsreg d) = cols → tsRows (th.tsreg d) ≠ 0 →
    th.accWin.toNat + tsRows (th.tsreg d) ≤ rows → tagWidth (tsFmt (th.tsreg d)) = some w → ardtTag (tsFmt (th.tsreg d)) = true →
    tsRows (th.tsreg d) * cols * w ≤ 16384 →
    ∃ (x : TVal) (fl : Flags), Rules.readsOut th d w (fun e => recode (if kind = 1 then 0x09 else 0x0A) (tsFmt (th.tsreg d)) th.rnd e false
        (Rules.accValue s (coreOf s.cur) n.toNat kind (th.accWin.toNat + e / cols) (e % cols))) x fl ∧
      (∀ b, x.lab.getLsbD b = true ↔ th.ctxl.getLsbD b = true ∨
        ∃ k, k < kinds.length ∧ (bankOf (s.core (coreOf s.cur)) (n.toNat + k)).lab.getLsbD b = true) ∧
      exec (.ardt st n d) s = .next (retired (.ardt st n d) s ((th.putT d x.bits x.lab).post fl x.lab) s)) ∧
  (∀ (st : Stall) (n : Bank) (d : TReg) (s : State) (th : Thread) (w : Nat), Issues (.ardt st n d) s th → s.cmds s.cur = [] →
    (bankOf (s.core (coreOf s.cur)) n.toNat).kind.toNat = 0 → th.abown.getLsbD n.toNat = true →
    (bankOf (s.core (coreOf s.cur)) n.toNat).poisoned = false → tsRows (th.tsreg d) ≠ 0 → tsCols (th.tsreg d) ≠ 0 →
    tagWidth (tsFmt (th.tsreg d)) = some w → ardtTag (tsFmt (th.tsreg d)) = true → tsRows (th.tsreg d) * tsCols (th.tsreg d) * w ≤ 16384 →
    ∃ (x : TVal) (fl : Flags), Rules.readsOut th d w (fun e => recode 0x0A (tsFmt (th.tsreg d)) th.rnd e false 0) x fl ∧
      x.lab = (bankOf (s.core (coreOf s.cur)) n.toNat).lab ||| th.ctxl ∧
      exec (.ardt st n d) s = .next (retired (.ardt st n d) s ((th.putT d x.bits x.lab).post fl x.lab) s))

/-- 14 R346, R349: rfwd writes the residues of each element of its tile in the rows of its window on all six rods, and keeps the other
rows; the banks' labels widen by the tile's label and CTXL. With OVT = 0 an element outside the accumulator's range saturates and sets
RNSF; with OVT = 1 the first one takes RNS.OVF with its flat index, and nothing is written.
Rests on the model's readings of log 34 and 35. -/
def Obligations.ResidueForward : Prop :=
  ∀ (st : Stall) (n : Bank) (d : TReg) (s : State) (th : Thread) (sg : Bool) (w : Nat) (v : Nat → Int), Issues (.rfwd st n d) s th →
    Rules.ResidueReady s th n.toNat → Rules.windowFits th d [0x01, 0x02, 0x03, 0x04, 0x05, 0x06, 0x07, 0x08] →
    tagInt (tsFmt (th.tsreg d)) = some (sg, w) → (∀ e, v e = intOf sg w (Rules.tileNum (th.treg d).bits w e)) →
    ((th.ovt = false ∨ ∀ e, e < 32 * tsRows (th.tsreg d) → Rules.saturated (v e) = v e) →
      ∃ t u, exec (.rfwd st n d) s = .next (retired (.rfwd st n d) s u t) ∧ t.threads = s.threads ∧ t.mem = s.mem ∧
        ((∀ e, e < 32 * tsRows (th.tsreg d) → Rules.saturated (v e) = v e) → u = th) ∧
        ((∃ e, e < 32 * tsRows (th.tsreg d) ∧ Rules.saturated (v e) ≠ v e) → u = th.postRnsf ((th.treg d).lab ||| th.ctxl)) ∧
        ∀ r, r < 6 →
          (bankOf (t.core (coreOf s.cur)) (n.toNat + r)).kind.toNat = 8 + r ∧
          (bankOf (t.core (coreOf s.cur)) (n.toNat + r)).lab =
            (bankOf (s.core (coreOf s.cur)) (n.toNat + r)).lab ||| ((th.treg d).lab ||| th.ctxl) ∧
          (∀ e, e < 32 * tsRows (th.tsreg d) → Rules.residueAt t (coreOf s.cur) n.toNat r (32 * th.accWin.toNat + e) =
            (Rules.saturated (v e) % (rodMod r : Int)).toNat) ∧
          (∀ e, e < 1024 → (e < 32 * th.accWin.toNat ∨ 32 * th.accWin.toNat + 32 * tsRows (th.tsreg d) ≤ e) →
            Rules.residueAt t (coreOf s.cur) n.toNat r e = Rules.residueAt s (coreOf s.cur) n.toNat r e)) ∧
    (∀ e, th.ovt = true → e < 32 * tsRows (th.tsreg d) → Rules.saturated (v e) ≠ v e → (∀ k, k < e → Rules.saturated (v k) = v k) →
      exec (.rfwd st n d) s = .next (trapped s th .rnsOvf ((encode (.rfwd st n d)).setWidth 64)
        (BitVec.ofNat 64 (32 * th.accWin.toNat + e)) 0 s))

/-- 14 R350 to R353: rrev and rchk of an accumulator whose elements all check; rodrd gives the live set, whether all six rods are live
and OFF; roddeg in a secure control thread marks the rods named, with OFF once two are marked, and takes PRIV.OP elsewhere.
Rests on the model's readings of log 34 and 35. -/
def Obligations.ResidueReads : Prop :=
  (∀ (i : Instr) (n : Bank) (d : TReg) (w : Nat) (g : Tag) (s : State) (th : Thread) (v : Nat → Int), Issues i s th →
    ((∃ st, i = .rrevI64 st n d ∧ w = 64 ∧ g = 0x04) ∨ (∃ st, i = .rrevI32 st n d ∧ w = 32 ∧ g = 0x03)) →
    Rules.ResidueReady s th n.toNat → Rules.windowFits th d [g] → 32 * tsRows (th.tsreg d) * w ≤ 16384 →
    (∀ e, checkRods (liveRods (s.core (coreOf s.cur)).rodFail) ((nums 6).map fun r => Rules.residueAt s (coreOf s.cur) n.toNat r e) = .ok (v e)) →
    ∃ (x : TVal) (u : Thread) (t : State), (∀ e, e < 32 * tsRows (th.tsreg d) → Rules.tileNum x.bits w e =
        (max (-(2 ^ (w - 1) : Int)) (min (2 ^ (w - 1) - 1) (v (32 * th.accWin.toNat + e))) % 2 ^ w).toNat) ∧
      x.bits.toNat / 2 ^ (w * (32 * tsRows (th.tsreg d))) = (th.treg d).bits.toNat / 2 ^ (w * (32 * tsRows (th.tsreg d))) ∧
      x.lab = labels ((nums 6).map fun r => (bankOf (s.core (coreOf s.cur)) (n.toNat + r)).lab) ||| th.ctxl ∧
      ((∀ e, e < 32 * tsRows (th.tsreg d) → -(2 ^ (w - 1) : Int) ≤ v (32 * th.accWin.toNat + e) ∧ v (32 * th.accWin.toNat + e) < 2 ^ (w - 1)) →
        u = th.putT d x.bits x.lab) ∧
      ((∃ e, e < 32 * tsRows (th.tsreg d) ∧ (v (32 * th.accWin.toNat + e) < -(2 ^ (w - 1) : Int) ∨ 2 ^ (w - 1) ≤ v (32 * th.accWin.toNat + e))) →
        u = (th.putT d x.bits x.lab).postRnsf x.lab) ∧
      t.threads = s.threads ∧ t.mem = s.mem ∧ (∀ c, t.core c = s.core c) ∧ exec i s = .next (retired i s u t)) ∧
  (∀ (st : Stall) (n : Bank) (x : SReg) (s : State) (th : Thread), Issues (.rchk st n x) s th → Rules.ResidueReady s th n.toNat →
    (∀ e, e < 1024 → ∃ v, checkRods (liveRods (s.core (coreOf s.cur)).rodFail)
      ((nums 6).map fun r => Rules.residueAt s (coreOf s.cur) n.toNat r e) = .ok v) →
    ∃ t, t.threads = s.threads ∧ t.mem = s.mem ∧ (∀ c, t.core c = s.core c) ∧
      exec (.rchk st n x) s = .next (retired (.rchk st n x) s (th.putS x (BitVec.ofNat 64 (7 * 2 ^ 32))
        (labels ((nums 6).map fun r => (bankOf (s.core (coreOf s.cur)) (n.toNat + r)).lab) ||| th.ctxl)) t)) ∧
  (∀ (st : Stall) (x : SReg) (s : State) (th : Thread), Issues (.rodrd st x) s th →
    ∃ v : Word, v.extractLsb' 0 6 = ~~~(s.core (coreOf s.cur)).rodFail ∧ v.getLsbD 6 = decide ((s.core (coreOf s.cur)).rodFail = 0) ∧
      v.getLsbD 7 = (s.core (coreOf s.cur)).rodOff ∧ v.toNat < 256 ∧
      exec (.rodrd st x) s = .next (retired (.rodrd st x) s (th.putS x v th.ctxl) s)) ∧
  (∀ (st : Stall) (x : SReg) (s : State) (th : Thread), Issues (.roddeg st x) s th →
    (th.kind = .control → th.world = true → (s.core (coreOf s.cur)).mxRun = none →
      ∃ t, exec (.roddeg st x) s = .next (retired (.roddeg st x) s { th with ctxl := th.ctxl ||| th.sl x } t) ∧ t.threads = s.threads ∧
        (t.core (coreOf s.cur)).rodFail = (s.core (coreOf s.cur)).rodFail ||| (th.sv x).setWidth 6 ∧
        ((t.core (coreOf s.cur)).rodOff = true ↔ (s.core (coreOf s.cur)).rodOff = true ∨
          2 ≤ ((nums 6).filter fun r => (t.core (coreOf s.cur)).rodFail.getLsbD r).length)) ∧
    ((th.kind ≠ .control ∨ th.world = false) →
      exec (.roddeg st x) s = .next (trapped s th .privOp ((encode (.roddeg st x)).setWidth 64) 0 0 s)))

/-! ### Engine words and bead slots -/

/-- 15 R356, R357, R361 to R363, R373, R376: an engine word whose records have been read and pass every check, with a free completion
object, forks: its object reads running, and its engine thread holds what its records give. A word that waited for one of its slot's
four commands does the same through FORK.
15 R374: a copy whose destination is the first byte of a bead slot of its issuer's core forks to fill that slot, where its length fits and
its format tag is assigned; any other destination in a reserved area takes ENG.ARG, reason 9.
Rests on the model's readings of log 37 and 52. -/
def Obligations.EngineWords : Prop :=
  (∀ (st : Stall) (x y z : SReg) (s t : State) (th : Thread) (p : Place) (a : Again),
    Rules.ObjReady s th (th.sv x) p t →
    (GoesOn (.btour st x y z) s th a → a.phase = 3 → Rules.TourReady s th y z a.data → Rules.tourFits a.data →
      ∃ (u : State) (g : Engine), exec (.btour st x y z) s = .next (resumedTo (.btour st x y z) s th u) ∧
        Rules.Forked s th x y z p t u 1 g ∧ g.kind = .tour ∧ g.tag = (th.sv z).extractLsb' 32 16 ∧
        g.fmt = BitVec.ofNat 6 (byteField a.data 0x1A 1) ∧ g.pos = .none ∧ g.stops.length = byteField a.data 32 1 ∧
        (∀ k, k < byteField a.data 32 1 → g.stops[k]? = some ⟨BitVec.ofNat 32 (byteField a.data (96 + 16 * k) 4),
          byteField a.data (96 + 16 * k + 4) 2, byteField a.data (96 + 16 * k + 6) 1, byteField a.data (96 + 16 * k + 8) 4⟩) ∧
        (∀ k, k < byteField a.data 32 1 → g.todoStops[k]? = some (k, false)) ∧
        (g.norev = true ↔ th.chain.bind (·.itin) = some true ∨ byteField a.data 33 1 = 1) ∧
        g.todo.length = Rules.tourRows a.data ∧ (∀ r, r < Rules.tourRows a.data →
          g.todo[r]? = some (r * Rules.tourCols a.data * Rules.tourElem a.data,
            wordAt a.data 0 + BitVec.ofNat 64 ((byteField a.data 40 4 + r) * byteField a.data 8 8 +
              byteField a.data 44 4 * Rules.tourElem a.data), Rules.tourCols a.data * Rules.tourElem a.data))) ∧
    (∀ v r, GoesOn (.copy st x y z) s th a → a.phase = 1 → Rules.CopyReady th z a.data →
      t.translate (whoIs s.cur th) (wordAt a.data 0) 1 = (v, r) → (∀ l, r = .ok l → l.rp.isSome = true ∨
        spaceOf (leafPa l (wordAt a.data 0)) ≠ 1 ∨ areaOf (v.pdie (dieOf (coreOfPa (leafPa l (wordAt a.data 0)))) th.part)
          (leafPa l (wordAt a.data 0) % 2 ^ 19) = .plain) →
      v.engines = t.engines ∧
      ∃ (u : State) (g : Engine), exec (.copy st x y z) s = .next (resumedTo (.copy st x y z) s th u) ∧
        Rules.Forked s th x y z p v u 2 g ∧ g.kind = .copy ∧ g.src = wordAt a.data 8 ∧ g.dst = wordAt a.data 0 ∧
        g.len = (th.sv z).toNat ∧ g.follow = BitVec.ofNat 32 (byteField a.data 0x10 4) ∧ g.dslot = none ∧
        g.todo = [(0, wordAt a.data 8, (th.sv z).toNat)] ∧ g.written = 0) ∧
    (∀ (v : State) (l : Leaf) (pa c n : Nat) (d : PDie), GoesOn (.copy st x y z) s th a → a.phase = 1 → Rules.CopyReady th z a.data →
      t.translate (whoIs s.cur th) (wordAt a.data 0) 1 = (v, .ok l) → l.w = true → l.cm = true → (l.world = true → th.world = true) →
      l.rp = none → pa = leafPa l (wordAt a.data 0) → spaceOf pa = 1 → v.home pa = some (.core c) → d = v.pdie (dieOf c) th.part →
      d.v = true → lsBase d ≤ pa % 2 ^ 19 → pa % 2 ^ 19 < lsTop d →
      (areaOf d (pa % 2 ^ 19) = .bead n → c = coreOf s.cur → pa % 2 ^ 19 = slotOff d n → (th.sv z).toNat ≤ 8192 →
        byteField a.data 0x1A 1 ≠ 0 → byteField a.data 0x1A 1 < 64 → tagAssigned (BitVec.ofNat 6 (byteField a.data 0x1A 1)) = true →
        (byteField a.data 0x10 4 = 0 ∨ legalFollow (BitVec.ofNat 32 (byteField a.data 0x10 4)) (some n) = true) →
        v.engines = t.engines ∧
        ∃ (u : State) (g : Engine), exec (.copy st x y z) s = .next (resumedTo (.copy st x y z) s th u) ∧
          Rules.Forked s th x y z p v u 2 g ∧ g.kind = .copy ∧ g.src = wordAt a.data 8 ∧ g.dst = wordAt a.data 0 ∧
          g.len = (th.sv z).toNat ∧ g.follow = BitVec.ofNat 32 (byteField a.data 0x10 4) ∧ g.dslot = some n ∧
          g.tag = BitVec.ofNat 16 (byteField a.data 0x18 2) ∧ g.fmt = BitVec.ofNat 6 (byteField a.data 0x1A 1) ∧
          g.todo = [(0, wordAt a.data 8, (th.sv z).toNat)] ∧ g.written = 0) ∧
      ((areaOf d (pa % 2 ^ 19) = .save ∨ areaOf d (pa % 2 ^ 19) = .migrant ∨
          (areaOf d (pa % 2 ^ 19) = .bead n ∧ (c ≠ coreOf s.cur ∨ pa % 2 ^ 19 ≠ slotOff d n ∨ 8192 < (th.sv z).toNat ∨
            byteField a.data 0x1A 1 = 0 ∨ 64 ≤ byteField a.data 0x1A 1 ∨
            tagAssigned (BitVec.ofNat 6 (byteField a.data 0x1A 1)) = false))) →
        exec (.copy st x y z) s = .next (trapped s th .engArg ((encode (.copy st x y z)).setWidth 64) 9 0 v))) ∧
    (GoesOn (.mcast st x y z) s th a → a.phase = 1 → Rules.McastReady s th z a.data →
      ∃ (u : State) (g : Engine), exec (.mcast st x y z) s = .next (resumedTo (.mcast st x y z) s th u) ∧
        Rules.Forked s th x y z p t u 3 g ∧ g.kind = .mcast ∧ g.src = wordAt a.data 0 ∧ g.len = (th.sv z).toNat ∧
        g.doff = byteField a.data 8 4 ∧ g.boff = (if byteField a.data 12 4 = 0xFFFFFFFF then none else some (byteField a.data 12 4)) ∧
        (∀ q, q < 4 → (g.qmask.getLsbD q = true ↔
          (byteField a.data 0x10 1).testBit q = true ∧ (s.receiver (coreOf s.cur) q).isSome = true)) ∧
        (∀ q, q < 16 → (g.skipped.getLsbD q = true ↔
          q < 4 ∧ (byteField a.data 0x10 1).testBit q = true ∧ s.receiver (coreOf s.cur) q = none)))) ∧
  (∀ (st : Stall) (x y z : SReg) (i : Instr) (tid : Nat) (s : State) (th : Thread) (p : Park), s.thread? tid = some th →
    th.park = some p → p.cond = .engineRoom → p.instr = i → (i = .btour st x y z ∨ i = .copy st x y z ∨ i = .mcast st x y z) →
    (s.engines.filter fun e => decide (e.2.core = coreOf tid) && decide (e.2.slot = slotOf tid)).length < 4 →
    ∃ t, exec i ({ s with cur := tid }.setThread tid { th with park := none, again := some ⟨i, p.first, p.phase, p.data, p.lab, false⟩ }) =
        .next t ∧ exec (.fork tid) s = .next { t with cur := s.cur })

/-- 15 R370 to R372, R366: btag binds its slot to its thread; bwait of a HELD bead with the tag it expects takes the bead, of another
tag or of a LAPSED final slot traps and leaves its slot as it was, and parks otherwise; bpass by the holder of a HELD bead empties the slot and ends the visit.
Rests on the model's readings of log 38 and 53. -/
def Obligations.BeadWords : Prop :=
  ∀ (st : Stall) (x : SReg) (s : State) (th w : Thread) (c n : Nat) (b : BSlot), c = coreOf s.cur → n = (th.sv x).toNat % 16 →
    b = vget (s.pcore c th.part).bslots n →
    (∀ y, Issues (.btag st x y) s th → w = th.widen (th.sl x ||| th.sl y) →
      (n < (s.pdie (dieOf c) th.part).bslots → exec (.btag st x y) s = .next (retired (.btag st x y) s w
        (s.modPCore c th.part fun q => { q with bslots := (vset q.bslots n ({ b with
          bound := true, holder := BitVec.ofNat 3 (s.cur % 8), dead := false, chk := 0, etag := (th.sv y).setWidth 16
          state := if b.state = 4 then 0 else b.state })) }))) ∧
      ((s.pdie (dieOf c) th.part).bslots ≤ n →
        exec (.btag st x y) s = .next (trapped s w .engArg ((encode (.btag st x y)).setWidth 64) 4 0 s))) ∧
    (∀ (e : BitVec 6) (t : State) (pa : Nat), Issues (.bwait st x e) s th → n < (s.pdie (dieOf c) th.part).bslots →
      s.entryFree s.cur th.part = true → pa = localPa c (slotOff (s.pdie (dieOf c) th.part) n) →
      t = (s.modPCore c th.part fun q => { q with bslots := vset q.bslots n { b with lim := e } }) →
      (b.state = 2 → b.tag = b.etag → exec (.bwait st x e) s = .next (retired (.bwait st x e) s (th.widen (s.blockLabel pa))
        (s.modPCore c th.part fun q => { q with bslots := (vset q.bslots n
          ({ b with lim := e, chk := b.chk ||| (1#8 <<< (s.cur % 8)) })) }))) ∧
      (b.state = 2 → b.tag ≠ b.etag → exec (.bwait st x e) s = .next (trapped s th .schedTag (BitVec.ofNat 64 pa)
        (BitVec.ofNat 64 (n * 2 ^ 32 + b.tag.toNat * 2 ^ 16 + b.etag.toNat)) (s.blockLabel pa) s)) ∧
      (b.state = 4 → exec (.bwait st x e) s = .next (trapped s th .schedMissed (BitVec.ofNat 64 pa)
        (BitVec.ofNat 64 (n * 2 ^ 32 + 4)) (s.blockLabel pa) s)) ∧
      (b.state ≠ 2 → b.state ≠ 4 → ∃ q, q.instr = .bwait st x e ∧ q.cond = .slot n false (BitVec.ofNat 64 pa) ∧ q.lim = e ∧
        q.entry = true ∧ q.acc = none ∧ exec (.bwait st x e) s = .next (parked s th q t))) ∧
    (Issues (.bpass st x) s th →
      (n < (s.pdie (dieOf c) th.part).bslots → b.state = 2 → b.bound = true → b.holder.toNat = s.cur % 8 →
        exec (.bpass st x) s = .next (retired (.bpass st x) s th ((s.endVisit b.eng 0).modPCore c th.part fun q => { q with
          bslots := vset q.bslots n { b with state := 0, leaving := true } }))) ∧
      (n < (s.pdie (dieOf c) th.part).bslots → (b.state ≠ 2 ∨ b.bound = false ∨ b.holder.toNat ≠ s.cur % 8) →
        exec (.bpass st x) s = .next (trapped s th .schedPass ((encode (.bpass st x)).setWidth 64)
          (BitVec.ofNat 64 (n + 16 * b.state.toNat + (if b.bound = true ∧ b.holder.toNat = s.cur % 8 then 0 else 256))) 0 s)))

/-! ### Moves of threads and messages -/

/-- 02 R45, R46, R51; 04 R95; 06 R156; 08 R206, R207, R211; 09 R217; 20 R411; 12 R294: results that are due are written, parks end and
expire, events are taken, and migrants leave and become resident, each as its row says.
Rests on the model's readings of log 12, 13, 14 and 26, and of log 74: a wait of a barrier ends when the notice that its phase is complete
has come to the thread's core, so one whose phase is complete and whose notice has not come still expires. -/
def Obligations.ThreadRows : Prop :=
  (∀ (tid : Nat) (s : State) (th : Thread), s.thread? tid = some th →
    (th.sched = [] → th.pend ≠ [] → (∀ w ∈ th.pend, w.due ≤ s.rot) →
      exec (.resultWrite tid) s = .next (s.setThread tid th.flush)) ∧
    (∀ (x : Sched) (d : SReg) (t : LdTy) (lab : Label) (g : Got), th.sched = [x] → x.acc.outstanding = 0 → x.due ≤ s.rot →
      x.acc.refused = none → x.dests = [.s d] → x.acc.cont = .load d t lab → x.acc.got = [g] → g.bytes.length = Rules.loadBytes t →
      exec (.resultWrite tid) s = .next (s.setThread tid (({ th with sched := [] } : Thread).putS d
        (Rules.extend (Rules.loadSigned t) (Rules.loadBytes t) (fromBytes g.bytes)) (lab ||| g.lab)))) ∧
    (∀ (p : Park) (a b : Nat) (d : SReg) (x : SVal), th.park = some p → p.cond = .divide a b d x → b ≤ s.cycle →
      exec (.divideResult tid) s = .next (s.setThread tid { (th.putS d x.val x.lab).retire p.instr with
        nextRot := max (s.ownRot tid) th.nextRot + stallOf p.instr })) ∧
    (∀ (p : Park) (a b : Nat) (d : VReg) (x : VVal) (fl : Flags), th.park = some p → p.cond = .vdivide a b d x fl none → b ≤ s.cycle →
      exec (.vectorDivideResult tid) s = .next (s.setThread tid {
        ((th.putV d x.bits x.tag x.lab).post fl x.lab).retire p.instr with
        nextRot := max (s.ownRot tid) th.nextRot + stallOf p.instr })) ∧
    (∀ (p : Park) (a b : Nat) (d : VReg) (x : VVal) (fl : Flags) (i0 i1 : Word), th.park = some p →
      p.cond = .vdivide a b d x fl (some (i0, i1)) → b ≤ s.cycle → s.mayAct (tid, th) = true →
      exec (.vectorDivideResult tid) s = .next (s.preciseTrap tid { th with park := none } .fpExc i0 i1 0 (s.rot + 1))) ∧
    (∀ p : Park, th.park = some p →
      ((∃ n, p.cond = .clock false n ∧ n ≤ s.rotQuartz.toNat) ∨
        (∃ c, p.cond = .scopeClosed c ∧ s.openIn tid th c = false) ∨ (∃ k, p.cond = .barrier k ∧ s.hasArrived k tid = false ∧ s.wakeOpen k (coreOf tid) = false) ∨
        (∃ n, p.cond = .time n ∧ n ≤ s.cycle) ∨ (∃ l, (p.cond = .homesClosed l ∨ p.cond = .held l) ∧ s.homeBusy tid th l = false)) →
      exec (.parkWake tid) s =
        .next (s.setThread tid { th with park := none, again := some ⟨p.instr, p.first, p.phase, p.data, p.lab, p.firm⟩ })) ∧
    (∀ (p : Park) (code : BitVec 16) (cls : BitVec 8) (i0 i1 : Word) (lab : Label) (pc : Word), th.park = some p →
      p.cond = .trapEntry code cls i0 i1 lab pc → s.cmds tid = [] → th.sched = [] →
      exec (.parkWake tid) s = .next (s.enterTrap tid { th with park := none } code cls i0 i1 lab pc
        (max (s.ownRot tid) th.nextRot))) ∧
    (∀ (p : Park) (n : Nat), th.park = some p → p.entry = true → p.lim.toNat < 63 → p.first + 2 ^ p.lim.toNat < s.cycle →
      p.cond = .clock false n → s.rotQuartz.toNat < n →
      exec (.waitExpired tid) s = .next (s.preciseTrap tid { th with park := none, again := none, retry := none } .waitExpired p.i0 p.i1
        p.lab (max (s.ownRot tid) th.nextRot))) ∧
    (∀ (p : Park) (k : BarKey), th.park = some p → p.entry = true → p.lim.toNat < 63 → p.first + 2 ^ p.lim.toNat < s.cycle →
      p.cond = .barrier k → s.hasArrived k tid = true ∨ s.wakeOpen k (coreOf tid) = true →
      exec (.waitExpired tid) s = .next (s.preciseTrap tid { th with park := none, again := none, retry := none } .waitExpired p.i0
        (BitVec.ofNat 64 (s.members k * 2 ^ 32 + (s.members k - s.waitedFor k))) 0 (max (s.ownRot tid) th.nextRot))) ∧
    (∀ e : PendEvent, th.te = true → th.chain = none → (∀ a, th.again = some a → a.firm = false) → th.park = none →
      (th.pendSet.find? (fun x => decide (x.cls = 1)) = some e ∨
        ((∀ x ∈ th.pendSet, x.cls ≠ 1) ∧ th.pendSet.head? = some e)) →
      exec (.takePendingEvent tid) s = .next (s.takeTrap tid { th with
        pendSet := th.pendSet.erase e, again := none, retry := none
        handling := if e.code = 0x0602 ∧ th.handling.isNone = true then some 0 else th.handling }
        e.code e.cls e.i0 e.i1 e.lab th.pc (s.rot + 1))) ∧
    (∀ (p : Park) (k pa : Nat) (va : Word), th.park = some p → p.cond = .ship k va pa → s.openEntries tid th = [] →
      ∃ t, exec (.ship tid) s = .next t ∧ t.thread? tid = none ∧ (∀ j, j ≠ tid → t.thread? j = s.thread? j) ∧ t.mem = s.mem ∧
        klist t.channels (.core (coreOf tid), .core k, .q) =
          klist s.channels (.core (coreOf tid), .core k, .q) ++ [.migrant { th with park := none, retry := none } (coreOf tid) va pa])) ∧
  (∀ (core part : Nat) (s : State) (m : Thread) (l : List Thread) (d : PDie) (tid : Nat), d = s.pdie (dieOf core) part →
    tid = core * 8 + topSlot d → d.v = true → d.migh = true → (s.pcore core part).phase = 0 → (s.pcore core part).migQ = m :: l →
    s.thread? tid = none → (∀ x ∈ (s.core core).scrubs, x.1 ≠ topSlot d) → (∀ x ∈ (s.pcore core part).vacated, x.1 ≠ topSlot d) →
    s.justFreed core (topSlot d) = false → (s.core core).outOfSvc = false →
    exec (.migrantResident core part) s = .next ((s.modPCore core part fun q => { q with migQ := l }).setThread tid
      { m with world := s.worldOf core, nextRot := if s.cycle % 8 = 0 then s.rot else s.rot + 1 }))

/-- 12 R277, Table 12.3; 08 R199; 09 R234; 11 R272; 13 R299, R304; 22 R443: messages keep the order of their channels, requests are
performed at their homes and answered, and answers complete what waits for them. A combined write stands in every channel that it came
from until its Deliver, which removes it from each.
Rests on the model's readings of log 5 and 21. -/
def Obligations.MessageRows : Prop :=
  (∀ (src dst : Node) (pl : Plane) (s : State) (l : List Item),
    (∀ m, klist s.channels (src, dst, pl) = .req m :: l → m.others = [] → exec (.deliver src dst pl) s = .next { s with
      channels := kputList s.channels (src, dst, pl) l, arrivals := kputList s.arrivals dst (klist s.arrivals dst ++ [.req m]) }) ∧
    (∀ m, klist s.channels (src, dst, pl) = .req m :: l → m.src = src → m.dst = dst → src ∉ m.others.map (·.1) →
      (m.others.map (·.1)).Nodup → ∃ t, exec (.deliver src dst pl) s = .next t ∧ klist t.channels (src, dst, pl) = l ∧
        klist t.arrivals dst = klist s.arrivals dst ++ [.req m] ∧ t.threads = s.threads ∧ t.mem = s.mem ∧
        ∀ n ∈ m.others.map (·.1), ∀ r, klist s.channels (n, dst, pl) = .joined src :: r → klist t.channels (n, dst, pl) = r) ∧
    (∀ o pa, klist s.channels (src, dst, pl) = .withdraw o pa :: l → exec (.deliver src dst pl) s = .next { s with
      channels := kputList s.channels (src, dst, pl) l
      arrivals := kputList s.arrivals dst (klist s.arrivals dst ++ [.withdraw o pa]) }) ∧
    (∀ n o i r, klist s.channels (src, dst, pl) = .resp n o i r :: l → exec (.deliver src dst pl) s = .next { s with
      channels := kputList s.channels (src, dst, pl) l, inbox := kputList s.inbox n (klist s.inbox n ++ [.resp n o i r]) })) ∧
  (∀ (a b dst : Node) (s : State) (x y : Msg) (d e : BitVec 248) (f g : BitVec 5) (l k : List Item), a ≠ b →
    klist s.channels (a, dst, .p) = .req x :: l → klist s.channels (b, dst, .p) = .req y :: k → x.req = .sumAdd d f → y.req = .sumAdd e g →
    x.pa = y.pa → x.part = y.part → x.lv = y.lv → x.inbound = y.inbound →
    ∃ (t : State) (m : Msg), exec (.combine a b dst) s = .next t ∧ klist t.channels (a, dst, .p) = .req m :: l ∧
      klist t.channels (b, dst, .p) = .joined a :: k ∧
      (∀ n ∈ y.others.map (·.1), ∀ z r, n ≠ a → n ≠ b → klist s.channels (n, dst, .p) = .joined z :: r →
        klist t.channels (n, dst, .p) = .joined a :: r) ∧ m.req = .sumAdd (d + e) (f ||| g) ∧ m.src = x.src ∧ m.owner = x.owner ∧
      m.mx = (x.mx && y.mx) ∧
      m.others = x.others ++ (y.src, y.owner, y.idx, 0) :: y.others ∧ t.threads = s.threads ∧ t.mem = s.mem) ∧
  (∀ (c : Nat) (s : State) (m : Msg) (l : List Item), klist s.arrivals (.core c) = .req m :: l → m.dst = .core c → m.others = [] →
    m.inbound = false → spaceOf m.pa = 1 → s.spills c m = none → s.waiters = [] →
    (∀ n, m.req = .read n → s.isPoisoned m.pa n = false → exec (.perform (.core c)) s = .next { s with
      arrivals := kputList s.arrivals (.core c) l
      channels := kputList s.channels (.core c, m.src, .p) (klist s.channels (.core c, m.src, .p) ++
        [.resp m.src m.owner m.idx (answer (s.bytes m.pa n) (s.blockLabel m.pa) 0)]) }) ∧
    (∀ b, m.req = .write b → s.isPoisoned m.pa b.length = false → m.lv &&& ~~~(s.blockLabel m.pa) = 0 → clears m.pa m.req = false →
      exec (.perform (.core c)) s = .next { s with
        mem := Memory.write s.mem m.pa b
        arrivals := kputList s.arrivals (.core c) l
        channels := kputList s.channels (.core c, m.src, .p) (klist s.channels (.core c, m.src, .p) ++
          [.resp m.src m.owner m.idx (answer [] (s.blockLabel m.pa) 0)]) })) ∧
  (∀ (h : Nat) (s : State) (w : Msg) (o : Owner) (pa : Nat) (l : List Item), klist s.arrivals (.hbm h) = .withdraw o pa :: l →
    s.waiters = [w] → w.owner = o → w.dst = .hbm h →
    ∃ (t : State) (r : Resp), exec (.withdrawal (.hbm h)) s = .next t ∧ t.waiters = [] ∧ r.withdrawn = true ∧ r.ok = true ∧
      klist t.channels (.hbm h, w.src, .p) = klist s.channels (.hbm h, w.src, .p) ++ [.resp w.src o w.idx r] ∧
      klist t.arrivals (.hbm h) = l ∧ t.threads = s.threads ∧ t.mem = s.mem) ∧
  (∀ (n e : Node) (s : State) (tid gen i : Nat) (r : Resp) (l : List Item) (th : Thread) (p : Park) (hs : List Node)
    (ps : List (Node × Nat × Bool)) (d : SReg)
    (ty : LdTy) (lab : Label), klist s.inbox n = .resp e (.thread tid gen) i r :: l → s.thread? tid = some th → th.gen = gen →
    th.park = some p → r.withdrawn = false → p.acc = some ⟨1, [], none, hs, [], ps, .load d ty lab⟩ →
    (r.ok = true → r.bytes.length = Rules.loadBytes ty →
      exec (.complete n) s = .next ({ s with inbox := kputList s.inbox n l }.setThread tid {
        (th.putS d (Rules.extend (Rules.loadSigned ty) (Rules.loadBytes ty) (fromBytes r.bytes)) (lab ||| r.lab)).retire
          p.instr with nextRot := max (s.ownRot tid) th.nextRot + stallOf p.instr })) ∧
    (r.ok = false → exec (.complete n) s = .next ({ s with inbox := kputList s.inbox n l }.preciseTrap tid { th with park := none }
      r.cause (BitVec.ofNat 64 (fromBytes r.bytes)) r.i1 r.lab (max (s.ownRot tid) th.nextRot)))) ∧
  (∀ (d : Nat) (s : State) (m : Msg) (ctr : Nat) (x : Word) (l : List Item), klist s.arrivals (.disp d) = .req m :: l → m.dst = .disp d →
    m.req = .dep .write ctr x → isDevReg m.pa = false → isHostWin m.pa = false → m.others = [] →
    ∃ t, exec (.depVal d) s = .next t ∧ nget (t.pdie d m.part).deps ctr = some ⟨x.extractLsb' 0 32, false,
        ((nget (s.pdie d m.part).deps ctr).getD ⟨0, false, 0⟩).lab ||| m.lv⟩ ∧
      (∀ k, k ≠ ctr → nget (t.pdie d m.part).deps k = nget (s.pdie d m.part).deps k) ∧
      klist t.channels (.disp d, m.src, .p) = klist s.channels (.disp d, m.src, .p) ++ [.resp m.src m.owner m.idx (answer [] 0 0)] ∧
      klist t.arrivals (.disp d) = l ∧ t.threads = s.threads ∧ t.mem = s.mem) ∧
  (∀ (tid gen d page a : Nat) (s : State) (m : Msg) (va : Word) (big : Bool) (q : PDie), s.waiters = [m] →
    m.req = .pool (.free page) va big → m.owner = .thread tid gen → m.dst = .pool d → m.others = [] →
    s.freeDrained m.part va big = true → q = s.pdie d m.part →
    a = q.poolRing.toNat / 2 ^ 12 % 2 ^ 40 * 4096 + 8 * (q.poolTail.toNat % 2 ^ min (q.poolRing.toNat % 64) 20) →
    s.isPoisoned a 8 = false →
    ∃ t, exec (.pfreeAppend tid) s = .next t ∧ t.waiters = [] ∧ (t.pdie d m.part).poolTail = q.poolTail + 1 ∧
      t.num a 8 = page % 2 ^ 64 ∧
      klist t.channels (.pool d, m.src, .p) = klist s.channels (.pool d, m.src, .p) ++ [.resp m.src m.owner m.idx (answer [] 0 0)] ∧
      t.threads = s.threads)

/-! ### Moves of engine threads and bead slots -/

/-- 12 R291 to R293; 15 R357, R358, R363, R373: an engine thread whose offset has passed may begin, reads its source piece by piece,
and when everything is over writes its completion object whole, under the label of its command, and is gone.
Rests on the model's readings of log 5 and 51. -/
def Obligations.EngineRows : Prop :=
  ∀ (e : Nat) (s : State) (g : Engine), nget s.engines e = some g →
    (∀ (k off n : Nat) (x : TGroup), g.offset = some (k, off) → nget s.tgroups k = some x → nget x.vcc g.core = some n → off ≤ n →
      exec (.engineStartOffset e) s = .next { s with engines := nset s.engines e { g with offset := none } }) ∧
    (∀ (off len k : Nat) (a : Word) (l : List (Nat × Word × Nat)) (t : State) (p : Place), g.kind = .tour → g.preds = [] →
      g.predSched = [] → g.offset = none → g.stopped = false → (s.pcore g.core g.part).frozenTo ≤ s.rot →
      g.todo = (off, a, len) :: l → k = pieceSize a.toNat a.toNat len →
      s.check ⟨g.core, g.part, g.world, true, false⟩ { kind := 0, size := k } a = (t, .ok p) →
      ∃ (m : Msg), m.req = .read k ∧ m.src = .core g.core ∧ m.dst = p.home ∧ m.pl = .q ∧ m.pa = p.pa ∧ m.owner = .engine e ∧
        m.part = g.part ∧ m.lv = 0 ∧ exec (.engineStep e) s = .next ({ t with engines := nset s.engines e { g with
          todo := if k = len then l else (off + k, a + BitVec.ofNat 64 k, len - k) :: l, outstanding := g.outstanding + 1 } }.request m)) ∧
    (g.outstanding = 0 → g.todo = [] → g.ready = [] → s.waiters = [] → (g.kind = .mcast ∨ (g.kind = .copy ∧ g.cause ≠ 0) ∨
        (g.kind = .tour ∧ ((g.pos = .none ∧ g.cause ≠ 0) ∨ ((g.pos = .flying ∨ g.pos = .come) ∧ g.todoStops = [])))) →
      ∃ t, exec (.finish e) s = .next t ∧ nget t.engines e = none ∧ (∀ k, k ≠ e → nget t.engines k = nget s.engines k) ∧
        t.num g.obj 1 = (if g.cancelled then 4 else if g.cause ≠ 0 then 3 else 2) ∧ t.num (g.obj + 2) 2 = g.cause.toNat ∧
        t.num (g.obj + 0x10) 8 = g.bytes % 2 ^ 64 ∧ t.num (g.obj + 0x30) 8 = s.quartz.toNat ∧
        t.blockLabel g.obj = s.blockLabel g.obj ||| g.lab ∧ (∀ a, a < g.obj ∨ g.obj + 64 ≤ a → t.num a 1 = s.num a 1) ∧
        t.threads = s.threads)

/-- 15 R365, R368, R370, R372, R374; 14 R338: a bead that reaches a free slot lands in it, waits for an occupied one, and passes a dead
one by; landed, its bytes and label stand there and it is HELD; a hold that has run out, with no bpass in the cycle in which it did, ends
the visit, and appends a revisit once; a slot whose visit has ended is left when no waiting command names it, and the bead flies to its
next stop. A copy fills its slot once it is free.
Rests on the model's readings of log 53. -/
def Obligations.BeadRows : Prop :=
  (∀ (e i : Nat) (rev : Bool) (l : List (Nat × Bool)) (s : State) (g : Engine) (x : Stop) (b : BSlot), nget s.engines e = some g →
    g.todoStops = (i, rev) :: l → g.stops[i]? = some x → b = vget (s.pcore x.core g.part).bslots x.slot →
    (g.pos = .come → g.ended = none → (s.core x.core).outOfSvc = false → (s.pcore x.core g.part).phase.toNat < 2 →
      (b.dead = false → b.leaving = false → b.state = 0 → (∀ y ∈ s.engines, y.2.pos ≠ .waiting) →
        exec (.beadArrival e) s = .next { (s.modPCore x.core g.part fun q => { q with bslots := (vset q.bslots x.slot
          ({ b with state := 1, tag := g.tag, eng := some e })) }) with engines := nset s.engines e { g with pos := .landing } }) ∧
      (b.dead = false → b.state = 2 → exec (.beadArrival e) s =
        .next { s with engines := nset s.engines e { g with pos := .waiting, clock := 0 } }) ∧
      (b.dead = true → rev = false → exec (.beadArrival e) s = .next (Rules.sentOn { s with engines := nset s.engines e { g with
        todoStops := l, pos := .flying, clock := 0, offered := false, ended := none, skipped := g.skipped ||| (1#16 <<< i) } }
        e x.core g l))) ∧
    (g.kind = .tour → g.pos = .landing → g.ended = none → b.state = 1 → b.eng = some e → b.leaving = false →
      ∃ (t : State) (pa : Nat), pa = localPa x.core (slotOff (s.pdie (dieOf x.core) g.part) x.slot) ∧
        exec (.beadLanded e) s = .next t ∧ nget t.engines e = some { g with pos := .held, written := g.len } ∧
        vget (t.pcore x.core g.part).bslots x.slot = { b with state := 2, chk := 0, fmt := g.fmt, lab := g.blab } ∧
        t.bytes pa 8192 = (assemble g.bead ++ List.replicate 8192 0).take 8192 ∧
        (∀ k, k < 32 → t.blockLabel (pa + 256 * k) = g.blab) ∧ (∀ a, a < pa ∨ pa + 8192 ≤ a → t.num a 1 = s.num a 1) ∧
        t.threads = s.threads) ∧
    (g.kind = .tour → g.ended = none → x.hold ≠ 0 → x.hold < g.clock →
      (g.pos = .waiting → rev = false → g.norev = false → exec (.holdExpiry e) s = .next (Rules.sentOn { s with
        engines := nset s.engines e { g with
          todoStops := l ++ [(i, true)], pos := .flying, clock := 0, offered := false
          missed := g.missed ||| (1#16 <<< i), revisited := g.revisited ||| (1#16 <<< i) } } e x.core g (l ++ [(i, true)]))) ∧
      (g.pos = .waiting → rev = true → exec (.holdExpiry e) s = .next (Rules.sentOn { s with engines := nset s.engines e { g with
        todoStops := l, pos := .flying, clock := 0, offered := false, missed := g.missed ||| (1#16 <<< i) } } e x.core g l)) ∧
      (g.pos = .held → exec (.holdExpiry e) s = .next { (s.modPCore x.core g.part fun q => { q with bslots := (vset q.bslots x.slot
        ({ b with state := if rev = true ∨ g.norev = true then 4 else 3, leaving := true })) }) with
          engines := nset s.engines e { g with ended := some 1 } })) ∧
    (∀ (core part n : Nat) (c : BSlot), c = vget (s.pcore core part).bslots n → c.leaving = true → s.slotNamed core part n = false →
      c.state = 0 → c.eng = some e → g.ended = some 0 →
      exec (.beadDeparture core part n) s = .next (Rules.sentOn { (s.modPCore core part fun q => { q with bslots := (vset q.bslots n
        ({ c with leaving := false, eng := none })) }) with engines := nset s.engines e { g with
          todoStops := l, pos := .flying, clock := 0, offered := false, ended := none, visited := g.visited ||| (1#16 <<< i) } }
        e core g l))) ∧
  (∀ (e n : Nat) (s : State) (g : Engine) (b : BSlot), nget s.engines e = some g → g.dslot = some n →
    b = vget (s.pcore g.core g.part).bslots n → g.todo = [] → g.outstanding = 0 → g.cause = 0 → g.slotReady = false →
    g.stopped = false → g.bytes = g.len → (b.state = 0 ∨ b.state = 4) → b.leaving = false →
    exec (.copySlotFill e) s = .next { (s.modPCore g.core g.part fun q => { q with bslots := (vset q.bslots n
      ({ b with state := 1, tag := g.tag, eng := some e })) }) with
        engines := nset s.engines e { g with slotReady := true, pos := .landing } })

/-- 15 R367, R375; 14 R330: the follow-on word of a held bead whose tag is the one expected enters the queue of the slot's holder, if it
passes the checks of a word that the holder issued; of another tag, SCHED.TAG is recorded. A copy's follow-on enters its issuer's queue,
and where the issuer is gone ENG.ORPHAN is recorded.
Rests on the model's readings of log 6. -/
def Obligations.FollowOns : Prop :=
  (∀ (e i tid : Nat) (rev : Bool) (l : List (Nat × Bool)) (s t : State) (g : Engine) (x : Stop) (b : BSlot) (th : Thread),
    nget s.engines e = some g → g.kind = .tour → g.pos = .held → g.ended = none → g.offered = false → g.todoStops = (i, rev) :: l →
    g.stops[i]? = some x → x.follow ≠ 0 → b = vget (s.pcore x.core g.part).bslots x.slot → b.bound = true →
    (s.pcore x.core g.part).phase = 0 → tid = x.core * 8 + b.holder.toNat → (waitingCmds (s.core x.core) b.holder.toNat).length < 2 →
    s.thread? tid = some th → th.preempt = false → th.part = g.part →
    t = { s with engines := nset s.engines e { g with offered := true } } →
    (b.tag ≠ b.etag → g.cause = 0 → exec (.followOnEntry e) s = .next { s with engines := nset s.engines e { g with
      offered := true, cause := causeCode .schedTag, faddr := 0, fstop := BitVec.ofNat 8 i } }) ∧
    (∀ (w : Instr) (m : MxWord), b.tag = b.etag → decode? x.follow = some w → mxWord w = some m → th.kind ≠ .control →
      mxFail w x.core { th with chain := none } t m none = none → t.slotBad x.core g.part m = false →
      ∃ (c : MxCmd) (k : Word), c.instr = w ∧ c.slot = b.holder.toNat ∧ c.eng = some e ∧ c.stop = BitVec.ofNat 8 i ∧ c.ctxl = th.ctxl ∧ c.spar = none ∧
        c.serial = s.serial ∧ (∀ j, k.getLsbD j = true ↔ m.bank.toNat ≤ j ∧ j < m.bank.toNat + m.form.kinds.length) ∧
        exec (.followOnEntry e) s = .next (Rules.enqueued { t with freeCtr := t.freeCtr + 1 } x.core c k))) ∧
  (∀ (e : Nat) (s : State) (g : Engine), nget s.engines e = some g → g.kind = .copy → g.dslot = none → g.outstanding = 0 →
    g.written = g.len → g.followDone = false → g.stopped = false → g.follow ≠ 0 → g.cause = 0 →
    (∀ x ∈ (s.pcore g.core g.part).vacated, x.2.gen ≠ g.gen) →
    (s.thread? g.tid = none → exec (.copyFollowOn e) s = .next { s with engines := nset s.engines e { g with
      followDone := true, cause := causeCode .engOrphan, faddr := 0, fstop := 0xFF } }) ∧
    (∀ (th : Thread) (w : Instr) (m : MxWord) (d : TReg), s.thread? g.tid = some th → th.gen = g.gen → th.part = g.part →
      coreOf g.tid = g.core → (waitingCmds (s.core g.core) (slotOf g.tid)).length < 2 → decode? g.follow = some w → mxWord w = some m →
      m.b = .tile d → th.kind ≠ .control → mxFail w g.core { th with chain := none } s m none = none →
      ∃ (c : MxCmd) (k : Word), c.instr = w ∧ c.slot = slotOf g.tid ∧ c.eng = some e ∧ c.stop = 0xFF ∧ c.ctxl = th.ctxl ∧ c.spar = none ∧
        (∀ j, k.getLsbD j = true ↔ m.bank.toNat ≤ j ∧ j < m.bank.toNat + m.form.kinds.length) ∧
        exec (.copyFollowOn e) s = .next { Rules.enqueued { s with freeCtr := s.freeCtr + 1 } g.core c k with
          engines := nset s.engines e { g with followDone := true } }))

/-! ### Timed groups, dispatchers, and the context switch -/

/-- 08 R209, R210, R212, R215; 09 R238; 12 R296: a freeze writes a partition's fixed-latency results (02 R50) and puts its threads' words off
by a rotation; a late scheduled access pauses its group, whose other cores are told, and its arrival names the rotation it resumes in; a
lag above the budget ends timed mode with TIMING.LAG; a group starts at its quartz value, and the bound of tgstart expires those that
have arrived.
Rests on the model's readings of log 42 and 71. -/
def Obligations.TimedRows : Prop :=
  (∀ (core part n : Nat) (s : State), s.cycle % 8 = 0 → 0 < n → (s.pcore core part).frozenTo ≤ s.rot → nwf s.threads = true →
    ∃ t, exec (.freeze core part n) s = .next t ∧ (t.pcore core part).frozenTo = s.rot + n ∧ t.mem = s.mem ∧
      (∀ tid th, s.thread? tid = some th → coreOf tid = core → th.part = part → th.timed = none →
        ∃ u, t.thread? tid = some u ∧ u.nextRot = (if s.rot ≤ th.nextRot then th.nextRot + 1 else th.nextRot) ∧ u.pc = th.pc ∧
          u.s = th.flush.s ∧ u.pend = [] ∧ u.park = th.park) ∧
      (∀ tid, coreOf tid ≠ core ∨ (∀ th, s.thread? tid = some th → th.part ≠ part) → t.thread? tid = s.thread? tid)) ∧
  (∀ (gid : Nat) (s : State) (g : TGroup), nget s.tgroups gid = some g →
    (∀ (tid : Nat) (th : Thread) (x : Sched), g.started = true → g.pausedFrom = none → g.tids = [tid] → s.thread? tid = some th →
      th.timed = some gid → th.sched = [x] → x.acc.outstanding ≠ 0 → 8 * x.due ≤ s.cycle + 4 → s.rot < x.due →
      exec (.pauseNotice gid) s = .next { ((g.cores.filter fun c => decide (c ≠ coreOf tid)).foldl
        (fun s c => s.send (.core (coreOf tid)) (.core c) .k (.pause gid)) s).tick1 with tgroups := nset s.tgroups gid { g with
        pausedFrom := some x.due, resumeAt := none, late := some (tid, x.id) } }) ∧
    (∀ (tid n : Nat) (th : Thread) (x : Sched), g.pausedFrom = some n → g.resumeAt = none → g.late = some (tid, x.id) →
      s.thread? tid = some th → th.sched = [x] → x.acc.outstanding = 0 →
      exec (.pauseResume gid) s = .next { s with tgroups := nset s.tgroups gid { g with resumeAt := some ((s.cycle + 4 + 7) / 8) } }) ∧
    (∀ (core tid lag : Nat) (th : Thread), g.started = true → g.budget ≠ 0 → core ∈ g.cores → g.tids = [tid] →
      s.thread? tid = some th → th.timed = some gid → th.pendSet.length < 64 →
      lag = s.quartz.toNat - (g.t0.getD 0 + (nget g.vcc core).getD 0) → g.budget < lag →
      ∃ t u, exec (.timingLag gid core) s = .next t ∧ nget t.tgroups gid = none ∧ t.thread? tid = some u ∧ u.timed = none ∧
        u.pendSet = th.pendSet ++ [⟨causeCode .timingLag, 1, BitVec.ofNat 64 lag, BitVec.ofNat 64 g.budget, 0⟩] ∧ u.pc = th.pc ∧
        u.s = th.s ∧ (∀ l x, g.launch = some l → nget s.launches l = some x → nget t.launches l = some { x with timing := true })) ∧
    (∀ (n tid : Nat) (th : Thread) (p : Park), g.nextT0 = some n → s.cycle % 8 = 0 → n ≤ s.quartz.toNat → g.tids = [tid] →
      s.thread? tid = some th → th.park = some p → p.cond = .tgstart gid →
      (g.arrived = [] → p.instr = .nop 0 → ∃ h : TGroup, h.t0 = some n ∧ h.started = true ∧ h.nextT0 = none ∧ h.budget = g.budget ∧
        h.rlat = g.rlat ∧ h.tids = g.tids ∧ (∀ c ∈ g.cores, nget h.vcc c = some 0) ∧ h.pausedFrom = none ∧
        exec (.timedGroupStart gid) s = .next ({ s with tgroups := nset s.tgroups gid h }.setThread tid
          { th with park := none, nextRot := s.rot })) ∧
      (∀ (st : Stall) (y : SReg) (v : Word), g.arrived = [(tid, v)] → p.instr = .tgstart st y → th.strId = 0 →
        ∃ h : TGroup, h.t0 = some n ∧ h.started = true ∧ h.nextT0 = none ∧ h.budget = v.toNat % 2 ^ 32 ∧
          h.rlat = (if v.toNat / 2 ^ 32 % 2 ^ 17 = 0 then 512 else v.toNat / 2 ^ 32 % 2 ^ 17) ∧ h.arrived = [] ∧
          (∀ c ∈ g.cores, nget h.vcc c = some 0) ∧
          exec (.timedGroupStart gid) s = .next ({ s with tgroups := nset s.tgroups gid h }.setThread tid
            { th with park := none, again := some ⟨p.instr, p.first, p.phase, p.data, p.lab, true⟩, nextRot := s.rot }))) ∧
    (∀ (tid : Nat) (v : Word) (th : Thread), g.arrived = [(tid, v)] → g.nextT0 = none → g.firstAt + 2 ^ 20 < s.cycle →
      s.thread? tid = some th →
      exec (.tgstartBoundExpiry gid) s = .next ({ s with tgroups := nset s.tgroups gid { g with arrived := [] } }.preciseTrap tid
        { th with park := none, again := none, retry := none } .waitExpired 5
        (BitVec.ofNat 64 (g.size * 2 ^ 32 + 1)) 0 (max (s.ownRot tid) th.nextRot))))

/-- 08 R194, R197 to R202; 09 R224: a dispatcher checks its launch and deals a group, the lowest of the groups that come next on their
units and have a place, one strand in the same free slot of every core of the unit, in the core's world, as a rotation ends; a counter that is poisoned fails a
launch that has not begun; a launch ages, and completes when its groups, migrants and engine commands have ended: DONEDEP goes down and
the watchdog starts anew. A barrier phase completes when no member is waited for and no arrival is under way, and the cores of its
members are told.
Rests on the model's readings of log 41, 43 and 74. -/
def Obligations.DispatchRows : Prop :=
  (∀ (die part lid : Nat) (s : State) (x : Launch), s.launches = [(lid, x)] → x.die = die → x.part = part → x.queued = true →
    s.launchReady x = true →
    (x.checked = false → s.launchFail x (s.unitsOf part x.desc) = 0 → exec (.groupDeal die part) s =
      .next { s with launches := nset s.launches lid { x with checked := true, units := s.unitsOf part x.desc } }) ∧
    (x.checked = true → s.depPoison x = true → x.dealt = 0 → ∃ u : State, exec (.groupDeal die part) s = .next (u.writeStatus x
      (BitVec.ofNat 64 (2 + x.okGroups * 2 ^ 32))) ∧ nget u.launches lid = none ∧ u.threads = s.threads ∧ u.mem = s.mem ∧
      ∀ c, x.desc.donedep.getLsbD 15 = true → nget (s.pdie x.die x.part).deps (x.desc.donedep.toNat % 256) = some c →
        nget (u.pdie x.die x.part).deps (x.desc.donedep.toNat % 256) = some ⟨c.val, true, c.lab ||| x.ctxl⟩) ∧
    (∀ (v : Nat) (u : List Nat) (k : Nat), x.checked = true → s.depPoison x = false → s.cycle % 8 = 0 → x.desc.cores = false →
      x.desc.timed = false → v < x.units.length → u = x.units.getD v [] → u.Nodup → nextGroup x v < x.desc.groups → s.groupSlot lid x u = some k → k < 8 →
      (∀ w, w < x.units.length → nextGroup x w < nextGroup x v → s.groupSlot lid x (x.units.getD w []) = none) →
      ∃ t y, exec (.groupDeal die part) s = .next t ∧ nget t.launches lid = some y ∧ y.dealt = x.dealt + 1 ∧
        dealtTo y v = dealtTo x v + 1 ∧ y.running = x.running ++ [⟨nextGroup x v, v, u.map fun c => c * 8 + k, [], false⟩] ∧ t.mem = s.mem ∧
        (∀ n c, u[n]? = some c → ∃ th, t.thread? (c * 8 + k) = some th ∧ th.kind = .compute ∧ th.part = part ∧ th.pc = x.desc.entry ∧
          th.grpId = BitVec.ofNat 32 (nextGroup x v) ∧ th.grpN = BitVec.ofNat 32 x.desc.groups ∧ th.strId = BitVec.ofNat 2 n ∧
          th.strN = BitVec.ofNat 3 u.length ∧ th.arg = x.desc.arg ∧ th.ctxl = x.ctxl ∧ th.launch = some lid ∧ th.te = true ∧
          th.park = none ∧ th.world = s.worldOf c ∧ ∀ r, th.s.get r = ⟨0, 0⟩) ∧
        (∀ j, (∀ c ∈ u, j ≠ c * 8 + k) → t.thread? j = s.thread? j))) ∧
  (∀ (lid : Nat) (s : State) (x : Launch), nget s.launches lid = some x →
    (x.queued = true → x.level < 7 → x.since + (s.pdie x.die x.part).ageLim.toNat < s.cycle →
      exec (.launchAging lid) s = .next { s.tick1 with launches := nset s.launches lid { x with
        level := x.level + 1, since := s.cycle, order := s.serial } }) ∧
    (x.queued = false → (∀ g ∈ x.running, g.tids = []) → x.migrants = 0 →
      (∀ e ∈ s.engines, e.2.launch ≠ some lid) → s.goneOpen x.part x.gone = false →
      ∃ (u : State) (y : Launch), exec (.launchCompletion lid) s = .next (u.writeStatus y (BitVec.ofNat 64
          ((if x.depPsn then 2 else if x.poisoned then 1 else if x.timing then 6 else if x.killed then 7 else 0) +
            (x.okGroups + (x.running.filter fun (g : Group) => !g.killed).length) * 2 ^ 32))) ∧
        y.desc = x.desc ∧ y.ctxl = x.ctxl ∧ y.die = x.die ∧ y.part = x.part ∧ nget u.launches lid = none ∧
        (∀ k, k ≠ lid → nget u.launches k = nget s.launches k) ∧ u.threads = s.threads ∧ u.mem = s.mem ∧
        (u.pdie x.die x.part).wdCnt = 0 ∧ (u.pdie x.die x.part).hangSent = false ∧
        (∀ c, x.poisoned = false → x.desc.donedep.getLsbD 15 = true →
          nget (s.pdie x.die x.part).deps (x.desc.donedep.toNat % 256) = some c →
          nget (u.pdie x.die x.part).deps (x.desc.donedep.toNat % 256) =
            some ⟨if c.val = 0 then 0 else c.val - 1, c.psn, c.lab ||| x.ctxl⟩))) ∧
  (∀ (k : BarKey) (s : State) (b : Barrier), kget s.barriers k = some b → b.arrived ≠ [] → s.waitedFor k = 0 → s.arrivalOpen k = false →
    exec (.barrierComplete k) s = .next ((arrivedCores b).foldl (fun s c => s.sendNotice k (barNode k) (.core c))
      { s with barriers := kset s.barriers k ⟨b.phase + 1, []⟩ }))

/-- 20 R428, R429; 15 R375; 21 R436: a request at PHASE 0 delivers PREEMPT to every compute thread and migrant of the partition on the
core; those to which it was delivered and that have not left in time are killed with reason 6; the drain limit stops a copy; with nothing left to drain the partition
is switched out; a request to resume restarts the vacated slots at TRAP.VEC with RESUME as their cause. Requests at another PHASE are
ignored.
Rests on the model's readings of log 39 and 40. -/
def Obligations.SwitchRows : Prop :=
  ∀ (core part : Nat) (s : State) (p : PCore), p = s.pcore core part →
    (p.phase ≠ 0 → exec (.cswCtlReq core part) s = .next s) ∧
    (∀ (j : Nat) (w : Thread), p.phase = 0 → j < 8 → s.thread? (core * 8 + j) = some w → w.part = part → w.kind ≠ .control →
      ∃ t, exec (.cswCtlReq core part) s = .next t ∧ (t.pcore core part).phase = 1 ∧ (t.pcore core part).reqAt = s.cycle ∧
        (t.pcore core part).vacated = [] ∧ t.mem = s.mem ∧
        (∀ k th, k < 8 → s.thread? (core * 8 + k) = some th → th.part = part → th.kind ≠ .control → th.pendSet.length < 64 →
          t.thread? (core * 8 + k) = some { th with
            preempt := true, pendSet := th.pendSet ++ [⟨0x0602, 2, BitVec.ofNat 64 (p.drain.toNat * 2 ^ 16 + 1), 0, 0⟩] }) ∧
        (∀ k th, s.thread? k = some th → coreOf k ≠ core ∨ th.part ≠ part ∨ th.kind = .control → t.thread? k = some th)) ∧
    (p.phase = 0 → (∀ x ∈ s.threads, coreOf x.1 = core → x.2.part = part → x.2.kind = .control) →
      ∃ t, exec (.cswCtlReq core part) s = .next t ∧ (t.pcore core part).phase = 2 ∧ (t.pcore core part).phase2At = s.cycle ∧
        t.threads = s.threads ∧ t.mem = s.mem) ∧
    (∀ tid, p.phase = 1 → p.reqAt + 2 ^ 20 ≤ s.cycle → (s.threads.filter fun x =>
        decide (coreOf x.1 = core) && decide (x.2.part = part) && decide (x.2.kind ≠ .control) && x.2.preempt).map (·.1) = [tid] →
      exec (.preemptTimeout core part) s = .next (s.kill tid 6)) ∧
    (∀ e g, p.phase = 2 → p.phase2At + p.drain.toNat ≤ s.cycle → s.engines = [(e, g)] → g.core = core → g.part = part →
      g.ctrl = false → g.kind = .copy → g.stopped = false → g.finished = false →
      exec (.drainLimit core part) s = .next { s with engines := [(e, { g with stopped := true, todo := [], ready := [] })] }) ∧
    (p.phase = 2 → (∀ x ∈ s.engines, x.2.core = core → x.2.part = part → x.2.ctrl = true) →
      exec (.switchedOut core part) s = .next (s.modPCore core part fun q => { q with phase := 3 })) ∧
    (p.phase ≠ 3 → exec (.cswCtlRes core part) s = .next s) ∧
    (∀ k old, p.phase = 3 → p.spill = [] → p.vacated = [(k, old)] →
      ∃ t u, exec (.cswCtlRes core part) s = .next t ∧ (t.pcore core part).phase = 0 ∧ (t.pcore core part).vacated = [] ∧
        (t.pcore core part).migQ = p.migQ ++ p.spillMig ∧ t.mem = s.mem ∧ t.thread? (core * 8 + k) = some u ∧
        u.pc = (s.pp part).trapVec ∧ u.te = false ∧ u.ctxl = 0 ∧ u.tcause = 0x0000000200000603#64 ∧ u.tinfo0 = BitVec.ofNat 64 k ∧
        u.preempt = true ∧ u.pendSet = old.pendSet ∧ u.kind = old.kind ∧ u.launch = old.launch ∧ u.grpId = old.grpId ∧ u.arg = old.arg ∧ u.world = old.world ∧
        (∀ j, j ≠ core * 8 + k → t.thread? j = s.thread? j))

/-! ### What comes from outside the cores -/

/-- 20 R426, R427, R432 and Table 20.5; 22 R448, R449: an error that cannot be corrected kills its thread, or poisons what it strikes;
a scrub ends, and frees its slot from the rotation after; the watchdog delivers HANG once; an interrupt request travels to the host-link
node, and is sent, recorded or dropped as the function's state and stamp say.
Rests on the model's readings of log 9, 55 and 75. -/
def Obligations.ErrorRows : Prop :=
  (∀ (s : State) (tid : Nat) (th : Thread), s.thread? tid = some th →
    exec (.uncorrectableError (.register tid)) s = .next (s.kill tid 1) ∧
    (∀ p, th.park = some p → p.entry = true → exec (.uncorrectableError (.waitEntry tid)) s = .next (s.kill tid 3))) ∧
  (∀ (s : State) (pa : Nat), (s.home pa).isSome = true → spaceOf pa ≠ 3 →
    exec (.uncorrectableError (.memory pa)) s = .next { s with
      poison := nset s.poison (if spaceOf pa = 1 then pa / 8 else pa / 64 * 8) true }) ∧
  (∀ (s : State) (core b : Nat), b < 64 → ∃ t, exec (.uncorrectableError (.bank core b)) s = .next t ∧ t.threads = s.threads ∧
    t.mem = s.mem ∧ ∀ j, bankOf (t.core core) j =
      if j = b then { bankOf (s.core core) b with poisoned := true } else bankOf (s.core core) j) ∧
  (∀ (s : State) (tid n : Nat), (s.core (coreOf tid)).scrubs = [(slotOf tid, n)] →
    exec (.scrubEnd tid) s = .next ((s.modCore (coreOf tid) fun c => { c with scrubs := [] }).noteFreed (coreOf tid) (slotOf tid)) ∧
    ∀ t part, exec (.scrubEnd tid) s = .next t → t.slotFree part (coreOf tid) (slotOf tid) = false) ∧
  (∀ (s : State) (die part c : Nat) (th : Thread) (p : PDie), p = s.pdie die part → p.wdLim ≠ 0 → p.wdLim ≤ p.wdCnt → p.hangSent = false →
    s.lowCore die = some c → s.thread? (c * 8 + ctrlSlot (s.pdie (dieOf c) part)) = some th → th.pendSet.length < 64 →
    exec (.hang die part) s = .next ((s.setThread (c * 8 + ctrlSlot (s.pdie (dieOf c) part)) { th with
      pendSet := th.pendSet ++ [⟨0x0605, 2, p.wdCnt, p.wdLim, 0⟩] }).modPDie die part fun q => { q with hangSent := true })) ∧
  (∀ (s : State) (part : Nat) (vec : BitVec 8) (lab : Label),
    (lab &&& ~~~(s.owner part) = 0 → exec (.intReq part vec lab) s =
      .next (s.send (.core 0) (.host 0) .k (.int part vec (s.pp part).vfGen))) ∧
    (lab &&& ~~~(s.owner part) ≠ 0 → exec (.intReq part vec lab) s = .next (s.modPP part fun p => { p with denied := p.denied + 1 }))) ∧
  (∀ (s : State) (part : Nat) (vec : BitVec 8) (gen : BitVec 12) (l : List (BitVec 8 × BitVec 12)), s.fixed.form = .m →
    (s.pp part).intReqs = (vec, gen) :: l →
    (gen = (s.pp part).vfGen → (s.pp part).vfState = 0 → exec (.intReqArrival part) s =
      .next { (s.modPP part fun p => { p with intReqs := l }) with msix := s.msix ++ [(part, vec)] }) ∧
    (gen = (s.pp part).vfGen → (s.pp part).vfState = 1 ∨ (s.pp part).vfState = 2 → ∃ t, exec (.intReqArrival part) s = .next t ∧
      t.msix = s.msix ∧ (t.num ((s.pp part).vfPir.toNat + vec.toNat / 8) 1).testBit (vec.toNat % 8) = true ∧ t.threads = s.threads) ∧
    (gen ≠ (s.pp part).vfGen ∨ (s.pp part).vfState = 3 → ∃ t, exec (.intReqArrival part) s = .next t ∧ t.msix = s.msix ∧
      t.num ((s.pp part).vfPir.toNat + 36) 4 = (s.num ((s.pp part).vfPir.toNat + 36) 4 + 1) % 2 ^ 32 ∧ t.threads = s.threads)) ∧
  (∀ (s : State) (part : Nat), s.fixed.form = .m → (s.pp part).vfState ≠ 3 →
    exec (.vfDeschedule part) s = .next (s.modPP part fun p => { p with vfState := 1 }) ∧
    exec (.vfReset part) s = .next (s.modPP part fun p => { p with vfState := 3 }) ∧
    ((s.pp part).vfState = 0 → exec (.vfRun part) s = .next s) ∧
    ((s.pp part).vfState ≠ 0 → ∃ t, exec (.vfRun part) s = .next t ∧ (t.pp part).vfState = 0 ∧ t.threads = s.threads ∧
      t.num (s.pp part).vfPir.toNat 32 = 0 ∧ (∀ v : BitVec 8, (s.num (s.pp part).vfPir.toNat 32).testBit v.toNat = true →
        (part, v) ∈ t.msix) ∧ s.msix <+: t.msix) ∧
    (∃ t, exec (.vfPause part) s = .next t ∧ (t.pp part).vfState = 2 ∧ t.mem = s.mem ∧
      ∀ d l, d < s.diesOf → l < liveN (s.die d) → (s.pdie d part).v = true →
        (t.pcore (d * 1024 + l) part).phase ≠ 0))

/-- 18 R397; 22 R447, R450: an inbound read of a location that fits the partition's O answers with its bytes, of another answers nothing
and counts a denial; an inbound write stores its bytes under the owner's label; a write of MBOX fills its word; a function of a partition
that is not configured answers nothing; a budget's epoch ends.
Rests on the model's readings of log 45 and 46. -/
def Obligations.HostRows : Prop :=
  (∀ (s : State) (fab : Bool) (part pa c : Nat), s.fixed.form = .m → s.bootMode = 1 →
    (fab = true ∨ ∃ d, d < 2 ∧ (s.pdie d part).v = true) → pa % 8 = 0 → spaceOf pa = 1 → isVfPage pa = false →
    s.inboundHome fab part pa { kind := 0, size := 8 } = some (.core c) → s.inboundBarred fab part = false → (∀ p, (s.pcore c p).phase ≠ 3) → s.waiters = [] →
    s.isPoisoned pa 8 = false →
    (s.blockLabel pa &&& ~~~(s.owner part) = 0 → exec (.inboundRead fab part pa 8) s =
      .next { s with freeCtr := s.freeCtr + 1, hostReads := some (s.bytes pa 8) :: s.hostReads }) ∧
    (s.blockLabel pa &&& ~~~(s.owner part) ≠ 0 → exec (.inboundRead fab part pa 8) s =
      .next { (s.modPP part fun p => { p with denied := p.denied + 1 }) with
        freeCtr := s.freeCtr + 1, hostReads := none :: s.hostReads })) ∧
  (∀ (s : State) (fab : Bool) (part pa c : Nat) (l : List Byte), s.fixed.form = .m → s.bootMode = 1 →
    (fab = true ∨ ∃ d, d < 2 ∧ (s.pdie d part).v = true) → pa % 8 = 0 → spaceOf pa = 1 → isVfPage pa = false → l.length = 8 → s.inboundHome fab part pa { kind := 1, size := 8 } = some (.core c) →
    s.inboundBarred fab part = false → (∀ p, (s.pcore c p).phase ≠ 3) → s.waiters = [] →
    s.owner part &&& ~~~(s.blockLabel pa) = 0 →
    ∃ t, exec (.inboundWrite fab part pa l) s = .next t ∧ t.bytes pa 8 = l ∧ t.isPoisoned pa 8 = false ∧
      t.hostReads = some [] :: s.hostReads ∧ (∀ a, a < pa ∨ pa + 8 ≤ a → t.num a 1 = s.num a 1) ∧ t.threads = s.threads) ∧
  (∀ (s : State) (part : Nat), (∀ d, d < 2 → (s.pdie d part).v = false) →
    (∀ pa n, isDevReg pa = false → exec (.inboundRead false part pa n) s = .next (s.answerHost none)) ∧
    (∀ pa l, exec (.inboundWrite false part pa l) s = .next (s.answerHost none)) ∧
    (∀ v, exec (.mbox part v) s = .next (s.answerHost none))) ∧
  (∀ (s : State) (part pa c : Nat) (v : Word), s.fixed.form = .m → s.bootMode = 1 → (∃ d, d < 2 ∧ (s.pdie d part).v = true) →
    pa = (s.pp part).mboxAddr.toNat → pa % 8 = 0 →
    spaceOf pa = 1 → s.inboundHome false part pa { kind := 1, size := 8, fe := true } = some (.core c) →
    s.inboundBarred false part = false → (∀ p, (s.pcore c p).phase ≠ 3) → s.waiters = [] →
    s.owner part &&& ~~~(s.blockLabel pa) = 0 →
    ∃ t, exec (.mbox part v) s = .next t ∧ t.num pa 8 = v.toNat ∧ t.isFull pa = true ∧ t.isPoisoned pa 8 = false ∧
      t.hostReads = some [] :: s.hostReads ∧ (∀ a, a < pa ∨ pa + 8 ≤ a → t.num a 1 = s.num a 1) ∧ t.threads = s.threads) ∧
  (∀ (s : State) (part : Nat), (s.pp part).epochAt + Config.epochLen ≤ s.cycle →
    exec (.budgetEpoch part) s = .next (s.modPP part fun p => { p with
      epochAt := s.cycle / Config.epochLen * Config.epochLen, spent := Vector.replicate 3 0 }))

/-- 22 R439, R446, R452; 23 R460, R461: links narrow by one step and widen at once, on both dies of a form that has two; the quartz is slewed
at most once in 1,024 cc; a checkpoint holds device memory, changes no memory but the host's, and restores it on its own device; sags
are counted, a throttle begins and ends at a rotation and counts its rotations in PWR.THR as they end, and a stack's scrub is counted once in
2^24 cc with the lines that are homed in it.
Rests on the model's readings of log 49, 61 and 72 (that the stretch goes on for exactly 256 cc). -/
def Obligations.PowerRows : Prop :=
  (∀ (s : State) (row : Nat) (w : BitVec 2), s.fixed.form ≠ .d → w = vget (s.die 0).links row →
    (w.toNat < 2 → exec (.linkNarrow row) s = .next { s with
      dies := s.dies.map fun (d : Die) => { d with links := vset d.links row (w + 1), narrow := d.narrow + 1 } }) ∧
    (w ≠ 0 → exec (.linkWiden row) s = .next { s with
      dies := s.dies.map fun (d : Die) => { d with links := vset d.links row 0, narrow := d.narrow + 1 } })) ∧
  (∀ (s : State), s.fixed.form = .m → (∃ p, p < 4 ∧ (s.pp p).podCfg.extractLsb' 0 16 ≠ 0 ∧ (s.pp p).podCfg.getLsbD 40 = false) →
    (∀ c, s.slewAt = some c → c + 1024 ≤ s.cycle) →
    exec (.quartzSlew true) s = .next { s with quartz := s.quartz + 1, slewAt := some s.cycle } ∧
    exec (.quartzSlew false) s = .next { s with slewHold := true, slewAt := some s.cycle }) ∧
  (∀ (s : State), s.bootMode = 1 → s.fixed.form = .m → ∃ (x : Sealed) (m : List Host.Cell), exec .checkpoint s = .next { s with
      sealedImage := some x, freeCtr := s.freeCtr + 1, mem := m } ∧
    (∀ a, isHostWin a = false → Memory.get m a = Memory.get s.mem a) ∧
    x.serial = s.fixed.serial ∧ ∀ c, c ∈ x.mem ↔ c ∈ s.mem ∧ (spaceOf c.1 = 0 ∨ spaceOf c.1 = 2)) ∧
  (∀ (s : State) (x : Sealed), s.bootMode = 1 → s.fixed.form = .m → s.sealedImage = some x → x.serial = s.fixed.serial → Memory.wf x.mem = true →
    (∀ c ∈ x.mem, spaceOf c.1 = 0 ∨ spaceOf c.1 = 2) →
    ∃ t, exec .checkpointRestore s = .next t ∧
      (∀ a, (spaceOf a = 0 ∨ spaceOf a = 2) → Memory.get t.mem a = Memory.get x.mem a) ∧
      (∀ a, (spaceOf a = 1 ∨ spaceOf a = 3) → Memory.get t.mem a = Memory.get s.mem a) ∧ t.threads = s.threads ∧ t.full = s.full) ∧
  (∀ (s : State),
    (s.sag = false → exec .supplyDroop s = .next { s with
      sag := true, dies := s.dies.map fun (d : Die) => { d with droopEvt := d.droopEvt + 1 } }) ∧
    (s.sag = true → exec .sagEnd s = .next { s with sag := false, sagEnd := s.cycle + 256 }) ∧
    (s.cycle % 8 = 0 → s.throttled = false → exec .powerThrottle s = .next { s with throttled := true }) ∧
    (s.cycle % 8 = 0 → s.throttled = true → exec .backUnderCap s = .next { s with throttled := false }) ∧
    (∀ d, d < 2 → (s.tick.die d).pwrRot = if s.throttled = true ∧ s.cycle % 8 = 7 then (s.die d).pwrRot + 1 else (s.die d).pwrRot)) ∧
  (∀ (s : State) (stack ce : Nat), stack < 8 → s.fixed.form ≠ .d →
    (vget (s.die (stack / 4)).scrubbed (stack % 4) < s.cycle / 2 ^ 24 →
      exec (.hbmScrub stack ce []) s = .next (s.modDie (stack / 4) fun d => { d with
        hbmCe := vset d.hbmCe (stack % 4) (vget d.hbmCe (stack % 4) + BitVec.ofNat 32 ce)
        hbmUe := vset d.hbmUe (stack % 4) (vget d.hbmUe (stack % 4) + 0)
        scrubbed := vset d.scrubbed (stack % 4) (s.cycle / 2 ^ 24) }) ∧
      (∀ pa n, s.home pa = some (.hbm n) → n / 32 = stack → ∃ t, exec (.hbmScrub stack ce [pa]) s = .next t ∧
        nget t.poison (poisonKey pa) = some true ∧
        vget (t.die (stack / 4)).hbmUe (stack % 4) = vget (s.die (stack / 4)).hbmUe (stack % 4) + 1 ∧
        t.mem = s.mem ∧ t.threads = s.threads)) ∧
    (s.cycle / 2 ^ 24 ≤ vget (s.die (stack / 4)).scrubbed (stack % 4) → ∀ ue, exec (.hbmScrub stack ce ue) s = .next s))

/-- 23 R453, R455, R458: power-good resets the package and begins a start; a start that is not done in time fails with reason 8, and one
whose routers have not all reported in time with reason 2; discovery spreads from router to router; BOOT.OK confirms a start, after which
firmware may raise SVN.MIN to its own SVN; a loss of power leaves what nonvolatile store holds, and the host's memory. Power-good gives
TRAP.VEC the reset value that firmware has written.
Rests on the model's readings of log 48 and 76. -/
def Obligations.BootRows : Prop :=
  (∀ (s : State) (env : BootEnv), ∃ t, exec (.powerGood env) s = .next t ∧ t.stage = 1 ∧ t.bootEnv = some env ∧ t.quartz = 0 ∧
    t.cycle = 0 ∧ t.threads = [] ∧ t.mem = s.mem.filter (fun c => isHostWin c.1) ∧ t.bootMode = 0 ∧ t.fixed = s.fixed ∧
    t.store = s.store ∧ t.pwrCap = 2800 ∧ ∀ n, n < 4 → (t.pp n).trapVec = vget s.fixed.trapVecs n) ∧
  (∀ (s : State), 1 ≤ s.stage → s.stage < 7 → s.powerAt + Config.startLimit ≤ s.cycle →
    ∃ t, exec .startTimerExpiry s = .next t ∧ t.stage = 1 ∧ t.fixed = { s.fixed with recorded := some 8 } ∧ t.threads = [] ∧
      t.mem = s.mem.filter fun c => isHostWin c.1) ∧
  (∀ (s : State) (d x y : Nat), s.stage = 3 → d < s.diesOf → x < 32 → y < 32 → nget s.found (d * 1024 + y * 32 + x) = none →
    ((x = 0 ∧ y = 0) ∨ (0 < x ∧ nget s.found (d * 1024 + y * 32 + (x - 1)) ≠ none) ∨
      (0 < y ∧ nget s.found (d * 1024 + (y - 1) * 32 + x) ≠ none)) →
    s.env.deadRouters.contains (d * 1024 + y * 32 + x) = false →
    exec (.discoveryFlit d x y) s = .next { s with found := nset s.found (d * 1024 + y * 32 + x) true }) ∧
  (∀ (s : State), s.stage = 3 → s.found.length < 1024 * s.diesOf →
    Config.discoveryNc ≤ Config.ncPerCc * (s.cycle - s.powerAt) →
    ∃ t, exec .discoveryTimeout s = .next t ∧ t.stage = 1 ∧ t.fixed = { s.fixed with recorded := some 2 } ∧ t.threads = []) ∧
  (∀ (s : State), (s.bootMode = 1 → ∃ m : BitVec 32, exec .bootOk s = .next { s with
      freeCtr := s.freeCtr + 1, fixed := { s.fixed with started := false, failN := 0, svnMin := m } } ∧
      (m = s.fixed.svnMin ∨ m = BitVec.ofNat 32 (fromBytes (Memory.read s.store 4 4)) ∧ s.fixed.svnMin.toNat < m.toNat)) ∧
    (s.bootMode = 2 → ∃ t, exec .bootOk s = .next t ∧ t.stage = 1 ∧ t.bootMode = 0 ∧
      t.fixed = { s.fixed with started := false, failN := 0 } ∧ t.threads = [])) ∧
  (∀ (s : State), ∃ t, exec .powerLoss s = .next t ∧ t.fixed = s.fixed ∧ t.store = s.store ∧ t.sealedImage = s.sealedImage ∧
    t.threads = [] ∧ t.mem = s.mem.filter (fun c => isHostWin c.1) ∧ t.bootMode = 0 ∧ t.stage = 0)

/-- 08 R174; 11 R247, R270; 14 R347; 18 R388; 20 R427, R431; 23 R456 to R459: requests and registers written from outside. A request that
passes its checks configures its partition and starts a control thread at TRAP.VEC on every live core of the die, with its local store
cleared; one that fails gives its code, and one of SMASK 0 takes the partition off the die; PART.OWN follows either. While the cores are
held in reset, or on a die that the form has not, a request does nothing.
Rests on the model's readings of log 47 and 56; that firmware writes SERIAL is the model's choice of log 62, that an invalidation of stage 2
drops every leaf that stage 2 has mapped that of log 8, and that a write of PWR.CAP only keeps the value that of log 49. -/
def Obligations.ConfigRows : Prop :=
  (∀ (s : State) (die part : Nat) (v : Word), s.bootMode = 0 ∨ s.diesOf ≤ die → exec (.cfgReq die part v) s = .next s) ∧
  (∀ (s : State) (die part : Nat) (v : Word), part < 4 → die < s.diesOf → s.bootMode ≠ 0 → (s.die die).cfgBusy = false →
    (s.cfgCheck die part v ≠ 0 → exec (.cfgReq die part v) s = .next (s.modDie die fun d => { d with
      cfgPart := BitVec.ofNat 4 part, cfgWord := v, cfgRes := s.cfgCheck die part v })) ∧
    (s.cfgCheck die part v = 0 → v.extractLsb' 0 8 ≠ 0#8 → ∃ t, exec (.cfgReq die part v) s = .next t ∧ (t.die die).cfgRes = 0 ∧
      (t.pdie die part).v = true ∧ (t.pdie die part).smask = v.extractLsb' 0 8 ∧ (t.pdie die part).migh = v.getLsbD 8 ∧
      (t.pdie die part).bslots = v.toNat / 2 ^ 20 % 2 ^ 5 ∧ (t.pdie die part).savea = v.toNat / 2 ^ 25 % 2 ^ 6 ∧
      (t.pp part).ownV = v.getLsbD 19 ∧ (t.pp part).own = v.extractLsb' 15 4 ∧
      (∀ e, e < 16 → vget (t.pp part).policies e = none) ∧
      (∀ l, l < liveN (s.die die) → ∃ th, t.thread? ((die * 1024 + l) * 8 + ctrlSlot (t.pdie die part)) = some th ∧
        th.kind = .control ∧ th.part = part ∧ th.pc = (s.pp part).trapVec ∧ th.ctxl = 0 ∧ th.te = true ∧
        th.world = s.worldOf (die * 1024 + l)) ∧
      (∀ a, inBanks die (t.pdie die part) a = true → Memory.get t.mem a = 0) ∧
      (∀ a, inBanks die (t.pdie die part) a = false → Memory.get t.mem a = Memory.get s.mem a)) ∧
    (s.cfgCheck die part v = 0 → v.extractLsb' 0 8 = 0#8 → ∃ t, exec (.cfgReq die part v) s = .next t ∧ (t.die die).cfgRes = 0 ∧
      (t.pdie die part).v = false ∧ (t.pp part).ownV = v.getLsbD 19 ∧ (t.pp part).own = v.extractLsb' 15 4 ∧ t.mem = s.mem ∧
      ∀ k th, t.thread? k = some th → dieOf (coreOf k) = die → th.part ≠ part)) ∧
  (∀ (s : State) (core : Nat), exec (.coreKill core 4) s = .next (s.kill (core * 8 + 2) 8) ∧
    ((s.core core).outOfSvc = true → exec (.coreSvc core) s = .next s) ∧
    ((s.core core).outOfSvc = false → (∀ k, k < 8 → s.thread? (core * 8 + k) = none) →
      exec (.coreSvc core) s = .next (s.modCore core fun c => { c with outOfSvc := true })) ∧
    (∀ m : BitVec 6, ∃ t, exec (.rodFailSet core m) s = .next t ∧ (t.core core).rodFail = (s.core core).rodFail ||| m ∧
      t.threads = s.threads ∧ ((t.core core).rodOff = true ↔ (s.core core).rodOff = true ∨
        2 ≤ ((nums 6).filter fun r => (t.core core).rodFail.getLsbD r).length))) ∧
  (∀ (s : State) (p : Nat), p < 16 →
    exec (.principalRegister p) s = .next { s with prinMap := s.prinMap ||| (1#16 <<< p) } ∧
    ∃ t, exec (.principalDeregister p) s = .next t ∧ t.prinMap = s.prinMap &&& ~~~(1#16 <<< p) ∧ t.threads = s.threads ∧ t.mem = s.mem ∧
      ∀ k e, k < 4 → e < 16 → vget (t.pp k).policies e = (vget (s.pp k).policies e).filter fun x => !x.lset.getLsbD p) ∧
  (∀ (s : State) (part : Nat) (v : Word), exec (.scopeSet part v) s = .next (s.modPP part fun p => { p with
    scopeDem := v.getLsbD 8, scopeCap := v.extractLsb' 0 3 })) ∧
  (∀ (s : State) (part page core : Nat),
    (s.invDrained part (invWord 0 page) = true → ∃ t, exec (.xlatInvPage part page) s = .next t ∧ t.threads = s.threads ∧ t.mem = s.mem ∧
      ∀ l ∈ (t.pcore core part).tlb, l.base / l.size1 ≠ page * 4096 / l.size1) ∧
    (s.invDrained part (invWord 1 0) = true → ∃ t, exec (.xlatInvAll part) s = .next t ∧ t.threads = s.threads ∧ t.mem = s.mem ∧
      (t.pcore core part).tlb = [] ∧ (t.pcore core part).rcache = none) ∧
    (s.invDrained part (invWord 2 page) = true → ∃ t, exec (.xlatInvStage2 part page) s = .next t ∧ t.threads = s.threads ∧ t.mem = s.mem ∧
      ∀ l ∈ (t.pcore core part).tlb, l.entry2 = none)) ∧
  (∀ (s : State) (die : Nat) (v : Word), die < s.diesOf → s.bootMode = 1 →
    exec (.registerWrite .firmware die 0x318 v) s = .next { s with pwrCap := v.extractLsb' 0 16 } ∧
    exec (.registerWrite .firmware die 0xC08 v) s = .next { s with fixed := { s.fixed with serial := v } } ∧
    exec (.registerWrite (.thread false) die 0x318 v) s = .next s)

/-! ### Frames -/

/-- 02 R45; 11 R266; 13 R298; 20 R408, R427: a word that touches registers only changes no byte of memory, no full/empty bit, no block
label, no register of a partition or a die, and no thread of another core, whatever it does (a trap and a kill among it).
A memory word of the issuing core's own local store changes no byte but those of its place and the D bits of its mapping, and a
load none; no other thread, no bank and no register of a partition changes. -/
def Obligations.Frames : Prop :=
  (∀ (i : Instr) (s t : State), Rules.registerOnly i = true → exec i s = .next t →
    (∀ a, Memory.get t.mem a = Memory.get s.mem a) ∧ t.full = s.full ∧ t.blab = s.blab ∧ t.ppkg = s.ppkg ∧ t.dies = s.dies ∧
    t.prinMap = s.prinMap ∧ ∀ k, coreOf k ≠ coreOf s.cur → t.thread? k = s.thread? k) ∧
  (∀ (i : Instr) (s t u : State) (th : Thread) (r : Rules.AccessRule) (p : Place),
    Issues i s th → Rules.access th i = some r → Local s th r.q r.va p t → Rules.Completes s th r p t → exec i s = .next u →
    (r.q.kind ≠ 0 → ∀ a, a < p.pa ∨ p.pa + r.q.size ≤ a →
      Memory.get u.mem a = Memory.get (s.setDirty (whoIs s.cur th) p).mem a) ∧
    (r.q.kind = 0 → ∀ a, Memory.get u.mem a = Memory.get s.mem a) ∧
    (∀ k, k ≠ s.cur → u.thread? k = s.thread? k) ∧ (∀ c, (u.core c).banks = (s.core c).banks) ∧
    u.ppkg = s.ppkg ∧ u.dies = s.dies ∧ u.prinMap = s.prinMap ∧ u.engines = s.engines ∧ u.launches = s.launches)

/-! ### The machine as a whole -/

/-- 08 R199; 11 Table 11.6; 12 Table 12.6; 15 Table 15.5; 18 Table 18.1; 20 Table 20.3; 22 Tables 22.1 to 22.4; 23 Table 23.2, R460:
the reset values that the spec states, in the state right after reset; no thread runs there, and memory is in its canonical form. -/
def Obligations.ResetState : Prop :=
  Inv State.reset ∧ State.reset.threads = [] ∧ State.reset.quartz = 0 ∧ State.reset.bootMode = 0 ∧ State.reset.prinMap = 0 ∧
  State.reset.pwrCap = 2800 ∧
  (∀ d n, (State.reset.pdie d n).v = false ∧ (State.reset.pdie d n).ageLim = 65536 ∧ (State.reset.pdie d n).wdLim = 0 ∧
    (State.reset.pdie d n).poolRing = 0 ∧ State.reset.poolIdx d n = 0) ∧
  (∀ n, (State.reset.pp n).scopeCap = 6 ∧ (State.reset.pp n).scopeDem = false ∧ (State.reset.pp n).s1 = 0 ∧ (State.reset.pp n).s2 = 0 ∧
    (State.reset.pp n).rng = 0 ∧ (State.reset.pp n).vfState = 0 ∧ State.reset.gatePol n = 0 ∧ State.reset.gateCnt n = 0) ∧
  (∀ c n i, (State.reset.pcore c n).drain = 1024 ∧ (State.reset.pcore c n).phase = 0 ∧ (State.reset.pcore c n).dmtd = false ∧
    (vget (State.reset.pcore c n).bslots i).lim = 20) ∧
  (∀ c b, bankOf (State.reset.core c) b = BankVal.zero ∧ (State.reset.core c).rodFail = 0)

/-- 02 R44, R45; 03 R54, R88; 11 R267: a row from outside comes first, and then a move that the machine takes by itself; a thread at
its turn takes a pending event, or a move that ends its wait, and one that waits for nothing runs the word at its PC, or goes on with its
word; the word fetched is that of the four bytes there. A word that the decoder refuses takes ILLEGAL.OP
with its bits, its reason and the PC, one that cannot be fetched the trap of its access; with nothing to do, a cycle passes.
Rests on the model's readings of log 5. -/
def Obligations.StepRuns : Prop :=
  (∀ (s t : State) (i : Instr), s.nextInput = some (i, t) → step s = exec i t) ∧
  (∀ (s t : State), s.nextInput = none → s.auto = some t → step s = .next t) ∧
  (∀ (s : State) (k : Nat) (th : Thread) (l₁ l₂ : List (Nat × Thread)), s.nextInput = none → s.auto = none →
    s.threads = l₁ ++ (k, th) :: l₂ → (∀ y ∈ l₁, s.turnOf y = none) → s.mayAct (k, th) = true →
    (∀ t, s.firmWake k = none → s.takePending k = some t → step s = .next t) ∧
    (∀ t, s.firmWake k = none → s.takePending k = none → s.parkWake k = some t → step s = .next t) ∧
    (s.takePending k = none → th.park = none → (th.sched = [] ∨ s.isTimed k th = true) → nwf s.threads = true →
    (∀ a, th.again = some a → step s = exec a.instr { s with cur := k }) ∧
    (th.again = none →
      (∀ t w, s.fetch k th = (t, .ok w) → (∀ i, decode w = .ok i → step s = exec i { t with cur := k }) ∧
        (∀ r, decode w = .error r → step s = exec (.illegalOp w r) { t with cur := k })) ∧
      (∀ t f, s.fetch k th = (t, .error f) → step s = exec .fetchFault { s with cur := k })))) ∧
  (∀ (s u : State) (k : Nat) (th : Thread) (p : Place), s.check (whoIs k th) { kind := 3, size := 4 } th.pc = (u, .ok p) →
    u.away p.leaf = false → u.isPoisoned p.pa 4 = false → nget (u.pcore (coreOf k) th.part).icache (p.pa / 4) = none →
    ∃ v, s.fetch k th = (v, .ok (BitVec.ofNat 32 (u.num p.pa 4))) ∧ v.mem = s.mem ∧ v.threads = s.threads) ∧
  (∀ (s : State) (x th : Thread), s.thread? s.cur = some x → (x.settle s.rot).strayed = none → th = (x.settle s.rot).landed →
    (∀ (w : InstrWord) (r : IllReason), exec (.illegalOp w r) s = .next (trapped s th .illegalOp
      (BitVec.ofNat 64 (reasonCode r * 2 ^ 32 + w.toNat)) th.pc 0 s)) ∧
    (∀ (t : State) (f : XFail), s.check (whoIs s.cur th) { kind := 3, size := 4 } th.pc = (t, .error f) →
      exec .fetchFault s = .next (trapped s th f.cause f.i0 f.i1 f.lab t))) ∧
  (∀ (s : State), s.nextInput = none → s.auto = none → s.turn = none → ∃ t, step s = .next t ∧ t.cycle = s.cycle + 1 ∧ t.mem = s.mem)

/-- The model's own representation of memory, of which the spec says nothing: the list of cells keeps its one canonical form in every
step (addresses rise, and no cell holds the blank byte of log 1, a DESIGN CHOICE), so that equal memories are equal data. -/
def Obligations.InvKept : Prop := ∀ (s t : State), Inv s → step s = .next t → Inv t

/-! ### Encoding -/

/-- 03 Tables 3.17 to 3.31: words written out from the encodings, one of each of several families. -/
def Obligations.DecodeWords : Prop :=
  decode 0x04044080#32 = .ok (.add 0 1 4 2) ∧
  decode 0x1108401F#32 = .ok (.addi 1 2 4 0x01F) ∧
  decode 0x40200010#32 = .ok (.br 0 1 false 0x10) ∧
  decode 0xFC000000#32 = .ok (.nop 0) ∧
  decode 0xC0000001#32 = .ok (.exit 0) ∧
  decode 0xC4000008#32 = .error .value ∧
  decode 0x00000000#32 = .error .major

/-- 03 R56 to R81: the decoder reads every well-formed word back from its encoding, with every operand. -/
def Obligations.RoundTrip : Prop := ∀ i : Instr, i.isWord = true → i.wf = true → decode (encode i) = .ok i
end

