-- ==== Sys2Proof/Laws/State.lean ====
section
/-! SUPPORT. What each update of the state leaves alone: one lemma for each field and update. -/

namespace Sys2Proof.Machine

/-! ### setThread -/

@[simp] theorem State.setThread_cycle (s : State) (tid : Nat) (th : Thread) : (s.setThread tid th).cycle = s.cycle := rfl
@[simp] theorem State.setThread_quartz (s : State) (tid : Nat) (th : Thread) : (s.setThread tid th).quartz = s.quartz := rfl
@[simp] theorem State.setThread_rotQuartz (s : State) (tid : Nat) (th : Thread) : (s.setThread tid th).rotQuartz = s.rotQuartz := rfl
@[simp] theorem State.setThread_cur (s : State) (tid : Nat) (th : Thread) : (s.setThread tid th).cur = s.cur := rfl
@[simp] theorem State.setThread_cores (s : State) (tid : Nat) (th : Thread) : (s.setThread tid th).cores = s.cores := rfl
@[simp] theorem State.setThread_dies (s : State) (tid : Nat) (th : Thread) : (s.setThread tid th).dies = s.dies := rfl
@[simp] theorem State.setThread_ppkg (s : State) (tid : Nat) (th : Thread) : (s.setThread tid th).ppkg = s.ppkg := rfl
@[simp] theorem State.setThread_fixed (s : State) (tid : Nat) (th : Thread) : (s.setThread tid th).fixed = s.fixed := rfl
@[simp] theorem State.setThread_mem (s : State) (tid : Nat) (th : Thread) : (s.setThread tid th).mem = s.mem := rfl
@[simp] theorem State.setThread_full (s : State) (tid : Nat) (th : Thread) : (s.setThread tid th).full = s.full := rfl
@[simp] theorem State.setThread_blab (s : State) (tid : Nat) (th : Thread) : (s.setThread tid th).blab = s.blab := rfl
@[simp] theorem State.setThread_poison (s : State) (tid : Nat) (th : Thread) : (s.setThread tid th).poison = s.poison := rfl
@[simp] theorem State.setThread_channels (s : State) (tid : Nat) (th : Thread) : (s.setThread tid th).channels = s.channels := rfl
@[simp] theorem State.setThread_arrivals (s : State) (tid : Nat) (th : Thread) : (s.setThread tid th).arrivals = s.arrivals := rfl
@[simp] theorem State.setThread_inbox (s : State) (tid : Nat) (th : Thread) : (s.setThread tid th).inbox = s.inbox := rfl
@[simp] theorem State.setThread_waiters (s : State) (tid : Nat) (th : Thread) : (s.setThread tid th).waiters = s.waiters := rfl
@[simp] theorem State.setThread_engines (s : State) (tid : Nat) (th : Thread) : (s.setThread tid th).engines = s.engines := rfl
@[simp] theorem State.setThread_launches (s : State) (tid : Nat) (th : Thread) : (s.setThread tid th).launches = s.launches := rfl
@[simp] theorem State.setThread_tgroups (s : State) (tid : Nat) (th : Thread) : (s.setThread tid th).tgroups = s.tgroups := rfl
@[simp] theorem State.setThread_barriers (s : State) (tid : Nat) (th : Thread) : (s.setThread tid th).barriers = s.barriers := rfl
@[simp] theorem State.setThread_prinMap (s : State) (tid : Nat) (th : Thread) : (s.setThread tid th).prinMap = s.prinMap := rfl
@[simp] theorem State.setThread_keys (s : State) (tid : Nat) (th : Thread) : (s.setThread tid th).keys = s.keys := rfl
@[simp] theorem State.setThread_worlds (s : State) (tid : Nat) (th : Thread) : (s.setThread tid th).worlds = s.worlds := rfl
@[simp] theorem State.setThread_msix (s : State) (tid : Nat) (th : Thread) : (s.setThread tid th).msix = s.msix := rfl
@[simp] theorem State.setThread_hostReads (s : State) (tid : Nat) (th : Thread) : (s.setThread tid th).hostReads = s.hostReads := rfl
@[simp] theorem State.setThread_bootMode (s : State) (tid : Nat) (th : Thread) : (s.setThread tid th).bootMode = s.bootMode := rfl
@[simp] theorem State.setThread_stage (s : State) (tid : Nat) (th : Thread) : (s.setThread tid th).stage = s.stage := rfl
@[simp] theorem State.setThread_powerAt (s : State) (tid : Nat) (th : Thread) : (s.setThread tid th).powerAt = s.powerAt := rfl
@[simp] theorem State.setThread_bootEnv (s : State) (tid : Nat) (th : Thread) : (s.setThread tid th).bootEnv = s.bootEnv := rfl
@[simp] theorem State.setThread_found (s : State) (tid : Nat) (th : Thread) : (s.setThread tid th).found = s.found := rfl
@[simp] theorem State.setThread_store (s : State) (tid : Nat) (th : Thread) : (s.setThread tid th).store = s.store := rfl
@[simp] theorem State.setThread_pwrCap (s : State) (tid : Nat) (th : Thread) : (s.setThread tid th).pwrCap = s.pwrCap := rfl
@[simp] theorem State.setThread_throttled (s : State) (tid : Nat) (th : Thread) : (s.setThread tid th).throttled = s.throttled := rfl
@[simp] theorem State.setThread_sag (s : State) (tid : Nat) (th : Thread) : (s.setThread tid th).sag = s.sag := rfl
@[simp] theorem State.setThread_sagEnd (s : State) (tid : Nat) (th : Thread) : (s.setThread tid th).sagEnd = s.sagEnd := rfl
@[simp] theorem State.setThread_slewAt (s : State) (tid : Nat) (th : Thread) : (s.setThread tid th).slewAt = s.slewAt := rfl
@[simp] theorem State.setThread_slewHold (s : State) (tid : Nat) (th : Thread) : (s.setThread tid th).slewHold = s.slewHold := rfl
@[simp] theorem State.setThread_sealedImage (s : State) (tid : Nat) (th : Thread) : (s.setThread tid th).sealedImage = s.sealedImage := rfl
@[simp] theorem State.setThread_serial (s : State) (tid : Nat) (th : Thread) : (s.setThread tid th).serial = s.serial := rfl
@[simp] theorem State.setThread_freeCtr (s : State) (tid : Nat) (th : Thread) : (s.setThread tid th).freeCtr = s.freeCtr := rfl
@[simp] theorem State.setThread_inputs (s : State) (tid : Nat) (th : Thread) : (s.setThread tid th).inputs = s.inputs := rfl

/-! ### delThread -/

@[simp] theorem State.delThread_cycle (s : State) (tid : Nat) : (s.delThread tid).cycle = s.cycle := rfl
@[simp] theorem State.delThread_quartz (s : State) (tid : Nat) : (s.delThread tid).quartz = s.quartz := rfl
@[simp] theorem State.delThread_rotQuartz (s : State) (tid : Nat) : (s.delThread tid).rotQuartz = s.rotQuartz := rfl
@[simp] theorem State.delThread_cur (s : State) (tid : Nat) : (s.delThread tid).cur = s.cur := rfl
@[simp] theorem State.delThread_cores (s : State) (tid : Nat) : (s.delThread tid).cores = s.cores := rfl
@[simp] theorem State.delThread_dies (s : State) (tid : Nat) : (s.delThread tid).dies = s.dies := rfl
@[simp] theorem State.delThread_ppkg (s : State) (tid : Nat) : (s.delThread tid).ppkg = s.ppkg := rfl
@[simp] theorem State.delThread_fixed (s : State) (tid : Nat) : (s.delThread tid).fixed = s.fixed := rfl
@[simp] theorem State.delThread_mem (s : State) (tid : Nat) : (s.delThread tid).mem = s.mem := rfl
@[simp] theorem State.delThread_full (s : State) (tid : Nat) : (s.delThread tid).full = s.full := rfl
@[simp] theorem State.delThread_blab (s : State) (tid : Nat) : (s.delThread tid).blab = s.blab := rfl
@[simp] theorem State.delThread_poison (s : State) (tid : Nat) : (s.delThread tid).poison = s.poison := rfl
@[simp] theorem State.delThread_channels (s : State) (tid : Nat) : (s.delThread tid).channels = s.channels := rfl
@[simp] theorem State.delThread_arrivals (s : State) (tid : Nat) : (s.delThread tid).arrivals = s.arrivals := rfl
@[simp] theorem State.delThread_inbox (s : State) (tid : Nat) : (s.delThread tid).inbox = s.inbox := rfl
@[simp] theorem State.delThread_waiters (s : State) (tid : Nat) : (s.delThread tid).waiters = s.waiters := rfl
@[simp] theorem State.delThread_engines (s : State) (tid : Nat) : (s.delThread tid).engines = s.engines := rfl
@[simp] theorem State.delThread_launches (s : State) (tid : Nat) : (s.delThread tid).launches = s.launches := rfl
@[simp] theorem State.delThread_tgroups (s : State) (tid : Nat) : (s.delThread tid).tgroups = s.tgroups := rfl
@[simp] theorem State.delThread_barriers (s : State) (tid : Nat) : (s.delThread tid).barriers = s.barriers := rfl
@[simp] theorem State.delThread_prinMap (s : State) (tid : Nat) : (s.delThread tid).prinMap = s.prinMap := rfl
@[simp] theorem State.delThread_keys (s : State) (tid : Nat) : (s.delThread tid).keys = s.keys := rfl
@[simp] theorem State.delThread_worlds (s : State) (tid : Nat) : (s.delThread tid).worlds = s.worlds := rfl
@[simp] theorem State.delThread_msix (s : State) (tid : Nat) : (s.delThread tid).msix = s.msix := rfl
@[simp] theorem State.delThread_hostReads (s : State) (tid : Nat) : (s.delThread tid).hostReads = s.hostReads := rfl
@[simp] theorem State.delThread_bootMode (s : State) (tid : Nat) : (s.delThread tid).bootMode = s.bootMode := rfl
@[simp] theorem State.delThread_stage (s : State) (tid : Nat) : (s.delThread tid).stage = s.stage := rfl
@[simp] theorem State.delThread_powerAt (s : State) (tid : Nat) : (s.delThread tid).powerAt = s.powerAt := rfl
@[simp] theorem State.delThread_bootEnv (s : State) (tid : Nat) : (s.delThread tid).bootEnv = s.bootEnv := rfl
@[simp] theorem State.delThread_found (s : State) (tid : Nat) : (s.delThread tid).found = s.found := rfl
@[simp] theorem State.delThread_store (s : State) (tid : Nat) : (s.delThread tid).store = s.store := rfl
@[simp] theorem State.delThread_pwrCap (s : State) (tid : Nat) : (s.delThread tid).pwrCap = s.pwrCap := rfl
@[simp] theorem State.delThread_throttled (s : State) (tid : Nat) : (s.delThread tid).throttled = s.throttled := rfl
@[simp] theorem State.delThread_sag (s : State) (tid : Nat) : (s.delThread tid).sag = s.sag := rfl
@[simp] theorem State.delThread_sagEnd (s : State) (tid : Nat) : (s.delThread tid).sagEnd = s.sagEnd := rfl
@[simp] theorem State.delThread_slewAt (s : State) (tid : Nat) : (s.delThread tid).slewAt = s.slewAt := rfl
@[simp] theorem State.delThread_slewHold (s : State) (tid : Nat) : (s.delThread tid).slewHold = s.slewHold := rfl
@[simp] theorem State.delThread_sealedImage (s : State) (tid : Nat) : (s.delThread tid).sealedImage = s.sealedImage := rfl
@[simp] theorem State.delThread_serial (s : State) (tid : Nat) : (s.delThread tid).serial = s.serial := rfl
@[simp] theorem State.delThread_freeCtr (s : State) (tid : Nat) : (s.delThread tid).freeCtr = s.freeCtr := rfl
@[simp] theorem State.delThread_inputs (s : State) (tid : Nat) : (s.delThread tid).inputs = s.inputs := rfl

/-! ### setCore -/

@[simp] theorem State.setCore_cycle (s : State) (c : Nat) (x : Core) : (s.setCore c x).cycle = s.cycle := rfl
@[simp] theorem State.setCore_quartz (s : State) (c : Nat) (x : Core) : (s.setCore c x).quartz = s.quartz := rfl
@[simp] theorem State.setCore_rotQuartz (s : State) (c : Nat) (x : Core) : (s.setCore c x).rotQuartz = s.rotQuartz := rfl
@[simp] theorem State.setCore_cur (s : State) (c : Nat) (x : Core) : (s.setCore c x).cur = s.cur := rfl
@[simp] theorem State.setCore_threads (s : State) (c : Nat) (x : Core) : (s.setCore c x).threads = s.threads := rfl
@[simp] theorem State.setCore_dies (s : State) (c : Nat) (x : Core) : (s.setCore c x).dies = s.dies := rfl
@[simp] theorem State.setCore_ppkg (s : State) (c : Nat) (x : Core) : (s.setCore c x).ppkg = s.ppkg := rfl
@[simp] theorem State.setCore_fixed (s : State) (c : Nat) (x : Core) : (s.setCore c x).fixed = s.fixed := rfl
@[simp] theorem State.setCore_mem (s : State) (c : Nat) (x : Core) : (s.setCore c x).mem = s.mem := rfl
@[simp] theorem State.setCore_full (s : State) (c : Nat) (x : Core) : (s.setCore c x).full = s.full := rfl
@[simp] theorem State.setCore_blab (s : State) (c : Nat) (x : Core) : (s.setCore c x).blab = s.blab := rfl
@[simp] theorem State.setCore_poison (s : State) (c : Nat) (x : Core) : (s.setCore c x).poison = s.poison := rfl
@[simp] theorem State.setCore_channels (s : State) (c : Nat) (x : Core) : (s.setCore c x).channels = s.channels := rfl
@[simp] theorem State.setCore_arrivals (s : State) (c : Nat) (x : Core) : (s.setCore c x).arrivals = s.arrivals := rfl
@[simp] theorem State.setCore_inbox (s : State) (c : Nat) (x : Core) : (s.setCore c x).inbox = s.inbox := rfl
@[simp] theorem State.setCore_waiters (s : State) (c : Nat) (x : Core) : (s.setCore c x).waiters = s.waiters := rfl
@[simp] theorem State.setCore_engines (s : State) (c : Nat) (x : Core) : (s.setCore c x).engines = s.engines := rfl
@[simp] theorem State.setCore_launches (s : State) (c : Nat) (x : Core) : (s.setCore c x).launches = s.launches := rfl
@[simp] theorem State.setCore_tgroups (s : State) (c : Nat) (x : Core) : (s.setCore c x).tgroups = s.tgroups := rfl
@[simp] theorem State.setCore_barriers (s : State) (c : Nat) (x : Core) : (s.setCore c x).barriers = s.barriers := rfl
@[simp] theorem State.setCore_prinMap (s : State) (c : Nat) (x : Core) : (s.setCore c x).prinMap = s.prinMap := rfl
@[simp] theorem State.setCore_keys (s : State) (c : Nat) (x : Core) : (s.setCore c x).keys = s.keys := rfl
@[simp] theorem State.setCore_worlds (s : State) (c : Nat) (x : Core) : (s.setCore c x).worlds = s.worlds := rfl
@[simp] theorem State.setCore_msix (s : State) (c : Nat) (x : Core) : (s.setCore c x).msix = s.msix := rfl
@[simp] theorem State.setCore_hostReads (s : State) (c : Nat) (x : Core) : (s.setCore c x).hostReads = s.hostReads := rfl
@[simp] theorem State.setCore_bootMode (s : State) (c : Nat) (x : Core) : (s.setCore c x).bootMode = s.bootMode := rfl
@[simp] theorem State.setCore_stage (s : State) (c : Nat) (x : Core) : (s.setCore c x).stage = s.stage := rfl
@[simp] theorem State.setCore_powerAt (s : State) (c : Nat) (x : Core) : (s.setCore c x).powerAt = s.powerAt := rfl
@[simp] theorem State.setCore_bootEnv (s : State) (c : Nat) (x : Core) : (s.setCore c x).bootEnv = s.bootEnv := rfl
@[simp] theorem State.setCore_found (s : State) (c : Nat) (x : Core) : (s.setCore c x).found = s.found := rfl
@[simp] theorem State.setCore_store (s : State) (c : Nat) (x : Core) : (s.setCore c x).store = s.store := rfl
@[simp] theorem State.setCore_pwrCap (s : State) (c : Nat) (x : Core) : (s.setCore c x).pwrCap = s.pwrCap := rfl
@[simp] theorem State.setCore_throttled (s : State) (c : Nat) (x : Core) : (s.setCore c x).throttled = s.throttled := rfl
@[simp] theorem State.setCore_sag (s : State) (c : Nat) (x : Core) : (s.setCore c x).sag = s.sag := rfl
@[simp] theorem State.setCore_sagEnd (s : State) (c : Nat) (x : Core) : (s.setCore c x).sagEnd = s.sagEnd := rfl
@[simp] theorem State.setCore_slewAt (s : State) (c : Nat) (x : Core) : (s.setCore c x).slewAt = s.slewAt := rfl
@[simp] theorem State.setCore_slewHold (s : State) (c : Nat) (x : Core) : (s.setCore c x).slewHold = s.slewHold := rfl
@[simp] theorem State.setCore_sealedImage (s : State) (c : Nat) (x : Core) : (s.setCore c x).sealedImage = s.sealedImage := rfl
@[simp] theorem State.setCore_serial (s : State) (c : Nat) (x : Core) : (s.setCore c x).serial = s.serial := rfl
@[simp] theorem State.setCore_freeCtr (s : State) (c : Nat) (x : Core) : (s.setCore c x).freeCtr = s.freeCtr := rfl
@[simp] theorem State.setCore_inputs (s : State) (c : Nat) (x : Core) : (s.setCore c x).inputs = s.inputs := rfl

/-! ### modCore -/

@[simp] theorem State.modCore_cycle (s : State) (c : Nat) (f : Core → Core) : (s.modCore c f).cycle = s.cycle := rfl
@[simp] theorem State.modCore_quartz (s : State) (c : Nat) (f : Core → Core) : (s.modCore c f).quartz = s.quartz := rfl
@[simp] theorem State.modCore_rotQuartz (s : State) (c : Nat) (f : Core → Core) : (s.modCore c f).rotQuartz = s.rotQuartz := rfl
@[simp] theorem State.modCore_cur (s : State) (c : Nat) (f : Core → Core) : (s.modCore c f).cur = s.cur := rfl
@[simp] theorem State.modCore_threads (s : State) (c : Nat) (f : Core → Core) : (s.modCore c f).threads = s.threads := rfl
@[simp] theorem State.modCore_dies (s : State) (c : Nat) (f : Core → Core) : (s.modCore c f).dies = s.dies := rfl
@[simp] theorem State.modCore_ppkg (s : State) (c : Nat) (f : Core → Core) : (s.modCore c f).ppkg = s.ppkg := rfl
@[simp] theorem State.modCore_fixed (s : State) (c : Nat) (f : Core → Core) : (s.modCore c f).fixed = s.fixed := rfl
@[simp] theorem State.modCore_mem (s : State) (c : Nat) (f : Core → Core) : (s.modCore c f).mem = s.mem := rfl
@[simp] theorem State.modCore_full (s : State) (c : Nat) (f : Core → Core) : (s.modCore c f).full = s.full := rfl
@[simp] theorem State.modCore_blab (s : State) (c : Nat) (f : Core → Core) : (s.modCore c f).blab = s.blab := rfl
@[simp] theorem State.modCore_poison (s : State) (c : Nat) (f : Core → Core) : (s.modCore c f).poison = s.poison := rfl
@[simp] theorem State.modCore_channels (s : State) (c : Nat) (f : Core → Core) : (s.modCore c f).channels = s.channels := rfl
@[simp] theorem State.modCore_arrivals (s : State) (c : Nat) (f : Core → Core) : (s.modCore c f).arrivals = s.arrivals := rfl
@[simp] theorem State.modCore_inbox (s : State) (c : Nat) (f : Core → Core) : (s.modCore c f).inbox = s.inbox := rfl
@[simp] theorem State.modCore_waiters (s : State) (c : Nat) (f : Core → Core) : (s.modCore c f).waiters = s.waiters := rfl
@[simp] theorem State.modCore_engines (s : State) (c : Nat) (f : Core → Core) : (s.modCore c f).engines = s.engines := rfl
@[simp] theorem State.modCore_launches (s : State) (c : Nat) (f : Core → Core) : (s.modCore c f).launches = s.launches := rfl
@[simp] theorem State.modCore_tgroups (s : State) (c : Nat) (f : Core → Core) : (s.modCore c f).tgroups = s.tgroups := rfl
@[simp] theorem State.modCore_barriers (s : State) (c : Nat) (f : Core → Core) : (s.modCore c f).barriers = s.barriers := rfl
@[simp] theorem State.modCore_prinMap (s : State) (c : Nat) (f : Core → Core) : (s.modCore c f).prinMap = s.prinMap := rfl
@[simp] theorem State.modCore_keys (s : State) (c : Nat) (f : Core → Core) : (s.modCore c f).keys = s.keys := rfl
@[simp] theorem State.modCore_worlds (s : State) (c : Nat) (f : Core → Core) : (s.modCore c f).worlds = s.worlds := rfl
@[simp] theorem State.modCore_msix (s : State) (c : Nat) (f : Core → Core) : (s.modCore c f).msix = s.msix := rfl
@[simp] theorem State.modCore_hostReads (s : State) (c : Nat) (f : Core → Core) : (s.modCore c f).hostReads = s.hostReads := rfl
@[simp] theorem State.modCore_bootMode (s : State) (c : Nat) (f : Core → Core) : (s.modCore c f).bootMode = s.bootMode := rfl
@[simp] theorem State.modCore_stage (s : State) (c : Nat) (f : Core → Core) : (s.modCore c f).stage = s.stage := rfl
@[simp] theorem State.modCore_powerAt (s : State) (c : Nat) (f : Core → Core) : (s.modCore c f).powerAt = s.powerAt := rfl
@[simp] theorem State.modCore_bootEnv (s : State) (c : Nat) (f : Core → Core) : (s.modCore c f).bootEnv = s.bootEnv := rfl
@[simp] theorem State.modCore_found (s : State) (c : Nat) (f : Core → Core) : (s.modCore c f).found = s.found := rfl
@[simp] theorem State.modCore_store (s : State) (c : Nat) (f : Core → Core) : (s.modCore c f).store = s.store := rfl
@[simp] theorem State.modCore_pwrCap (s : State) (c : Nat) (f : Core → Core) : (s.modCore c f).pwrCap = s.pwrCap := rfl
@[simp] theorem State.modCore_throttled (s : State) (c : Nat) (f : Core → Core) : (s.modCore c f).throttled = s.throttled := rfl
@[simp] theorem State.modCore_sag (s : State) (c : Nat) (f : Core → Core) : (s.modCore c f).sag = s.sag := rfl
@[simp] theorem State.modCore_sagEnd (s : State) (c : Nat) (f : Core → Core) : (s.modCore c f).sagEnd = s.sagEnd := rfl
@[simp] theorem State.modCore_slewAt (s : State) (c : Nat) (f : Core → Core) : (s.modCore c f).slewAt = s.slewAt := rfl
@[simp] theorem State.modCore_slewHold (s : State) (c : Nat) (f : Core → Core) : (s.modCore c f).slewHold = s.slewHold := rfl
@[simp] theorem State.modCore_sealedImage (s : State) (c : Nat) (f : Core → Core) : (s.modCore c f).sealedImage = s.sealedImage := rfl
@[simp] theorem State.modCore_serial (s : State) (c : Nat) (f : Core → Core) : (s.modCore c f).serial = s.serial := rfl
@[simp] theorem State.modCore_freeCtr (s : State) (c : Nat) (f : Core → Core) : (s.modCore c f).freeCtr = s.freeCtr := rfl
@[simp] theorem State.modCore_inputs (s : State) (c : Nat) (f : Core → Core) : (s.modCore c f).inputs = s.inputs := rfl

/-! ### modPCore -/

@[simp] theorem State.modPCore_cycle (s : State) (c part : Nat) (f : PCore → PCore) : (s.modPCore c part f).cycle = s.cycle := rfl
@[simp] theorem State.modPCore_quartz (s : State) (c part : Nat) (f : PCore → PCore) : (s.modPCore c part f).quartz = s.quartz := rfl
@[simp] theorem State.modPCore_rotQuartz (s : State) (c part : Nat) (f : PCore → PCore) : (s.modPCore c part f).rotQuartz = s.rotQuartz := rfl
@[simp] theorem State.modPCore_cur (s : State) (c part : Nat) (f : PCore → PCore) : (s.modPCore c part f).cur = s.cur := rfl
@[simp] theorem State.modPCore_threads (s : State) (c part : Nat) (f : PCore → PCore) : (s.modPCore c part f).threads = s.threads := rfl
@[simp] theorem State.modPCore_dies (s : State) (c part : Nat) (f : PCore → PCore) : (s.modPCore c part f).dies = s.dies := rfl
@[simp] theorem State.modPCore_ppkg (s : State) (c part : Nat) (f : PCore → PCore) : (s.modPCore c part f).ppkg = s.ppkg := rfl
@[simp] theorem State.modPCore_fixed (s : State) (c part : Nat) (f : PCore → PCore) : (s.modPCore c part f).fixed = s.fixed := rfl
@[simp] theorem State.modPCore_mem (s : State) (c part : Nat) (f : PCore → PCore) : (s.modPCore c part f).mem = s.mem := rfl
@[simp] theorem State.modPCore_full (s : State) (c part : Nat) (f : PCore → PCore) : (s.modPCore c part f).full = s.full := rfl
@[simp] theorem State.modPCore_blab (s : State) (c part : Nat) (f : PCore → PCore) : (s.modPCore c part f).blab = s.blab := rfl
@[simp] theorem State.modPCore_poison (s : State) (c part : Nat) (f : PCore → PCore) : (s.modPCore c part f).poison = s.poison := rfl
@[simp] theorem State.modPCore_channels (s : State) (c part : Nat) (f : PCore → PCore) : (s.modPCore c part f).channels = s.channels := rfl
@[simp] theorem State.modPCore_arrivals (s : State) (c part : Nat) (f : PCore → PCore) : (s.modPCore c part f).arrivals = s.arrivals := rfl
@[simp] theorem State.modPCore_inbox (s : State) (c part : Nat) (f : PCore → PCore) : (s.modPCore c part f).inbox = s.inbox := rfl
@[simp] theorem State.modPCore_waiters (s : State) (c part : Nat) (f : PCore → PCore) : (s.modPCore c part f).waiters = s.waiters := rfl
@[simp] theorem State.modPCore_engines (s : State) (c part : Nat) (f : PCore → PCore) : (s.modPCore c part f).engines = s.engines := rfl
@[simp] theorem State.modPCore_launches (s : State) (c part : Nat) (f : PCore → PCore) : (s.modPCore c part f).launches = s.launches := rfl
@[simp] theorem State.modPCore_tgroups (s : State) (c part : Nat) (f : PCore → PCore) : (s.modPCore c part f).tgroups = s.tgroups := rfl
@[simp] theorem State.modPCore_barriers (s : State) (c part : Nat) (f : PCore → PCore) : (s.modPCore c part f).barriers = s.barriers := rfl
@[simp] theorem State.modPCore_prinMap (s : State) (c part : Nat) (f : PCore → PCore) : (s.modPCore c part f).prinMap = s.prinMap := rfl
@[simp] theorem State.modPCore_keys (s : State) (c part : Nat) (f : PCore → PCore) : (s.modPCore c part f).keys = s.keys := rfl
@[simp] theorem State.modPCore_worlds (s : State) (c part : Nat) (f : PCore → PCore) : (s.modPCore c part f).worlds = s.worlds := rfl
@[simp] theorem State.modPCore_msix (s : State) (c part : Nat) (f : PCore → PCore) : (s.modPCore c part f).msix = s.msix := rfl
@[simp] theorem State.modPCore_hostReads (s : State) (c part : Nat) (f : PCore → PCore) : (s.modPCore c part f).hostReads = s.hostReads := rfl
@[simp] theorem State.modPCore_bootMode (s : State) (c part : Nat) (f : PCore → PCore) : (s.modPCore c part f).bootMode = s.bootMode := rfl
@[simp] theorem State.modPCore_stage (s : State) (c part : Nat) (f : PCore → PCore) : (s.modPCore c part f).stage = s.stage := rfl
@[simp] theorem State.modPCore_powerAt (s : State) (c part : Nat) (f : PCore → PCore) : (s.modPCore c part f).powerAt = s.powerAt := rfl
@[simp] theorem State.modPCore_bootEnv (s : State) (c part : Nat) (f : PCore → PCore) : (s.modPCore c part f).bootEnv = s.bootEnv := rfl
@[simp] theorem State.modPCore_found (s : State) (c part : Nat) (f : PCore → PCore) : (s.modPCore c part f).found = s.found := rfl
@[simp] theorem State.modPCore_store (s : State) (c part : Nat) (f : PCore → PCore) : (s.modPCore c part f).store = s.store := rfl
@[simp] theorem State.modPCore_pwrCap (s : State) (c part : Nat) (f : PCore → PCore) : (s.modPCore c part f).pwrCap = s.pwrCap := rfl
@[simp] theorem State.modPCore_throttled (s : State) (c part : Nat) (f : PCore → PCore) : (s.modPCore c part f).throttled = s.throttled := rfl
@[simp] theorem State.modPCore_sag (s : State) (c part : Nat) (f : PCore → PCore) : (s.modPCore c part f).sag = s.sag := rfl
@[simp] theorem State.modPCore_sagEnd (s : State) (c part : Nat) (f : PCore → PCore) : (s.modPCore c part f).sagEnd = s.sagEnd := rfl
@[simp] theorem State.modPCore_slewAt (s : State) (c part : Nat) (f : PCore → PCore) : (s.modPCore c part f).slewAt = s.slewAt := rfl
@[simp] theorem State.modPCore_slewHold (s : State) (c part : Nat) (f : PCore → PCore) : (s.modPCore c part f).slewHold = s.slewHold := rfl
@[simp] theorem State.modPCore_sealedImage (s : State) (c part : Nat) (f : PCore → PCore) : (s.modPCore c part f).sealedImage = s.sealedImage := rfl
@[simp] theorem State.modPCore_serial (s : State) (c part : Nat) (f : PCore → PCore) : (s.modPCore c part f).serial = s.serial := rfl
@[simp] theorem State.modPCore_freeCtr (s : State) (c part : Nat) (f : PCore → PCore) : (s.modPCore c part f).freeCtr = s.freeCtr := rfl
@[simp] theorem State.modPCore_inputs (s : State) (c part : Nat) (f : PCore → PCore) : (s.modPCore c part f).inputs = s.inputs := rfl

/-! ### modDie -/

@[simp] theorem State.modDie_cycle (s : State) (d : Nat) (f : Die → Die) : (s.modDie d f).cycle = s.cycle := rfl
@[simp] theorem State.modDie_quartz (s : State) (d : Nat) (f : Die → Die) : (s.modDie d f).quartz = s.quartz := rfl
@[simp] theorem State.modDie_rotQuartz (s : State) (d : Nat) (f : Die → Die) : (s.modDie d f).rotQuartz = s.rotQuartz := rfl
@[simp] theorem State.modDie_cur (s : State) (d : Nat) (f : Die → Die) : (s.modDie d f).cur = s.cur := rfl
@[simp] theorem State.modDie_threads (s : State) (d : Nat) (f : Die → Die) : (s.modDie d f).threads = s.threads := rfl
@[simp] theorem State.modDie_cores (s : State) (d : Nat) (f : Die → Die) : (s.modDie d f).cores = s.cores := rfl
@[simp] theorem State.modDie_ppkg (s : State) (d : Nat) (f : Die → Die) : (s.modDie d f).ppkg = s.ppkg := rfl
@[simp] theorem State.modDie_fixed (s : State) (d : Nat) (f : Die → Die) : (s.modDie d f).fixed = s.fixed := rfl
@[simp] theorem State.modDie_mem (s : State) (d : Nat) (f : Die → Die) : (s.modDie d f).mem = s.mem := rfl
@[simp] theorem State.modDie_full (s : State) (d : Nat) (f : Die → Die) : (s.modDie d f).full = s.full := rfl
@[simp] theorem State.modDie_blab (s : State) (d : Nat) (f : Die → Die) : (s.modDie d f).blab = s.blab := rfl
@[simp] theorem State.modDie_poison (s : State) (d : Nat) (f : Die → Die) : (s.modDie d f).poison = s.poison := rfl
@[simp] theorem State.modDie_channels (s : State) (d : Nat) (f : Die → Die) : (s.modDie d f).channels = s.channels := rfl
@[simp] theorem State.modDie_arrivals (s : State) (d : Nat) (f : Die → Die) : (s.modDie d f).arrivals = s.arrivals := rfl
@[simp] theorem State.modDie_inbox (s : State) (d : Nat) (f : Die → Die) : (s.modDie d f).inbox = s.inbox := rfl
@[simp] theorem State.modDie_waiters (s : State) (d : Nat) (f : Die → Die) : (s.modDie d f).waiters = s.waiters := rfl
@[simp] theorem State.modDie_engines (s : State) (d : Nat) (f : Die → Die) : (s.modDie d f).engines = s.engines := rfl
@[simp] theorem State.modDie_launches (s : State) (d : Nat) (f : Die → Die) : (s.modDie d f).launches = s.launches := rfl
@[simp] theorem State.modDie_tgroups (s : State) (d : Nat) (f : Die → Die) : (s.modDie d f).tgroups = s.tgroups := rfl
@[simp] theorem State.modDie_barriers (s : State) (d : Nat) (f : Die → Die) : (s.modDie d f).barriers = s.barriers := rfl
@[simp] theorem State.modDie_prinMap (s : State) (d : Nat) (f : Die → Die) : (s.modDie d f).prinMap = s.prinMap := rfl
@[simp] theorem State.modDie_keys (s : State) (d : Nat) (f : Die → Die) : (s.modDie d f).keys = s.keys := rfl
@[simp] theorem State.modDie_worlds (s : State) (d : Nat) (f : Die → Die) : (s.modDie d f).worlds = s.worlds := rfl
@[simp] theorem State.modDie_msix (s : State) (d : Nat) (f : Die → Die) : (s.modDie d f).msix = s.msix := rfl
@[simp] theorem State.modDie_hostReads (s : State) (d : Nat) (f : Die → Die) : (s.modDie d f).hostReads = s.hostReads := rfl
@[simp] theorem State.modDie_bootMode (s : State) (d : Nat) (f : Die → Die) : (s.modDie d f).bootMode = s.bootMode := rfl
@[simp] theorem State.modDie_stage (s : State) (d : Nat) (f : Die → Die) : (s.modDie d f).stage = s.stage := rfl
@[simp] theorem State.modDie_powerAt (s : State) (d : Nat) (f : Die → Die) : (s.modDie d f).powerAt = s.powerAt := rfl
@[simp] theorem State.modDie_bootEnv (s : State) (d : Nat) (f : Die → Die) : (s.modDie d f).bootEnv = s.bootEnv := rfl
@[simp] theorem State.modDie_found (s : State) (d : Nat) (f : Die → Die) : (s.modDie d f).found = s.found := rfl
@[simp] theorem State.modDie_store (s : State) (d : Nat) (f : Die → Die) : (s.modDie d f).store = s.store := rfl
@[simp] theorem State.modDie_pwrCap (s : State) (d : Nat) (f : Die → Die) : (s.modDie d f).pwrCap = s.pwrCap := rfl
@[simp] theorem State.modDie_throttled (s : State) (d : Nat) (f : Die → Die) : (s.modDie d f).throttled = s.throttled := rfl
@[simp] theorem State.modDie_sag (s : State) (d : Nat) (f : Die → Die) : (s.modDie d f).sag = s.sag := rfl
@[simp] theorem State.modDie_sagEnd (s : State) (d : Nat) (f : Die → Die) : (s.modDie d f).sagEnd = s.sagEnd := rfl
@[simp] theorem State.modDie_slewAt (s : State) (d : Nat) (f : Die → Die) : (s.modDie d f).slewAt = s.slewAt := rfl
@[simp] theorem State.modDie_slewHold (s : State) (d : Nat) (f : Die → Die) : (s.modDie d f).slewHold = s.slewHold := rfl
@[simp] theorem State.modDie_sealedImage (s : State) (d : Nat) (f : Die → Die) : (s.modDie d f).sealedImage = s.sealedImage := rfl
@[simp] theorem State.modDie_serial (s : State) (d : Nat) (f : Die → Die) : (s.modDie d f).serial = s.serial := rfl
@[simp] theorem State.modDie_freeCtr (s : State) (d : Nat) (f : Die → Die) : (s.modDie d f).freeCtr = s.freeCtr := rfl
@[simp] theorem State.modDie_inputs (s : State) (d : Nat) (f : Die → Die) : (s.modDie d f).inputs = s.inputs := rfl

/-! ### modPDie -/

@[simp] theorem State.modPDie_cycle (s : State) (d part : Nat) (f : PDie → PDie) : (s.modPDie d part f).cycle = s.cycle := rfl
@[simp] theorem State.modPDie_quartz (s : State) (d part : Nat) (f : PDie → PDie) : (s.modPDie d part f).quartz = s.quartz := rfl
@[simp] theorem State.modPDie_rotQuartz (s : State) (d part : Nat) (f : PDie → PDie) : (s.modPDie d part f).rotQuartz = s.rotQuartz := rfl
@[simp] theorem State.modPDie_cur (s : State) (d part : Nat) (f : PDie → PDie) : (s.modPDie d part f).cur = s.cur := rfl
@[simp] theorem State.modPDie_threads (s : State) (d part : Nat) (f : PDie → PDie) : (s.modPDie d part f).threads = s.threads := rfl
@[simp] theorem State.modPDie_cores (s : State) (d part : Nat) (f : PDie → PDie) : (s.modPDie d part f).cores = s.cores := rfl
@[simp] theorem State.modPDie_ppkg (s : State) (d part : Nat) (f : PDie → PDie) : (s.modPDie d part f).ppkg = s.ppkg := rfl
@[simp] theorem State.modPDie_fixed (s : State) (d part : Nat) (f : PDie → PDie) : (s.modPDie d part f).fixed = s.fixed := rfl
@[simp] theorem State.modPDie_mem (s : State) (d part : Nat) (f : PDie → PDie) : (s.modPDie d part f).mem = s.mem := rfl
@[simp] theorem State.modPDie_full (s : State) (d part : Nat) (f : PDie → PDie) : (s.modPDie d part f).full = s.full := rfl
@[simp] theorem State.modPDie_blab (s : State) (d part : Nat) (f : PDie → PDie) : (s.modPDie d part f).blab = s.blab := rfl
@[simp] theorem State.modPDie_poison (s : State) (d part : Nat) (f : PDie → PDie) : (s.modPDie d part f).poison = s.poison := rfl
@[simp] theorem State.modPDie_channels (s : State) (d part : Nat) (f : PDie → PDie) : (s.modPDie d part f).channels = s.channels := rfl
@[simp] theorem State.modPDie_arrivals (s : State) (d part : Nat) (f : PDie → PDie) : (s.modPDie d part f).arrivals = s.arrivals := rfl
@[simp] theorem State.modPDie_inbox (s : State) (d part : Nat) (f : PDie → PDie) : (s.modPDie d part f).inbox = s.inbox := rfl
@[simp] theorem State.modPDie_waiters (s : State) (d part : Nat) (f : PDie → PDie) : (s.modPDie d part f).waiters = s.waiters := rfl
@[simp] theorem State.modPDie_engines (s : State) (d part : Nat) (f : PDie → PDie) : (s.modPDie d part f).engines = s.engines := rfl
@[simp] theorem State.modPDie_launches (s : State) (d part : Nat) (f : PDie → PDie) : (s.modPDie d part f).launches = s.launches := rfl
@[simp] theorem State.modPDie_tgroups (s : State) (d part : Nat) (f : PDie → PDie) : (s.modPDie d part f).tgroups = s.tgroups := rfl
@[simp] theorem State.modPDie_barriers (s : State) (d part : Nat) (f : PDie → PDie) : (s.modPDie d part f).barriers = s.barriers := rfl
@[simp] theorem State.modPDie_prinMap (s : State) (d part : Nat) (f : PDie → PDie) : (s.modPDie d part f).prinMap = s.prinMap := rfl
@[simp] theorem State.modPDie_keys (s : State) (d part : Nat) (f : PDie → PDie) : (s.modPDie d part f).keys = s.keys := rfl
@[simp] theorem State.modPDie_worlds (s : State) (d part : Nat) (f : PDie → PDie) : (s.modPDie d part f).worlds = s.worlds := rfl
@[simp] theorem State.modPDie_msix (s : State) (d part : Nat) (f : PDie → PDie) : (s.modPDie d part f).msix = s.msix := rfl
@[simp] theorem State.modPDie_hostReads (s : State) (d part : Nat) (f : PDie → PDie) : (s.modPDie d part f).hostReads = s.hostReads := rfl
@[simp] theorem State.modPDie_bootMode (s : State) (d part : Nat) (f : PDie → PDie) : (s.modPDie d part f).bootMode = s.bootMode := rfl
@[simp] theorem State.modPDie_stage (s : State) (d part : Nat) (f : PDie → PDie) : (s.modPDie d part f).stage = s.stage := rfl
@[simp] theorem State.modPDie_powerAt (s : State) (d part : Nat) (f : PDie → PDie) : (s.modPDie d part f).powerAt = s.powerAt := rfl
@[simp] theorem State.modPDie_bootEnv (s : State) (d part : Nat) (f : PDie → PDie) : (s.modPDie d part f).bootEnv = s.bootEnv := rfl
@[simp] theorem State.modPDie_found (s : State) (d part : Nat) (f : PDie → PDie) : (s.modPDie d part f).found = s.found := rfl
@[simp] theorem State.modPDie_store (s : State) (d part : Nat) (f : PDie → PDie) : (s.modPDie d part f).store = s.store := rfl
@[simp] theorem State.modPDie_pwrCap (s : State) (d part : Nat) (f : PDie → PDie) : (s.modPDie d part f).pwrCap = s.pwrCap := rfl
@[simp] theorem State.modPDie_throttled (s : State) (d part : Nat) (f : PDie → PDie) : (s.modPDie d part f).throttled = s.throttled := rfl
@[simp] theorem State.modPDie_sag (s : State) (d part : Nat) (f : PDie → PDie) : (s.modPDie d part f).sag = s.sag := rfl
@[simp] theorem State.modPDie_sagEnd (s : State) (d part : Nat) (f : PDie → PDie) : (s.modPDie d part f).sagEnd = s.sagEnd := rfl
@[simp] theorem State.modPDie_slewAt (s : State) (d part : Nat) (f : PDie → PDie) : (s.modPDie d part f).slewAt = s.slewAt := rfl
@[simp] theorem State.modPDie_slewHold (s : State) (d part : Nat) (f : PDie → PDie) : (s.modPDie d part f).slewHold = s.slewHold := rfl
@[simp] theorem State.modPDie_sealedImage (s : State) (d part : Nat) (f : PDie → PDie) : (s.modPDie d part f).sealedImage = s.sealedImage := rfl
@[simp] theorem State.modPDie_serial (s : State) (d part : Nat) (f : PDie → PDie) : (s.modPDie d part f).serial = s.serial := rfl
@[simp] theorem State.modPDie_freeCtr (s : State) (d part : Nat) (f : PDie → PDie) : (s.modPDie d part f).freeCtr = s.freeCtr := rfl
@[simp] theorem State.modPDie_inputs (s : State) (d part : Nat) (f : PDie → PDie) : (s.modPDie d part f).inputs = s.inputs := rfl

/-! ### modPP -/

@[simp] theorem State.modPP_cycle (s : State) (part : Nat) (f : PPkg → PPkg) : (s.modPP part f).cycle = s.cycle := rfl
@[simp] theorem State.modPP_quartz (s : State) (part : Nat) (f : PPkg → PPkg) : (s.modPP part f).quartz = s.quartz := rfl
@[simp] theorem State.modPP_rotQuartz (s : State) (part : Nat) (f : PPkg → PPkg) : (s.modPP part f).rotQuartz = s.rotQuartz := rfl
@[simp] theorem State.modPP_cur (s : State) (part : Nat) (f : PPkg → PPkg) : (s.modPP part f).cur = s.cur := rfl
@[simp] theorem State.modPP_threads (s : State) (part : Nat) (f : PPkg → PPkg) : (s.modPP part f).threads = s.threads := rfl
@[simp] theorem State.modPP_cores (s : State) (part : Nat) (f : PPkg → PPkg) : (s.modPP part f).cores = s.cores := rfl
@[simp] theorem State.modPP_dies (s : State) (part : Nat) (f : PPkg → PPkg) : (s.modPP part f).dies = s.dies := rfl
@[simp] theorem State.modPP_fixed (s : State) (part : Nat) (f : PPkg → PPkg) : (s.modPP part f).fixed = s.fixed := rfl
@[simp] theorem State.modPP_mem (s : State) (part : Nat) (f : PPkg → PPkg) : (s.modPP part f).mem = s.mem := rfl
@[simp] theorem State.modPP_full (s : State) (part : Nat) (f : PPkg → PPkg) : (s.modPP part f).full = s.full := rfl
@[simp] theorem State.modPP_blab (s : State) (part : Nat) (f : PPkg → PPkg) : (s.modPP part f).blab = s.blab := rfl
@[simp] theorem State.modPP_poison (s : State) (part : Nat) (f : PPkg → PPkg) : (s.modPP part f).poison = s.poison := rfl
@[simp] theorem State.modPP_channels (s : State) (part : Nat) (f : PPkg → PPkg) : (s.modPP part f).channels = s.channels := rfl
@[simp] theorem State.modPP_arrivals (s : State) (part : Nat) (f : PPkg → PPkg) : (s.modPP part f).arrivals = s.arrivals := rfl
@[simp] theorem State.modPP_inbox (s : State) (part : Nat) (f : PPkg → PPkg) : (s.modPP part f).inbox = s.inbox := rfl
@[simp] theorem State.modPP_waiters (s : State) (part : Nat) (f : PPkg → PPkg) : (s.modPP part f).waiters = s.waiters := rfl
@[simp] theorem State.modPP_engines (s : State) (part : Nat) (f : PPkg → PPkg) : (s.modPP part f).engines = s.engines := rfl
@[simp] theorem State.modPP_launches (s : State) (part : Nat) (f : PPkg → PPkg) : (s.modPP part f).launches = s.launches := rfl
@[simp] theorem State.modPP_tgroups (s : State) (part : Nat) (f : PPkg → PPkg) : (s.modPP part f).tgroups = s.tgroups := rfl
@[simp] theorem State.modPP_barriers (s : State) (part : Nat) (f : PPkg → PPkg) : (s.modPP part f).barriers = s.barriers := rfl
@[simp] theorem State.modPP_prinMap (s : State) (part : Nat) (f : PPkg → PPkg) : (s.modPP part f).prinMap = s.prinMap := rfl
@[simp] theorem State.modPP_keys (s : State) (part : Nat) (f : PPkg → PPkg) : (s.modPP part f).keys = s.keys := rfl
@[simp] theorem State.modPP_worlds (s : State) (part : Nat) (f : PPkg → PPkg) : (s.modPP part f).worlds = s.worlds := rfl
@[simp] theorem State.modPP_msix (s : State) (part : Nat) (f : PPkg → PPkg) : (s.modPP part f).msix = s.msix := rfl
@[simp] theorem State.modPP_hostReads (s : State) (part : Nat) (f : PPkg → PPkg) : (s.modPP part f).hostReads = s.hostReads := rfl
@[simp] theorem State.modPP_bootMode (s : State) (part : Nat) (f : PPkg → PPkg) : (s.modPP part f).bootMode = s.bootMode := rfl
@[simp] theorem State.modPP_stage (s : State) (part : Nat) (f : PPkg → PPkg) : (s.modPP part f).stage = s.stage := rfl
@[simp] theorem State.modPP_powerAt (s : State) (part : Nat) (f : PPkg → PPkg) : (s.modPP part f).powerAt = s.powerAt := rfl
@[simp] theorem State.modPP_bootEnv (s : State) (part : Nat) (f : PPkg → PPkg) : (s.modPP part f).bootEnv = s.bootEnv := rfl
@[simp] theorem State.modPP_found (s : State) (part : Nat) (f : PPkg → PPkg) : (s.modPP part f).found = s.found := rfl
@[simp] theorem State.modPP_store (s : State) (part : Nat) (f : PPkg → PPkg) : (s.modPP part f).store = s.store := rfl
@[simp] theorem State.modPP_pwrCap (s : State) (part : Nat) (f : PPkg → PPkg) : (s.modPP part f).pwrCap = s.pwrCap := rfl
@[simp] theorem State.modPP_throttled (s : State) (part : Nat) (f : PPkg → PPkg) : (s.modPP part f).throttled = s.throttled := rfl
@[simp] theorem State.modPP_sag (s : State) (part : Nat) (f : PPkg → PPkg) : (s.modPP part f).sag = s.sag := rfl
@[simp] theorem State.modPP_sagEnd (s : State) (part : Nat) (f : PPkg → PPkg) : (s.modPP part f).sagEnd = s.sagEnd := rfl
@[simp] theorem State.modPP_slewAt (s : State) (part : Nat) (f : PPkg → PPkg) : (s.modPP part f).slewAt = s.slewAt := rfl
@[simp] theorem State.modPP_slewHold (s : State) (part : Nat) (f : PPkg → PPkg) : (s.modPP part f).slewHold = s.slewHold := rfl
@[simp] theorem State.modPP_sealedImage (s : State) (part : Nat) (f : PPkg → PPkg) : (s.modPP part f).sealedImage = s.sealedImage := rfl
@[simp] theorem State.modPP_serial (s : State) (part : Nat) (f : PPkg → PPkg) : (s.modPP part f).serial = s.serial := rfl
@[simp] theorem State.modPP_freeCtr (s : State) (part : Nat) (f : PPkg → PPkg) : (s.modPP part f).freeCtr = s.freeCtr := rfl
@[simp] theorem State.modPP_inputs (s : State) (part : Nat) (f : PPkg → PPkg) : (s.modPP part f).inputs = s.inputs := rfl

/-! ### tick1 -/

@[simp] theorem State.tick1_cycle (s : State) : (s.tick1).cycle = s.cycle := rfl
@[simp] theorem State.tick1_quartz (s : State) : (s.tick1).quartz = s.quartz := rfl
@[simp] theorem State.tick1_rotQuartz (s : State) : (s.tick1).rotQuartz = s.rotQuartz := rfl
@[simp] theorem State.tick1_cur (s : State) : (s.tick1).cur = s.cur := rfl
@[simp] theorem State.tick1_threads (s : State) : (s.tick1).threads = s.threads := rfl
@[simp] theorem State.tick1_cores (s : State) : (s.tick1).cores = s.cores := rfl
@[simp] theorem State.tick1_dies (s : State) : (s.tick1).dies = s.dies := rfl
@[simp] theorem State.tick1_ppkg (s : State) : (s.tick1).ppkg = s.ppkg := rfl
@[simp] theorem State.tick1_fixed (s : State) : (s.tick1).fixed = s.fixed := rfl
@[simp] theorem State.tick1_mem (s : State) : (s.tick1).mem = s.mem := rfl
@[simp] theorem State.tick1_full (s : State) : (s.tick1).full = s.full := rfl
@[simp] theorem State.tick1_blab (s : State) : (s.tick1).blab = s.blab := rfl
@[simp] theorem State.tick1_poison (s : State) : (s.tick1).poison = s.poison := rfl
@[simp] theorem State.tick1_channels (s : State) : (s.tick1).channels = s.channels := rfl
@[simp] theorem State.tick1_arrivals (s : State) : (s.tick1).arrivals = s.arrivals := rfl
@[simp] theorem State.tick1_inbox (s : State) : (s.tick1).inbox = s.inbox := rfl
@[simp] theorem State.tick1_waiters (s : State) : (s.tick1).waiters = s.waiters := rfl
@[simp] theorem State.tick1_engines (s : State) : (s.tick1).engines = s.engines := rfl
@[simp] theorem State.tick1_launches (s : State) : (s.tick1).launches = s.launches := rfl
@[simp] theorem State.tick1_tgroups (s : State) : (s.tick1).tgroups = s.tgroups := rfl
@[simp] theorem State.tick1_barriers (s : State) : (s.tick1).barriers = s.barriers := rfl
@[simp] theorem State.tick1_prinMap (s : State) : (s.tick1).prinMap = s.prinMap := rfl
@[simp] theorem State.tick1_keys (s : State) : (s.tick1).keys = s.keys := rfl
@[simp] theorem State.tick1_worlds (s : State) : (s.tick1).worlds = s.worlds := rfl
@[simp] theorem State.tick1_msix (s : State) : (s.tick1).msix = s.msix := rfl
@[simp] theorem State.tick1_hostReads (s : State) : (s.tick1).hostReads = s.hostReads := rfl
@[simp] theorem State.tick1_bootMode (s : State) : (s.tick1).bootMode = s.bootMode := rfl
@[simp] theorem State.tick1_stage (s : State) : (s.tick1).stage = s.stage := rfl
@[simp] theorem State.tick1_powerAt (s : State) : (s.tick1).powerAt = s.powerAt := rfl
@[simp] theorem State.tick1_bootEnv (s : State) : (s.tick1).bootEnv = s.bootEnv := rfl
@[simp] theorem State.tick1_found (s : State) : (s.tick1).found = s.found := rfl
@[simp] theorem State.tick1_store (s : State) : (s.tick1).store = s.store := rfl
@[simp] theorem State.tick1_pwrCap (s : State) : (s.tick1).pwrCap = s.pwrCap := rfl
@[simp] theorem State.tick1_throttled (s : State) : (s.tick1).throttled = s.throttled := rfl
@[simp] theorem State.tick1_sag (s : State) : (s.tick1).sag = s.sag := rfl
@[simp] theorem State.tick1_sagEnd (s : State) : (s.tick1).sagEnd = s.sagEnd := rfl
@[simp] theorem State.tick1_slewAt (s : State) : (s.tick1).slewAt = s.slewAt := rfl
@[simp] theorem State.tick1_slewHold (s : State) : (s.tick1).slewHold = s.slewHold := rfl
@[simp] theorem State.tick1_sealedImage (s : State) : (s.tick1).sealedImage = s.sealedImage := rfl
@[simp] theorem State.tick1_freeCtr (s : State) : (s.tick1).freeCtr = s.freeCtr := rfl
@[simp] theorem State.tick1_inputs (s : State) : (s.tick1).inputs = s.inputs := rfl

/-! ### putBytes -/

@[simp] theorem State.putBytes_cycle (s : State) (pa : Nat) (l : List (Option Byte)) : (s.putBytes pa l).cycle = s.cycle := rfl
@[simp] theorem State.putBytes_quartz (s : State) (pa : Nat) (l : List (Option Byte)) : (s.putBytes pa l).quartz = s.quartz := rfl
@[simp] theorem State.putBytes_rotQuartz (s : State) (pa : Nat) (l : List (Option Byte)) : (s.putBytes pa l).rotQuartz = s.rotQuartz := rfl
@[simp] theorem State.putBytes_cur (s : State) (pa : Nat) (l : List (Option Byte)) : (s.putBytes pa l).cur = s.cur := rfl
@[simp] theorem State.putBytes_threads (s : State) (pa : Nat) (l : List (Option Byte)) : (s.putBytes pa l).threads = s.threads := rfl
@[simp] theorem State.putBytes_cores (s : State) (pa : Nat) (l : List (Option Byte)) : (s.putBytes pa l).cores = s.cores := rfl
@[simp] theorem State.putBytes_dies (s : State) (pa : Nat) (l : List (Option Byte)) : (s.putBytes pa l).dies = s.dies := rfl
@[simp] theorem State.putBytes_ppkg (s : State) (pa : Nat) (l : List (Option Byte)) : (s.putBytes pa l).ppkg = s.ppkg := rfl
@[simp] theorem State.putBytes_fixed (s : State) (pa : Nat) (l : List (Option Byte)) : (s.putBytes pa l).fixed = s.fixed := rfl
@[simp] theorem State.putBytes_full (s : State) (pa : Nat) (l : List (Option Byte)) : (s.putBytes pa l).full = s.full := rfl
@[simp] theorem State.putBytes_blab (s : State) (pa : Nat) (l : List (Option Byte)) : (s.putBytes pa l).blab = s.blab := rfl
@[simp] theorem State.putBytes_poison (s : State) (pa : Nat) (l : List (Option Byte)) : (s.putBytes pa l).poison = s.poison := rfl
@[simp] theorem State.putBytes_channels (s : State) (pa : Nat) (l : List (Option Byte)) : (s.putBytes pa l).channels = s.channels := rfl
@[simp] theorem State.putBytes_arrivals (s : State) (pa : Nat) (l : List (Option Byte)) : (s.putBytes pa l).arrivals = s.arrivals := rfl
@[simp] theorem State.putBytes_inbox (s : State) (pa : Nat) (l : List (Option Byte)) : (s.putBytes pa l).inbox = s.inbox := rfl
@[simp] theorem State.putBytes_waiters (s : State) (pa : Nat) (l : List (Option Byte)) : (s.putBytes pa l).waiters = s.waiters := rfl
@[simp] theorem State.putBytes_engines (s : State) (pa : Nat) (l : List (Option Byte)) : (s.putBytes pa l).engines = s.engines := rfl
@[simp] theorem State.putBytes_launches (s : State) (pa : Nat) (l : List (Option Byte)) : (s.putBytes pa l).launches = s.launches := rfl
@[simp] theorem State.putBytes_tgroups (s : State) (pa : Nat) (l : List (Option Byte)) : (s.putBytes pa l).tgroups = s.tgroups := rfl
@[simp] theorem State.putBytes_barriers (s : State) (pa : Nat) (l : List (Option Byte)) : (s.putBytes pa l).barriers = s.barriers := rfl
@[simp] theorem State.putBytes_prinMap (s : State) (pa : Nat) (l : List (Option Byte)) : (s.putBytes pa l).prinMap = s.prinMap := rfl
@[simp] theorem State.putBytes_keys (s : State) (pa : Nat) (l : List (Option Byte)) : (s.putBytes pa l).keys = s.keys := rfl
@[simp] theorem State.putBytes_worlds (s : State) (pa : Nat) (l : List (Option Byte)) : (s.putBytes pa l).worlds = s.worlds := rfl
@[simp] theorem State.putBytes_msix (s : State) (pa : Nat) (l : List (Option Byte)) : (s.putBytes pa l).msix = s.msix := rfl
@[simp] theorem State.putBytes_hostReads (s : State) (pa : Nat) (l : List (Option Byte)) : (s.putBytes pa l).hostReads = s.hostReads := rfl
@[simp] theorem State.putBytes_bootMode (s : State) (pa : Nat) (l : List (Option Byte)) : (s.putBytes pa l).bootMode = s.bootMode := rfl
@[simp] theorem State.putBytes_stage (s : State) (pa : Nat) (l : List (Option Byte)) : (s.putBytes pa l).stage = s.stage := rfl
@[simp] theorem State.putBytes_powerAt (s : State) (pa : Nat) (l : List (Option Byte)) : (s.putBytes pa l).powerAt = s.powerAt := rfl
@[simp] theorem State.putBytes_bootEnv (s : State) (pa : Nat) (l : List (Option Byte)) : (s.putBytes pa l).bootEnv = s.bootEnv := rfl
@[simp] theorem State.putBytes_found (s : State) (pa : Nat) (l : List (Option Byte)) : (s.putBytes pa l).found = s.found := rfl
@[simp] theorem State.putBytes_store (s : State) (pa : Nat) (l : List (Option Byte)) : (s.putBytes pa l).store = s.store := rfl
@[simp] theorem State.putBytes_pwrCap (s : State) (pa : Nat) (l : List (Option Byte)) : (s.putBytes pa l).pwrCap = s.pwrCap := rfl
@[simp] theorem State.putBytes_throttled (s : State) (pa : Nat) (l : List (Option Byte)) : (s.putBytes pa l).throttled = s.throttled := rfl
@[simp] theorem State.putBytes_sag (s : State) (pa : Nat) (l : List (Option Byte)) : (s.putBytes pa l).sag = s.sag := rfl
@[simp] theorem State.putBytes_sagEnd (s : State) (pa : Nat) (l : List (Option Byte)) : (s.putBytes pa l).sagEnd = s.sagEnd := rfl
@[simp] theorem State.putBytes_slewAt (s : State) (pa : Nat) (l : List (Option Byte)) : (s.putBytes pa l).slewAt = s.slewAt := rfl
@[simp] theorem State.putBytes_slewHold (s : State) (pa : Nat) (l : List (Option Byte)) : (s.putBytes pa l).slewHold = s.slewHold := rfl
@[simp] theorem State.putBytes_sealedImage (s : State) (pa : Nat) (l : List (Option Byte)) : (s.putBytes pa l).sealedImage = s.sealedImage := rfl
@[simp] theorem State.putBytes_serial (s : State) (pa : Nat) (l : List (Option Byte)) : (s.putBytes pa l).serial = s.serial := rfl
@[simp] theorem State.putBytes_freeCtr (s : State) (pa : Nat) (l : List (Option Byte)) : (s.putBytes pa l).freeCtr = s.freeCtr := rfl
@[simp] theorem State.putBytes_inputs (s : State) (pa : Nat) (l : List (Option Byte)) : (s.putBytes pa l).inputs = s.inputs := rfl

/-! ### send -/

@[simp] theorem State.send_cycle (s : State) (a b : Node) (pl : Plane) (it : Item) : (s.send a b pl it).cycle = s.cycle := rfl
@[simp] theorem State.send_quartz (s : State) (a b : Node) (pl : Plane) (it : Item) : (s.send a b pl it).quartz = s.quartz := rfl
@[simp] theorem State.send_rotQuartz (s : State) (a b : Node) (pl : Plane) (it : Item) : (s.send a b pl it).rotQuartz = s.rotQuartz := rfl
@[simp] theorem State.send_cur (s : State) (a b : Node) (pl : Plane) (it : Item) : (s.send a b pl it).cur = s.cur := rfl
@[simp] theorem State.send_threads (s : State) (a b : Node) (pl : Plane) (it : Item) : (s.send a b pl it).threads = s.threads := rfl
@[simp] theorem State.send_cores (s : State) (a b : Node) (pl : Plane) (it : Item) : (s.send a b pl it).cores = s.cores := rfl
@[simp] theorem State.send_dies (s : State) (a b : Node) (pl : Plane) (it : Item) : (s.send a b pl it).dies = s.dies := rfl
@[simp] theorem State.send_ppkg (s : State) (a b : Node) (pl : Plane) (it : Item) : (s.send a b pl it).ppkg = s.ppkg := rfl
@[simp] theorem State.send_fixed (s : State) (a b : Node) (pl : Plane) (it : Item) : (s.send a b pl it).fixed = s.fixed := rfl
@[simp] theorem State.send_mem (s : State) (a b : Node) (pl : Plane) (it : Item) : (s.send a b pl it).mem = s.mem := rfl
@[simp] theorem State.send_full (s : State) (a b : Node) (pl : Plane) (it : Item) : (s.send a b pl it).full = s.full := rfl
@[simp] theorem State.send_blab (s : State) (a b : Node) (pl : Plane) (it : Item) : (s.send a b pl it).blab = s.blab := rfl
@[simp] theorem State.send_poison (s : State) (a b : Node) (pl : Plane) (it : Item) : (s.send a b pl it).poison = s.poison := rfl
@[simp] theorem State.send_arrivals (s : State) (a b : Node) (pl : Plane) (it : Item) : (s.send a b pl it).arrivals = s.arrivals := rfl
@[simp] theorem State.send_inbox (s : State) (a b : Node) (pl : Plane) (it : Item) : (s.send a b pl it).inbox = s.inbox := rfl
@[simp] theorem State.send_waiters (s : State) (a b : Node) (pl : Plane) (it : Item) : (s.send a b pl it).waiters = s.waiters := rfl
@[simp] theorem State.send_engines (s : State) (a b : Node) (pl : Plane) (it : Item) : (s.send a b pl it).engines = s.engines := rfl
@[simp] theorem State.send_launches (s : State) (a b : Node) (pl : Plane) (it : Item) : (s.send a b pl it).launches = s.launches := rfl
@[simp] theorem State.send_tgroups (s : State) (a b : Node) (pl : Plane) (it : Item) : (s.send a b pl it).tgroups = s.tgroups := rfl
@[simp] theorem State.send_barriers (s : State) (a b : Node) (pl : Plane) (it : Item) : (s.send a b pl it).barriers = s.barriers := rfl
@[simp] theorem State.send_prinMap (s : State) (a b : Node) (pl : Plane) (it : Item) : (s.send a b pl it).prinMap = s.prinMap := rfl
@[simp] theorem State.send_keys (s : State) (a b : Node) (pl : Plane) (it : Item) : (s.send a b pl it).keys = s.keys := rfl
@[simp] theorem State.send_worlds (s : State) (a b : Node) (pl : Plane) (it : Item) : (s.send a b pl it).worlds = s.worlds := rfl
@[simp] theorem State.send_msix (s : State) (a b : Node) (pl : Plane) (it : Item) : (s.send a b pl it).msix = s.msix := rfl
@[simp] theorem State.send_hostReads (s : State) (a b : Node) (pl : Plane) (it : Item) : (s.send a b pl it).hostReads = s.hostReads := rfl
@[simp] theorem State.send_bootMode (s : State) (a b : Node) (pl : Plane) (it : Item) : (s.send a b pl it).bootMode = s.bootMode := rfl
@[simp] theorem State.send_stage (s : State) (a b : Node) (pl : Plane) (it : Item) : (s.send a b pl it).stage = s.stage := rfl
@[simp] theorem State.send_powerAt (s : State) (a b : Node) (pl : Plane) (it : Item) : (s.send a b pl it).powerAt = s.powerAt := rfl
@[simp] theorem State.send_bootEnv (s : State) (a b : Node) (pl : Plane) (it : Item) : (s.send a b pl it).bootEnv = s.bootEnv := rfl
@[simp] theorem State.send_found (s : State) (a b : Node) (pl : Plane) (it : Item) : (s.send a b pl it).found = s.found := rfl
@[simp] theorem State.send_store (s : State) (a b : Node) (pl : Plane) (it : Item) : (s.send a b pl it).store = s.store := rfl
@[simp] theorem State.send_pwrCap (s : State) (a b : Node) (pl : Plane) (it : Item) : (s.send a b pl it).pwrCap = s.pwrCap := rfl
@[simp] theorem State.send_throttled (s : State) (a b : Node) (pl : Plane) (it : Item) : (s.send a b pl it).throttled = s.throttled := rfl
@[simp] theorem State.send_sag (s : State) (a b : Node) (pl : Plane) (it : Item) : (s.send a b pl it).sag = s.sag := rfl
@[simp] theorem State.send_sagEnd (s : State) (a b : Node) (pl : Plane) (it : Item) : (s.send a b pl it).sagEnd = s.sagEnd := rfl
@[simp] theorem State.send_slewAt (s : State) (a b : Node) (pl : Plane) (it : Item) : (s.send a b pl it).slewAt = s.slewAt := rfl
@[simp] theorem State.send_slewHold (s : State) (a b : Node) (pl : Plane) (it : Item) : (s.send a b pl it).slewHold = s.slewHold := rfl
@[simp] theorem State.send_sealedImage (s : State) (a b : Node) (pl : Plane) (it : Item) : (s.send a b pl it).sealedImage = s.sealedImage := rfl
@[simp] theorem State.send_serial (s : State) (a b : Node) (pl : Plane) (it : Item) : (s.send a b pl it).serial = s.serial := rfl
@[simp] theorem State.send_freeCtr (s : State) (a b : Node) (pl : Plane) (it : Item) : (s.send a b pl it).freeCtr = s.freeCtr := rfl
@[simp] theorem State.send_inputs (s : State) (a b : Node) (pl : Plane) (it : Item) : (s.send a b pl it).inputs = s.inputs := rfl

/-! ### arrive -/

@[simp] theorem State.arrive_cycle (s : State) (n : Node) (it : Item) : (s.arrive n it).cycle = s.cycle := rfl
@[simp] theorem State.arrive_quartz (s : State) (n : Node) (it : Item) : (s.arrive n it).quartz = s.quartz := rfl
@[simp] theorem State.arrive_rotQuartz (s : State) (n : Node) (it : Item) : (s.arrive n it).rotQuartz = s.rotQuartz := rfl
@[simp] theorem State.arrive_cur (s : State) (n : Node) (it : Item) : (s.arrive n it).cur = s.cur := rfl
@[simp] theorem State.arrive_threads (s : State) (n : Node) (it : Item) : (s.arrive n it).threads = s.threads := rfl
@[simp] theorem State.arrive_cores (s : State) (n : Node) (it : Item) : (s.arrive n it).cores = s.cores := rfl
@[simp] theorem State.arrive_dies (s : State) (n : Node) (it : Item) : (s.arrive n it).dies = s.dies := rfl
@[simp] theorem State.arrive_ppkg (s : State) (n : Node) (it : Item) : (s.arrive n it).ppkg = s.ppkg := rfl
@[simp] theorem State.arrive_fixed (s : State) (n : Node) (it : Item) : (s.arrive n it).fixed = s.fixed := rfl
@[simp] theorem State.arrive_mem (s : State) (n : Node) (it : Item) : (s.arrive n it).mem = s.mem := rfl
@[simp] theorem State.arrive_full (s : State) (n : Node) (it : Item) : (s.arrive n it).full = s.full := rfl
@[simp] theorem State.arrive_blab (s : State) (n : Node) (it : Item) : (s.arrive n it).blab = s.blab := rfl
@[simp] theorem State.arrive_poison (s : State) (n : Node) (it : Item) : (s.arrive n it).poison = s.poison := rfl
@[simp] theorem State.arrive_channels (s : State) (n : Node) (it : Item) : (s.arrive n it).channels = s.channels := rfl
@[simp] theorem State.arrive_inbox (s : State) (n : Node) (it : Item) : (s.arrive n it).inbox = s.inbox := rfl
@[simp] theorem State.arrive_waiters (s : State) (n : Node) (it : Item) : (s.arrive n it).waiters = s.waiters := rfl
@[simp] theorem State.arrive_engines (s : State) (n : Node) (it : Item) : (s.arrive n it).engines = s.engines := rfl
@[simp] theorem State.arrive_launches (s : State) (n : Node) (it : Item) : (s.arrive n it).launches = s.launches := rfl
@[simp] theorem State.arrive_tgroups (s : State) (n : Node) (it : Item) : (s.arrive n it).tgroups = s.tgroups := rfl
@[simp] theorem State.arrive_barriers (s : State) (n : Node) (it : Item) : (s.arrive n it).barriers = s.barriers := rfl
@[simp] theorem State.arrive_prinMap (s : State) (n : Node) (it : Item) : (s.arrive n it).prinMap = s.prinMap := rfl
@[simp] theorem State.arrive_keys (s : State) (n : Node) (it : Item) : (s.arrive n it).keys = s.keys := rfl
@[simp] theorem State.arrive_worlds (s : State) (n : Node) (it : Item) : (s.arrive n it).worlds = s.worlds := rfl
@[simp] theorem State.arrive_msix (s : State) (n : Node) (it : Item) : (s.arrive n it).msix = s.msix := rfl
@[simp] theorem State.arrive_hostReads (s : State) (n : Node) (it : Item) : (s.arrive n it).hostReads = s.hostReads := rfl
@[simp] theorem State.arrive_bootMode (s : State) (n : Node) (it : Item) : (s.arrive n it).bootMode = s.bootMode := rfl
@[simp] theorem State.arrive_stage (s : State) (n : Node) (it : Item) : (s.arrive n it).stage = s.stage := rfl
@[simp] theorem State.arrive_powerAt (s : State) (n : Node) (it : Item) : (s.arrive n it).powerAt = s.powerAt := rfl
@[simp] theorem State.arrive_bootEnv (s : State) (n : Node) (it : Item) : (s.arrive n it).bootEnv = s.bootEnv := rfl
@[simp] theorem State.arrive_found (s : State) (n : Node) (it : Item) : (s.arrive n it).found = s.found := rfl
@[simp] theorem State.arrive_store (s : State) (n : Node) (it : Item) : (s.arrive n it).store = s.store := rfl
@[simp] theorem State.arrive_pwrCap (s : State) (n : Node) (it : Item) : (s.arrive n it).pwrCap = s.pwrCap := rfl
@[simp] theorem State.arrive_throttled (s : State) (n : Node) (it : Item) : (s.arrive n it).throttled = s.throttled := rfl
@[simp] theorem State.arrive_sag (s : State) (n : Node) (it : Item) : (s.arrive n it).sag = s.sag := rfl
@[simp] theorem State.arrive_sagEnd (s : State) (n : Node) (it : Item) : (s.arrive n it).sagEnd = s.sagEnd := rfl
@[simp] theorem State.arrive_slewAt (s : State) (n : Node) (it : Item) : (s.arrive n it).slewAt = s.slewAt := rfl
@[simp] theorem State.arrive_slewHold (s : State) (n : Node) (it : Item) : (s.arrive n it).slewHold = s.slewHold := rfl
@[simp] theorem State.arrive_sealedImage (s : State) (n : Node) (it : Item) : (s.arrive n it).sealedImage = s.sealedImage := rfl
@[simp] theorem State.arrive_serial (s : State) (n : Node) (it : Item) : (s.arrive n it).serial = s.serial := rfl
@[simp] theorem State.arrive_freeCtr (s : State) (n : Node) (it : Item) : (s.arrive n it).freeCtr = s.freeCtr := rfl
@[simp] theorem State.arrive_inputs (s : State) (n : Node) (it : Item) : (s.arrive n it).inputs = s.inputs := rfl

/-! ### toInbox -/

@[simp] theorem State.toInbox_cycle (s : State) (n : Node) (it : Item) : (s.toInbox n it).cycle = s.cycle := rfl
@[simp] theorem State.toInbox_quartz (s : State) (n : Node) (it : Item) : (s.toInbox n it).quartz = s.quartz := rfl
@[simp] theorem State.toInbox_rotQuartz (s : State) (n : Node) (it : Item) : (s.toInbox n it).rotQuartz = s.rotQuartz := rfl
@[simp] theorem State.toInbox_cur (s : State) (n : Node) (it : Item) : (s.toInbox n it).cur = s.cur := rfl
@[simp] theorem State.toInbox_threads (s : State) (n : Node) (it : Item) : (s.toInbox n it).threads = s.threads := rfl
@[simp] theorem State.toInbox_cores (s : State) (n : Node) (it : Item) : (s.toInbox n it).cores = s.cores := rfl
@[simp] theorem State.toInbox_dies (s : State) (n : Node) (it : Item) : (s.toInbox n it).dies = s.dies := rfl
@[simp] theorem State.toInbox_ppkg (s : State) (n : Node) (it : Item) : (s.toInbox n it).ppkg = s.ppkg := rfl
@[simp] theorem State.toInbox_fixed (s : State) (n : Node) (it : Item) : (s.toInbox n it).fixed = s.fixed := rfl
@[simp] theorem State.toInbox_mem (s : State) (n : Node) (it : Item) : (s.toInbox n it).mem = s.mem := rfl
@[simp] theorem State.toInbox_full (s : State) (n : Node) (it : Item) : (s.toInbox n it).full = s.full := rfl
@[simp] theorem State.toInbox_blab (s : State) (n : Node) (it : Item) : (s.toInbox n it).blab = s.blab := rfl
@[simp] theorem State.toInbox_poison (s : State) (n : Node) (it : Item) : (s.toInbox n it).poison = s.poison := rfl
@[simp] theorem State.toInbox_channels (s : State) (n : Node) (it : Item) : (s.toInbox n it).channels = s.channels := rfl
@[simp] theorem State.toInbox_arrivals (s : State) (n : Node) (it : Item) : (s.toInbox n it).arrivals = s.arrivals := rfl
@[simp] theorem State.toInbox_waiters (s : State) (n : Node) (it : Item) : (s.toInbox n it).waiters = s.waiters := rfl
@[simp] theorem State.toInbox_engines (s : State) (n : Node) (it : Item) : (s.toInbox n it).engines = s.engines := rfl
@[simp] theorem State.toInbox_launches (s : State) (n : Node) (it : Item) : (s.toInbox n it).launches = s.launches := rfl
@[simp] theorem State.toInbox_tgroups (s : State) (n : Node) (it : Item) : (s.toInbox n it).tgroups = s.tgroups := rfl
@[simp] theorem State.toInbox_barriers (s : State) (n : Node) (it : Item) : (s.toInbox n it).barriers = s.barriers := rfl
@[simp] theorem State.toInbox_prinMap (s : State) (n : Node) (it : Item) : (s.toInbox n it).prinMap = s.prinMap := rfl
@[simp] theorem State.toInbox_keys (s : State) (n : Node) (it : Item) : (s.toInbox n it).keys = s.keys := rfl
@[simp] theorem State.toInbox_worlds (s : State) (n : Node) (it : Item) : (s.toInbox n it).worlds = s.worlds := rfl
@[simp] theorem State.toInbox_msix (s : State) (n : Node) (it : Item) : (s.toInbox n it).msix = s.msix := rfl
@[simp] theorem State.toInbox_hostReads (s : State) (n : Node) (it : Item) : (s.toInbox n it).hostReads = s.hostReads := rfl
@[simp] theorem State.toInbox_bootMode (s : State) (n : Node) (it : Item) : (s.toInbox n it).bootMode = s.bootMode := rfl
@[simp] theorem State.toInbox_stage (s : State) (n : Node) (it : Item) : (s.toInbox n it).stage = s.stage := rfl
@[simp] theorem State.toInbox_powerAt (s : State) (n : Node) (it : Item) : (s.toInbox n it).powerAt = s.powerAt := rfl
@[simp] theorem State.toInbox_bootEnv (s : State) (n : Node) (it : Item) : (s.toInbox n it).bootEnv = s.bootEnv := rfl
@[simp] theorem State.toInbox_found (s : State) (n : Node) (it : Item) : (s.toInbox n it).found = s.found := rfl
@[simp] theorem State.toInbox_store (s : State) (n : Node) (it : Item) : (s.toInbox n it).store = s.store := rfl
@[simp] theorem State.toInbox_pwrCap (s : State) (n : Node) (it : Item) : (s.toInbox n it).pwrCap = s.pwrCap := rfl
@[simp] theorem State.toInbox_throttled (s : State) (n : Node) (it : Item) : (s.toInbox n it).throttled = s.throttled := rfl
@[simp] theorem State.toInbox_sag (s : State) (n : Node) (it : Item) : (s.toInbox n it).sag = s.sag := rfl
@[simp] theorem State.toInbox_sagEnd (s : State) (n : Node) (it : Item) : (s.toInbox n it).sagEnd = s.sagEnd := rfl
@[simp] theorem State.toInbox_slewAt (s : State) (n : Node) (it : Item) : (s.toInbox n it).slewAt = s.slewAt := rfl
@[simp] theorem State.toInbox_slewHold (s : State) (n : Node) (it : Item) : (s.toInbox n it).slewHold = s.slewHold := rfl
@[simp] theorem State.toInbox_sealedImage (s : State) (n : Node) (it : Item) : (s.toInbox n it).sealedImage = s.sealedImage := rfl
@[simp] theorem State.toInbox_serial (s : State) (n : Node) (it : Item) : (s.toInbox n it).serial = s.serial := rfl
@[simp] theorem State.toInbox_freeCtr (s : State) (n : Node) (it : Item) : (s.toInbox n it).freeCtr = s.freeCtr := rfl
@[simp] theorem State.toInbox_inputs (s : State) (n : Node) (it : Item) : (s.toInbox n it).inputs = s.inputs := rfl

end Sys2Proof.Machine
end

