-- ==== Sys2Proof/Laws/Maps.lean ====
section
/-! SUPPORT. Finite maps: reading after writing, and that the keys keep rising. -/

namespace Sys2Proof.Machine

@[simp] theorem nget_nil {α : Type} (k : Nat) : nget ([] : NMap α) k = none := rfl

@[simp] theorem nget_nset_self {α : Type} (m : NMap α) (k : Nat) (x : α) : nget (nset m k x) k = some x := by
  induction m with
  | nil => simp [nset, nget]
  | cons c m ih =>
    obtain ⟨j, y⟩ := c
    simp only [nset]
    split
    · simp [nget]
    · split
      · simp [nget]
      · simp [nget, *]

theorem nget_nset_ne {α : Type} (m : NMap α) (k j : Nat) (x : α) (h : j ≠ k) : nget (nset m k x) j = nget m j := by
  have h' : ¬ k = j := fun e => h e.symm
  induction m with
  | nil => simp [nset, nget, h']
  | cons c m ih =>
    obtain ⟨i, y⟩ := c
    simp only [nset]
    split
    · simp [nget, h']
    · split
      · subst_vars; simp [nget, h']
      · simp only [nget]; split <;> simp_all

/-- Every key of a map lies above a bound. -/
def above {α : Type} (k : Nat) (m : NMap α) : Prop := ∀ c ∈ m, k < c.1

theorem nwf_cons {α : Type} (j : Nat) (x : α) (m : NMap α) : nwf ((j, x) :: m) = true ↔ above j m ∧ nwf m = true := by
  induction m generalizing j x with
  | nil => simp [nwf, above]
  | cons c m ih =>
    obtain ⟨k, y⟩ := c
    simp only [nwf, Bool.and_eq_true, decide_eq_true_eq]
    constructor
    · rintro ⟨h, hm⟩
      refine ⟨?_, hm⟩
      intro c hc
      rcases List.mem_cons.1 hc with rfl | hc
      · exact h
      · exact Nat.lt_trans h ((ih k y).1 hm |>.1 c hc)
    · rintro ⟨h, hm⟩
      exact ⟨h _ (List.mem_cons_self ..), hm⟩

theorem above_nset {α : Type} {j : Nat} {m : NMap α} (h : above j m) (k : Nat) (x : α) (hk : j < k) : above j (nset m k x) := by
  induction m with
  | nil => intro c hc; simp only [nset, List.mem_singleton] at hc; subst hc; exact hk
  | cons c m ih =>
    obtain ⟨i, y⟩ := c
    have hi : j < i := h _ (List.mem_cons_self ..)
    have hm : above j m := fun c hc => h c (List.mem_cons_of_mem _ hc)
    intro c hc
    simp only [nset] at hc
    split at hc
    · rcases List.mem_cons.1 hc with rfl | hc
      · exact hk
      · exact h c hc
    · split at hc
      · rcases List.mem_cons.1 hc with rfl | hc
        · exact hk
        · exact hm c hc
      · rcases List.mem_cons.1 hc with rfl | hc
        · exact hi
        · exact ih hm c hc

theorem nwf_nset {α : Type} (m : NMap α) (k : Nat) (x : α) (h : nwf m = true) : nwf (nset m k x) = true := by
  induction m with
  | nil => rfl
  | cons c m ih =>
    obtain ⟨j, y⟩ := c
    have hj := (nwf_cons j y m).1 h
    simp only [nset]
    split
    · refine (nwf_cons ..).2 ⟨?_, h⟩
      intro c hc
      rcases List.mem_cons.1 hc with rfl | hc
      · assumption
      · exact Nat.lt_trans ‹_› (hj.1 c hc)
    · split
      · subst_vars; exact (nwf_cons ..).2 hj
      · exact (nwf_cons ..).2 ⟨above_nset hj.1 k x (by omega), ih hj.2⟩

theorem mem_ndel {α : Type} {m : NMap α} {k : Nat} {c : Nat × α} (h : c ∈ ndel m k) : c ∈ m := by
  induction m with
  | nil => simp [ndel] at h
  | cons d m ih =>
    obtain ⟨j, y⟩ := d
    simp only [ndel] at h
    split at h
    · exact List.mem_cons_of_mem _ (ih h)
    · rcases List.mem_cons.1 h with rfl | h
      · exact List.mem_cons_self ..
      · exact List.mem_cons_of_mem _ (ih h)

theorem nwf_ndel {α : Type} (m : NMap α) (k : Nat) (h : nwf m = true) : nwf (ndel m k) = true := by
  induction m with
  | nil => rfl
  | cons c m ih =>
    obtain ⟨j, y⟩ := c
    have hj := (nwf_cons j y m).1 h
    simp only [ndel]
    split
    · exact ih hj.2
    · exact (nwf_cons ..).2 ⟨fun c hc => hj.1 c (mem_ndel hc), ih hj.2⟩

theorem nwf_filter {α : Type} (m : NMap α) (p : Nat × α → Bool) (h : nwf m = true) : nwf (m.filter p) = true := by
  induction m with
  | nil => rfl
  | cons c m ih =>
    obtain ⟨j, y⟩ := c
    have hj := (nwf_cons j y m).1 h
    simp only [List.filter_cons]
    split
    · exact (nwf_cons ..).2 ⟨fun c hc => hj.1 c (List.mem_of_mem_filter hc), ih hj.2⟩
    · exact ih hj.2

theorem nget_above {α : Type} {m : NMap α} {k : Nat} (h : above k m) : nget m k = none := by
  induction m with
  | nil => rfl
  | cons c m ih =>
    obtain ⟨j, y⟩ := c
    have hj : k < j := h _ (List.mem_cons_self ..)
    simp only [nget]
    rw [if_neg (by omega)]
    exact ih fun c hc => h c (List.mem_cons_of_mem _ hc)

@[simp] theorem nget_ndel_self {α : Type} (m : NMap α) (k : Nat) : nget (ndel m k) k = none := by
  induction m with
  | nil => rfl
  | cons c m ih =>
    obtain ⟨j, y⟩ := c
    simp only [ndel]
    split
    · exact ih
    · simp only [nget]; rw [if_neg ‹_›]; exact ih

theorem nget_ndel_ne {α : Type} (m : NMap α) (k j : Nat) (h : j ≠ k) : nget (ndel m k) j = nget m j := by
  induction m with
  | nil => rfl
  | cons c m ih =>
    obtain ⟨i, y⟩ := c
    simp only [ndel]
    split
    · subst_vars; simp only [nget]; rw [if_neg (fun e => h e.symm)]; exact ih
    · simp only [nget]; split <;> simp_all

theorem nwf_map {α β : Type} (m : NMap α) (f : Nat × α → β) (h : nwf m = true) : nwf (m.map fun c => (c.1, f c)) = true := by
  induction m with
  | nil => rfl
  | cons c m ih =>
    obtain ⟨j, y⟩ := c
    have hj := (nwf_cons j y m).1 h
    refine (nwf_cons ..).2 ⟨?_, ih hj.2⟩
    intro c hc
    obtain ⟨d, hd, rfl⟩ := List.mem_map.1 hc
    exact hj.1 d hd

/-! ### Maps of any keys -/

@[simp] theorem kget_kset_self {κ α : Type} [DecidableEq κ] (m : KMap κ α) (k : κ) (x : α) : kget (kset m k x) k = some x := by
  induction m with
  | nil => simp [kset, kget]
  | cons c m ih =>
    obtain ⟨j, y⟩ := c
    simp only [kset]
    split
    · simp [kget]
    · simp [kget, *]

theorem kget_kset_ne {κ α : Type} [DecidableEq κ] (m : KMap κ α) (k j : κ) (x : α) (h : j ≠ k) :
    kget (kset m k x) j = kget m j := by
  have h' : ¬ k = j := fun e => h e.symm
  induction m with
  | nil => simp [kset, kget, h']
  | cons c m ih =>
    obtain ⟨i, y⟩ := c
    simp only [kset]
    split
    · subst_vars; simp [kget, h']
    · simp only [kget]; split <;> simp_all

@[simp] theorem kget_kdel_self {κ α : Type} [DecidableEq κ] (m : KMap κ α) (k : κ) : kget (kdel m k) k = none := by
  induction m with
  | nil => rfl
  | cons c m ih =>
    obtain ⟨j, y⟩ := c
    simp only [kdel]
    split
    · exact ih
    · simp only [kget]; rw [if_neg ‹_›]; exact ih

theorem kget_kdel_ne {κ α : Type} [DecidableEq κ] (m : KMap κ α) (k j : κ) (h : j ≠ k) : kget (kdel m k) j = kget m j := by
  induction m with
  | nil => rfl
  | cons c m ih =>
    obtain ⟨i, y⟩ := c
    simp only [kdel]
    split
    · subst_vars; simp only [kget]; rw [if_neg (fun e => h e.symm)]; exact ih
    · simp only [kget]; split <;> simp_all

@[simp] theorem klist_kputList_self {κ α : Type} [DecidableEq κ] (m : KMap κ (List α)) (k : κ) (l : List α) :
    klist (kputList m k l) k = l := by
  unfold klist kputList
  split
  · rename_i h; simp [List.isEmpty_iff.1 h]
  · simp

theorem klist_kputList_ne {κ α : Type} [DecidableEq κ] (m : KMap κ (List α)) (k j : κ) (l : List α) (h : j ≠ k) :
    klist (kputList m k l) j = klist m j := by
  unfold klist kputList
  split
  · rw [kget_kdel_ne _ _ _ h]
  · rw [kget_kset_ne _ _ _ _ h]

/-! ### Accessors of the state -/

@[simp] theorem State.thread?_delThread (s : State) (tid : Nat) : (s.delThread tid).thread? tid = none := by
  simp [State.thread?, State.delThread]

theorem State.thread?_delThread_ne (s : State) (tid t : Nat) (h : t ≠ tid) : (s.delThread tid).thread? t = s.thread? t := by
  simp [State.thread?, State.delThread, nget_ndel_ne _ _ _ h]


@[simp] theorem State.thread?_setThread (s : State) (tid : Nat) (th : Thread) : (s.setThread tid th).thread? tid = some th := by
  simp [State.thread?, State.setThread]

theorem State.thread?_setThread_ne (s : State) (tid t : Nat) (th : Thread) (h : t ≠ tid) :
    (s.setThread tid th).thread? t = s.thread? t := by
  simp [State.thread?, State.setThread, nget_nset_ne _ _ _ _ h]

@[simp] theorem State.core_setCore (s : State) (c : Nat) (x : Core) : (s.setCore c x).core c = x := by
  simp [State.core, State.setCore]

theorem State.core_setCore_ne (s : State) (c d : Nat) (x : Core) (h : d ≠ c) : (s.setCore c x).core d = s.core d := by
  simp [State.core, State.setCore, nget_nset_ne _ _ _ _ h]

@[simp] theorem State.thread?_setCore (s : State) (c : Nat) (x : Core) (t : Nat) : (s.setCore c x).thread? t = s.thread? t := rfl
@[simp] theorem State.core_setThread (s : State) (t : Nat) (th : Thread) (c : Nat) : (s.setThread t th).core c = s.core c := rfl
@[simp] theorem State.rot_setThread (s : State) (t : Nat) (th : Thread) : (s.setThread t th).rot = s.rot := rfl

end Sys2Proof.Machine
end

