-- ==== Sys2Proof/Laws/Memory.lean ====
section
/-! SUPPORT. Memory: reading after writing, and that every operation keeps the canonical form. -/

namespace Sys2Proof.Machine

theorem Memory.wf_iff (m : List Host.Cell) : Memory.wf m = true ↔ nwf m = true ∧ ∀ c ∈ m, c.2 ≠ Memory.blank := by
  simp [Memory.wf]

theorem mem_nset {α : Type} {m : NMap α} {k : Nat} {x : α} {c : Nat × α} (h : c ∈ nset m k x) : c = (k, x) ∨ c ∈ m := by
  induction m with
  | nil => simp only [nset, List.mem_singleton] at h; exact .inl h
  | cons d m ih =>
    obtain ⟨j, y⟩ := d
    simp only [nset] at h
    split at h
    · rcases List.mem_cons.1 h with h | h
      · exact .inl h
      · exact .inr h
    · split at h
      · rcases List.mem_cons.1 h with h | h
        · exact .inl h
        · exact .inr (List.mem_cons_of_mem _ h)
      · rcases List.mem_cons.1 h with rfl | h
        · exact .inr (List.mem_cons_self ..)
        · rcases ih h with h | h
          · exact .inl h
          · exact .inr (List.mem_cons_of_mem _ h)

/-- Writing a byte keeps the canonical form. -/
theorem Memory.wf_set (m : List Host.Cell) (a : Nat) (b : Byte) (h : Memory.wf m = true) : Memory.wf (Memory.set m a b) = true := by
  rw [Memory.wf_iff] at h ⊢
  unfold Memory.set
  split
  · exact ⟨nwf_ndel m a h.1, fun c hc => h.2 c (mem_ndel hc)⟩
  · refine ⟨nwf_nset m a b h.1, fun c hc => ?_⟩
    rcases mem_nset hc with rfl | hc
    · assumption
    · exact h.2 c hc

/-- Writing bytes keeps the canonical form. -/
theorem Memory.wf_write (l : List (Option Byte)) : ∀ (m : List Host.Cell) (a : Nat), Memory.wf m = true → Memory.wf (Memory.write m a l) = true := by
  induction l with
  | nil => intro m a h; simpa [Memory.write] using h
  | cons x l ih =>
    intro m a h
    cases x with
    | none => simpa [Memory.write] using ih m (a + 1) h
    | some b => simpa [Memory.write] using ih _ (a + 1) (Memory.wf_set m a b h)

/-- Taking cells away keeps the canonical form. -/
theorem Memory.wf_filter (m : List Host.Cell) (p : Host.Cell → Bool) (h : Memory.wf m = true) : Memory.wf (m.filter p) = true := by
  rw [Memory.wf_iff] at h ⊢
  exact ⟨nwf_filter m p h.1, fun c hc => h.2 c (List.mem_of_mem_filter hc)⟩

/-- Setting bytes one after another keeps the canonical form. -/
theorem Memory.wf_foldl (l : List Host.Cell) (m : List Host.Cell) (h : Memory.wf m = true) :
    Memory.wf (l.foldl (fun m c => Memory.set m c.1 c.2) m) = true := by
  induction l generalizing m with
  | nil => exact h
  | cons c l ih => exact ih _ (Memory.wf_set m c.1 c.2 h)

/-- A byte written is read back. -/
theorem Memory.get_set_self (m : List Host.Cell) (a : Nat) (b : Byte) : Memory.get (Memory.set m a b) a = b := by
  unfold Memory.get Memory.set
  split
  · rw [nget_ndel_self]; simp_all
  · simp

/-- A byte written leaves every other byte alone. -/
theorem Memory.get_set_ne (m : List Host.Cell) (a c : Nat) (b : Byte) (h : c ≠ a) : Memory.get (Memory.set m a b) c = Memory.get m c := by
  unfold Memory.get Memory.set
  split
  · rw [nget_ndel_ne m a c h]
  · rw [nget_nset_ne m a c b h]

/-- Bytes written leave every byte outside them alone. -/
theorem Memory.get_write_out (l : List (Option Byte)) : ∀ (m : List Host.Cell) (a c : Nat), c < a ∨ a + l.length ≤ c →
    Memory.get (Memory.write m a l) c = Memory.get m c := by
  induction l with
  | nil => intro m a c _; simp [Memory.write]
  | cons x l ih =>
    intro m a c h
    have h' : c < a + 1 ∨ a + 1 + l.length ≤ c := by simp only [List.length_cons] at h; omega
    have hne : c ≠ a := by simp only [List.length_cons] at h; omega
    cases x with
    | none => simpa [Memory.write] using ih m (a + 1) c h'
    | some b => simp only [Memory.write]; rw [ih _ (a + 1) c h', Memory.get_set_ne m a c b hne]

@[simp] theorem length_toBytes (n x : Nat) : (toBytes n x).length = n := by
  induction n generalizing x with
  | zero => rfl
  | succ n ih => simp [toBytes, ih]

@[simp] theorem length_read (m : List Host.Cell) (a n : Nat) : (Memory.read m a n).length = n := by
  induction n generalizing a with
  | zero => rfl
  | succ n ih => simp [Memory.read, ih]

/-- The number that bytes spell. -/
theorem fromBytes_lt (l : List Byte) : fromBytes l < 2 ^ (8 * l.length) := by
  induction l with
  | nil => simp [fromBytes]
  | cons b l ih =>
    have := b.isLt
    rw [fromBytes, List.length_cons, Nat.mul_succ, Nat.pow_add]
    omega

/-- Bytes of a number spell it, modulo their width. -/
theorem fromBytes_toBytes (n x : Nat) : fromBytes (toBytes n x) = x % 2 ^ (8 * n) := by
  induction n generalizing x with
  | zero => simp [toBytes, fromBytes, Nat.mod_one]
  | succ n ih =>
    rw [toBytes, fromBytes, ih, BitVec.toNat_ofNat, Nat.mul_succ, Nat.pow_add, Nat.mul_comm (2 ^ (8 * n)), Nat.mod_mul]

theorem State.num_lt (s : State) (pa n : Nat) : s.num pa n < 2 ^ (8 * n) := by
  have := fromBytes_lt (s.bytes pa n)
  rwa [show (s.bytes pa n).length = n from length_read ..] at this

/-- The state after reset has its memory in canonical form. -/
theorem State.reset_wf : Memory.wf State.reset.mem = true := rfl

/-! ### Operations of the state on memory -/

theorem State.wf_putBytes (s : State) (pa : Nat) (l : List (Option Byte)) (h : Memory.wf s.mem = true) :
    Memory.wf (s.putBytes pa l).mem = true := Memory.wf_write l s.mem pa h

theorem State.wf_putNum (s : State) (pa n x : Nat) (h : Memory.wf s.mem = true) : Memory.wf (s.putNum pa n x).mem = true :=
  State.wf_putBytes s pa _ h

@[simp] theorem State.mem_setFull (s : State) (pa : Nat) (b : Bool) : (s.setFull pa b).mem = s.mem := rfl
@[simp] theorem State.mem_setBlockLabel (s : State) (pa : Nat) (l : Label) : (s.setBlockLabel pa l).mem = s.mem := rfl
@[simp] theorem State.mem_poisonAt (s : State) (pa : Nat) : (s.poisonAt pa).mem = s.mem := rfl
@[simp] theorem State.mem_unpoison (s : State) (pa : Nat) : (s.unpoison pa).mem = s.mem := rfl

theorem State.wf_zeroFrame (s : State) (pa : Nat) (h : Memory.wf s.mem = true) : Memory.wf (s.zeroFrame pa).mem = true :=
  Memory.wf_filter _ _ h

theorem State.wf_clearPart (s : State) (d n : Nat) (h : Memory.wf s.mem = true) : Memory.wf (s.clearPart d n).mem = true :=
  Memory.wf_filter _ _ h

end Sys2Proof.Machine
end

