-- ==== Sys2Proof/Laws/Issue.lean ====
section
/-! SUPPORT. What the issue of a word does: the laws of `issue`, of retirement and of the thread as its word finds it. -/

namespace Sys2Proof.Machine

@[simp] theorem Thread.landed_chain (th : Thread) : th.landed.chain = th.chain := rfl
@[simp] theorem Thread.landed_pc (th : Thread) : th.landed.pc = th.pc := rfl
@[simp] theorem Thread.landed_again (th : Thread) : th.landed.again = th.again := rfl
@[simp] theorem Thread.post_again (th : Thread) (f : Flags) (l : Label) : (th.post f l).again = th.again := by
  unfold Thread.post; split <;> rfl
@[simp] theorem Thread.putRawS_again (th : Thread) (r : SReg) (x : SVal) : (th.putRawS r x).again = th.again := by
  unfold Thread.putRawS; split <;> rfl
@[simp] theorem Thread.putRawK_again (th : Thread) (r : KReg) (x : KVal) : (th.putRawK r x).again = th.again := by
  unfold Thread.putRawK; split <;> rfl
@[simp] theorem Thread.applyPend_again (th : Thread) (w : PendWrite) : (th.applyPend w).again = th.again := by
  unfold Thread.applyPend
  simp only [Thread.post_again]
  split <;> simp [Thread.putRawV, Thread.putRawT, Thread.putTS]

theorem foldl_again (l : List PendWrite) (th : Thread) : (l.foldl Thread.applyPend th).again = th.again := by
  induction l generalizing th with
  | nil => rfl
  | cons w l ih => rw [List.foldl_cons, ih, Thread.applyPend_again]

@[simp] theorem Thread.settle_again (th : Thread) (rot : Nat) : (th.settle rot).again = th.again := by
  unfold Thread.settle; rw [foldl_again]

/-- The checks of a word, when none of them stops it, leave its effect. -/
theorem checked_pass {i : Instr} {tid : Nat} {th : Thread} {s : State} {body : Thread → State → Res} (hc : chainOk th.chain i = true)
    (hu : absentFor th.kind i = false) (hr : th.kind = .migrant → migReg i = none)
    (he : th.sbc = true → earlyAt th (s.cmds tid) (th.early i (th.touches (s.core (coreOf tid)) i)) s.rot = none)
    (hb : s.busy tid (bankMask ((th.touches (s.core (coreOf tid)) i).1 ++ (th.touches (s.core (coreOf tid)) i).2))
      (tileMask (th.touches (s.core (coreOf tid)) i).2) = false)
    (hs : th.sparClash i = false) :
    checked i tid th s body = body th s := by
  have hm : (if th.kind = .migrant then migReg i else none) = none := by
    split
    · exact hr ‹_›
    · rfl
  have he' : (if th.sbc then earlyAt th (s.cmds tid) (th.early i (th.touches (s.core (coreOf tid)) i)) s.rot else none) = none := by
    split
    · exact he ‹_›
    · rfl
  simp [checked, hs, hc, hu, hm, he', hb]

/-- A word that issues for the first time, with every check passed, has the effect of its body and nothing else. -/
theorem issue_of_issues {i : Instr} {s : State} {th : Thread} (h : Issues i s th) (body : Thread → State → Res) :
    issue i s body = .next (s.conclude i s.cur false (body th s)) := by
  obtain ⟨⟨x, hx, ha, hs, rfl⟩, hc, hu, hr, he, hb, hx'⟩ := h
  have h1 : (x.settle s.rot).again = none := by rw [Thread.settle_again, ha]
  unfold issue
  rw [hx]
  simp only
  rw [h1]
  simp only [Option.isSome_none, Bool.false_eq_true, if_false]
  unfold firstIssue
  rw [hs]
  simp only
  rw [checked_pass hc hu hr he hb hx']

/-- A word that goes on after its park has the effect of its body and nothing else. -/
theorem issue_of_goesOn {i : Instr} {s : State} {th : Thread} {a : Again} (h : GoesOn i s th a) (body : Thread → State → Res) :
    issue i s body = .next (s.conclude i s.cur true (body th s)) := by
  obtain ⟨x, hx, ha, -, rfl⟩ := h
  unfold issue
  rw [hx]
  simp [ha]

/-- A prefix joins the chain, or is an illegal word. -/
theorem issuePrefix_of_issues {i : Instr} {s : State} {th : Thread} {c : Chain} (h : Issues i s th)
    (hc : chainAdd (th.chain.getD ⟨th.pc, [], none, none, false, none, none⟩) i = some c) :
    issuePrefix i s = .next (s.setThread s.cur { th with
      chain := some { c with words := c.words ++ [encode i] }, pc := th.pc + 4, nextRot := s.rot + 1, xfer := none }) := by
  obtain ⟨⟨x, hx, ha, hs, rfl⟩, -, hu, -, -, -, -⟩ := h
  unfold issuePrefix
  rw [hx]
  simp only [hs]
  rw [Thread.landed_chain, Thread.landed_pc] at hc
  have hu' : absentFor (x.settle s.rot).kind i = false := hu
  simp only [hc, hu', Bool.false_eq_true, if_false]
  rfl

@[simp] theorem conclude_done (s : State) (i : Instr) (th : Thread) (t : State) :
    s.conclude i s.cur false (.done th t) = retired i s th t := by simp [State.conclude, retired]
@[simp] theorem conclude_done_on (s : State) (i : Instr) (th : Thread) (t : State) :
    s.conclude i s.cur true (.done th t) = resumedTo i s th t := by simp [State.conclude, resumedTo]
@[simp] theorem conclude_jump (s : State) (i : Instr) (th : Thread) (g : Word) :
    s.conclude i s.cur false (.jump th s g) = jumped i s th g := by simp [State.conclude, jumped]
@[simp] theorem conclude_park (s : State) (i : Instr) (r : Bool) (th : Thread) (t : State) (p : Park) :
    s.conclude i s.cur r (.park th t p) = parked s th p t := by simp [State.conclude, parked]
@[simp] theorem conclude_trap (s : State) (i : Instr) (r : Bool) (th : Thread) (t : State) (c : Cause) (i0 i1 : Word) (lab : Label) :
    s.conclude i s.cur r (.trap th t c i0 i1 lab) = trapped s th c i0 i1 lab t := by simp [State.conclude, trapped]
@[simp] theorem conclude_gone (s : State) (i : Instr) (r : Bool) (t : State) : s.conclude i s.cur r (.gone t) = t := by
  simp [State.conclude]

end Sys2Proof.Machine
end

