-- ==== Sys2Proof/Laws/Thread.lean ====
section
/-! SUPPORT. The laws of the operations on a thread: what each leaves as it was, one lemma for each field, and what it writes. -/

namespace Sys2Proof.Machine

@[simp] theorem Thread.cancel_gen (th : Thread) (d : Dest) : (th.cancel d).gen = th.gen := rfl
@[simp] theorem Thread.cancel_kind (th : Thread) (d : Dest) : (th.cancel d).kind = th.kind := rfl
@[simp] theorem Thread.cancel_part (th : Thread) (d : Dest) : (th.cancel d).part = th.part := rfl
@[simp] theorem Thread.cancel_pc (th : Thread) (d : Dest) : (th.cancel d).pc = th.pc := rfl
@[simp] theorem Thread.cancel_s (th : Thread) (d : Dest) : (th.cancel d).s = th.s := rfl
@[simp] theorem Thread.cancel_p (th : Thread) (d : Dest) : (th.cancel d).p = th.p := rfl
@[simp] theorem Thread.cancel_v (th : Thread) (d : Dest) : (th.cancel d).v = th.v := rfl
@[simp] theorem Thread.cancel_k (th : Thread) (d : Dest) : (th.cancel d).k = th.k := rfl
@[simp] theorem Thread.cancel_t (th : Thread) (d : Dest) : (th.cancel d).t = th.t := rfl
@[simp] theorem Thread.cancel_ts (th : Thread) (d : Dest) : (th.cancel d).ts = th.ts := rfl
@[simp] theorem Thread.cancel_ctxl (th : Thread) (d : Dest) : (th.cancel d).ctxl = th.ctxl := rfl
@[simp] theorem Thread.cancel_world (th : Thread) (d : Dest) : (th.cancel d).world = th.world := rfl
@[simp] theorem Thread.cancel_te (th : Thread) (d : Dest) : (th.cancel d).te = th.te := rfl
@[simp] theorem Thread.cancel_sbc (th : Thread) (d : Dest) : (th.cancel d).sbc = th.sbc := rfl
@[simp] theorem Thread.cancel_fpc (th : Thread) (d : Dest) : (th.cancel d).fpc = th.fpc := rfl
@[simp] theorem Thread.cancel_tepc (th : Thread) (d : Dest) : (th.cancel d).tepc = th.tepc := rfl
@[simp] theorem Thread.cancel_tcause (th : Thread) (d : Dest) : (th.cancel d).tcause = th.tcause := rfl
@[simp] theorem Thread.cancel_tinfo0 (th : Thread) (d : Dest) : (th.cancel d).tinfo0 = th.tinfo0 := rfl
@[simp] theorem Thread.cancel_tinfo1 (th : Thread) (d : Dest) : (th.cancel d).tinfo1 = th.tinfo1 := rfl
@[simp] theorem Thread.cancel_tsave (th : Thread) (d : Dest) : (th.cancel d).tsave = th.tsave := rfl
@[simp] theorem Thread.cancel_tsig (th : Thread) (d : Dest) : (th.cancel d).tsig = th.tsig := rfl
@[simp] theorem Thread.cancel_flint (th : Thread) (d : Dest) : (th.cancel d).flint = th.flint := rfl
@[simp] theorem Thread.cancel_lastBad (th : Thread) (d : Dest) : (th.cancel d).lastBad = th.lastBad := rfl
@[simp] theorem Thread.cancel_xfer (th : Thread) (d : Dest) : (th.cancel d).xfer = th.xfer := rfl
@[simp] theorem Thread.cancel_abown (th : Thread) (d : Dest) : (th.cancel d).abown = th.abown := rfl
@[simp] theorem Thread.cancel_barPend (th : Thread) (d : Dest) : (th.cancel d).barPend = th.barPend := rfl
@[simp] theorem Thread.cancel_accWin (th : Thread) (d : Dest) : (th.cancel d).accWin = th.accWin := rfl
@[simp] theorem Thread.cancel_depSel (th : Thread) (d : Dest) : (th.cancel d).depSel = th.depSel := rfl
@[simp] theorem Thread.cancel_grpId (th : Thread) (d : Dest) : (th.cancel d).grpId = th.grpId := rfl
@[simp] theorem Thread.cancel_grpN (th : Thread) (d : Dest) : (th.cancel d).grpN = th.grpN := rfl
@[simp] theorem Thread.cancel_strId (th : Thread) (d : Dest) : (th.cancel d).strId = th.strId := rfl
@[simp] theorem Thread.cancel_strN (th : Thread) (d : Dest) : (th.cancel d).strN = th.strN := rfl
@[simp] theorem Thread.cancel_arg (th : Thread) (d : Dest) : (th.cancel d).arg = th.arg := rfl
@[simp] theorem Thread.cancel_slotsM (th : Thread) (d : Dest) : (th.cancel d).slotsM = th.slotsM := rfl
@[simp] theorem Thread.cancel_launch (th : Thread) (d : Dest) : (th.cancel d).launch = th.launch := rfl
@[simp] theorem Thread.cancel_timed (th : Thread) (d : Dest) : (th.cancel d).timed = th.timed := rfl
@[simp] theorem Thread.cancel_nextRot (th : Thread) (d : Dest) : (th.cancel d).nextRot = th.nextRot := rfl
@[simp] theorem Thread.cancel_park (th : Thread) (d : Dest) : (th.cancel d).park = th.park := rfl
@[simp] theorem Thread.cancel_again (th : Thread) (d : Dest) : (th.cancel d).again = th.again := rfl
@[simp] theorem Thread.cancel_retry (th : Thread) (d : Dest) : (th.cancel d).retry = th.retry := rfl
@[simp] theorem Thread.cancel_chain (th : Thread) (d : Dest) : (th.cancel d).chain = th.chain := rfl
@[simp] theorem Thread.cancel_pendSet (th : Thread) (d : Dest) : (th.cancel d).pendSet = th.pendSet := rfl
@[simp] theorem Thread.cancel_preempt (th : Thread) (d : Dest) : (th.cancel d).preempt = th.preempt := rfl
@[simp] theorem Thread.cancel_handling (th : Thread) (d : Dest) : (th.cancel d).handling = th.handling := rfl
@[simp] theorem Thread.cancel_hostDirty (th : Thread) (d : Dest) : (th.cancel d).hostDirty = th.hostDirty := rfl

@[simp] theorem Thread.widen_gen (th : Thread) (l : Label) : (th.widen l).gen = th.gen := rfl
@[simp] theorem Thread.widen_kind (th : Thread) (l : Label) : (th.widen l).kind = th.kind := rfl
@[simp] theorem Thread.widen_part (th : Thread) (l : Label) : (th.widen l).part = th.part := rfl
@[simp] theorem Thread.widen_pc (th : Thread) (l : Label) : (th.widen l).pc = th.pc := rfl
@[simp] theorem Thread.widen_s (th : Thread) (l : Label) : (th.widen l).s = th.s := rfl
@[simp] theorem Thread.widen_p (th : Thread) (l : Label) : (th.widen l).p = th.p := rfl
@[simp] theorem Thread.widen_v (th : Thread) (l : Label) : (th.widen l).v = th.v := rfl
@[simp] theorem Thread.widen_k (th : Thread) (l : Label) : (th.widen l).k = th.k := rfl
@[simp] theorem Thread.widen_t (th : Thread) (l : Label) : (th.widen l).t = th.t := rfl
@[simp] theorem Thread.widen_ts (th : Thread) (l : Label) : (th.widen l).ts = th.ts := rfl
@[simp] theorem Thread.widen_world (th : Thread) (l : Label) : (th.widen l).world = th.world := rfl
@[simp] theorem Thread.widen_te (th : Thread) (l : Label) : (th.widen l).te = th.te := rfl
@[simp] theorem Thread.widen_sbc (th : Thread) (l : Label) : (th.widen l).sbc = th.sbc := rfl
@[simp] theorem Thread.widen_fpc (th : Thread) (l : Label) : (th.widen l).fpc = th.fpc := rfl
@[simp] theorem Thread.widen_tepc (th : Thread) (l : Label) : (th.widen l).tepc = th.tepc := rfl
@[simp] theorem Thread.widen_tcause (th : Thread) (l : Label) : (th.widen l).tcause = th.tcause := rfl
@[simp] theorem Thread.widen_tinfo0 (th : Thread) (l : Label) : (th.widen l).tinfo0 = th.tinfo0 := rfl
@[simp] theorem Thread.widen_tinfo1 (th : Thread) (l : Label) : (th.widen l).tinfo1 = th.tinfo1 := rfl
@[simp] theorem Thread.widen_tsave (th : Thread) (l : Label) : (th.widen l).tsave = th.tsave := rfl
@[simp] theorem Thread.widen_tsig (th : Thread) (l : Label) : (th.widen l).tsig = th.tsig := rfl
@[simp] theorem Thread.widen_flint (th : Thread) (l : Label) : (th.widen l).flint = th.flint := rfl
@[simp] theorem Thread.widen_lastBad (th : Thread) (l : Label) : (th.widen l).lastBad = th.lastBad := rfl
@[simp] theorem Thread.widen_xfer (th : Thread) (l : Label) : (th.widen l).xfer = th.xfer := rfl
@[simp] theorem Thread.widen_abown (th : Thread) (l : Label) : (th.widen l).abown = th.abown := rfl
@[simp] theorem Thread.widen_barPend (th : Thread) (l : Label) : (th.widen l).barPend = th.barPend := rfl
@[simp] theorem Thread.widen_accWin (th : Thread) (l : Label) : (th.widen l).accWin = th.accWin := rfl
@[simp] theorem Thread.widen_depSel (th : Thread) (l : Label) : (th.widen l).depSel = th.depSel := rfl
@[simp] theorem Thread.widen_grpId (th : Thread) (l : Label) : (th.widen l).grpId = th.grpId := rfl
@[simp] theorem Thread.widen_grpN (th : Thread) (l : Label) : (th.widen l).grpN = th.grpN := rfl
@[simp] theorem Thread.widen_strId (th : Thread) (l : Label) : (th.widen l).strId = th.strId := rfl
@[simp] theorem Thread.widen_strN (th : Thread) (l : Label) : (th.widen l).strN = th.strN := rfl
@[simp] theorem Thread.widen_arg (th : Thread) (l : Label) : (th.widen l).arg = th.arg := rfl
@[simp] theorem Thread.widen_slotsM (th : Thread) (l : Label) : (th.widen l).slotsM = th.slotsM := rfl
@[simp] theorem Thread.widen_launch (th : Thread) (l : Label) : (th.widen l).launch = th.launch := rfl
@[simp] theorem Thread.widen_timed (th : Thread) (l : Label) : (th.widen l).timed = th.timed := rfl
@[simp] theorem Thread.widen_pend (th : Thread) (l : Label) : (th.widen l).pend = th.pend := rfl
@[simp] theorem Thread.widen_sched (th : Thread) (l : Label) : (th.widen l).sched = th.sched := rfl
@[simp] theorem Thread.widen_nextRot (th : Thread) (l : Label) : (th.widen l).nextRot = th.nextRot := rfl
@[simp] theorem Thread.widen_park (th : Thread) (l : Label) : (th.widen l).park = th.park := rfl
@[simp] theorem Thread.widen_again (th : Thread) (l : Label) : (th.widen l).again = th.again := rfl
@[simp] theorem Thread.widen_retry (th : Thread) (l : Label) : (th.widen l).retry = th.retry := rfl
@[simp] theorem Thread.widen_chain (th : Thread) (l : Label) : (th.widen l).chain = th.chain := rfl
@[simp] theorem Thread.widen_pendSet (th : Thread) (l : Label) : (th.widen l).pendSet = th.pendSet := rfl
@[simp] theorem Thread.widen_preempt (th : Thread) (l : Label) : (th.widen l).preempt = th.preempt := rfl
@[simp] theorem Thread.widen_handling (th : Thread) (l : Label) : (th.widen l).handling = th.handling := rfl
@[simp] theorem Thread.widen_hostDirty (th : Thread) (l : Label) : (th.widen l).hostDirty = th.hostDirty := rfl

@[simp] theorem Thread.landed_gen (th : Thread) : (th.landed).gen = th.gen := rfl
@[simp] theorem Thread.landed_kind (th : Thread) : (th.landed).kind = th.kind := rfl
@[simp] theorem Thread.landed_part (th : Thread) : (th.landed).part = th.part := rfl
@[simp] theorem Thread.landed_s (th : Thread) : (th.landed).s = th.s := rfl
@[simp] theorem Thread.landed_p (th : Thread) : (th.landed).p = th.p := rfl
@[simp] theorem Thread.landed_v (th : Thread) : (th.landed).v = th.v := rfl
@[simp] theorem Thread.landed_k (th : Thread) : (th.landed).k = th.k := rfl
@[simp] theorem Thread.landed_t (th : Thread) : (th.landed).t = th.t := rfl
@[simp] theorem Thread.landed_ts (th : Thread) : (th.landed).ts = th.ts := rfl
@[simp] theorem Thread.landed_ctxl (th : Thread) : (th.landed).ctxl = th.ctxl := rfl
@[simp] theorem Thread.landed_world (th : Thread) : (th.landed).world = th.world := rfl
@[simp] theorem Thread.landed_te (th : Thread) : (th.landed).te = th.te := rfl
@[simp] theorem Thread.landed_sbc (th : Thread) : (th.landed).sbc = th.sbc := rfl
@[simp] theorem Thread.landed_fpc (th : Thread) : (th.landed).fpc = th.fpc := rfl
@[simp] theorem Thread.landed_tepc (th : Thread) : (th.landed).tepc = th.tepc := rfl
@[simp] theorem Thread.landed_tcause (th : Thread) : (th.landed).tcause = th.tcause := rfl
@[simp] theorem Thread.landed_tinfo0 (th : Thread) : (th.landed).tinfo0 = th.tinfo0 := rfl
@[simp] theorem Thread.landed_tinfo1 (th : Thread) : (th.landed).tinfo1 = th.tinfo1 := rfl
@[simp] theorem Thread.landed_tsave (th : Thread) : (th.landed).tsave = th.tsave := rfl
@[simp] theorem Thread.landed_tsig (th : Thread) : (th.landed).tsig = th.tsig := rfl
@[simp] theorem Thread.landed_flint (th : Thread) : (th.landed).flint = th.flint := rfl
@[simp] theorem Thread.landed_lastBad (th : Thread) : (th.landed).lastBad = th.lastBad := rfl
@[simp] theorem Thread.landed_abown (th : Thread) : (th.landed).abown = th.abown := rfl
@[simp] theorem Thread.landed_barPend (th : Thread) : (th.landed).barPend = th.barPend := rfl
@[simp] theorem Thread.landed_accWin (th : Thread) : (th.landed).accWin = th.accWin := rfl
@[simp] theorem Thread.landed_depSel (th : Thread) : (th.landed).depSel = th.depSel := rfl
@[simp] theorem Thread.landed_grpId (th : Thread) : (th.landed).grpId = th.grpId := rfl
@[simp] theorem Thread.landed_grpN (th : Thread) : (th.landed).grpN = th.grpN := rfl
@[simp] theorem Thread.landed_strId (th : Thread) : (th.landed).strId = th.strId := rfl
@[simp] theorem Thread.landed_strN (th : Thread) : (th.landed).strN = th.strN := rfl
@[simp] theorem Thread.landed_arg (th : Thread) : (th.landed).arg = th.arg := rfl
@[simp] theorem Thread.landed_slotsM (th : Thread) : (th.landed).slotsM = th.slotsM := rfl
@[simp] theorem Thread.landed_launch (th : Thread) : (th.landed).launch = th.launch := rfl
@[simp] theorem Thread.landed_timed (th : Thread) : (th.landed).timed = th.timed := rfl
@[simp] theorem Thread.landed_pend (th : Thread) : (th.landed).pend = th.pend := rfl
@[simp] theorem Thread.landed_sched (th : Thread) : (th.landed).sched = th.sched := rfl
@[simp] theorem Thread.landed_nextRot (th : Thread) : (th.landed).nextRot = th.nextRot := rfl
@[simp] theorem Thread.landed_park (th : Thread) : (th.landed).park = th.park := rfl
@[simp] theorem Thread.landed_retry (th : Thread) : (th.landed).retry = th.retry := rfl
@[simp] theorem Thread.landed_pendSet (th : Thread) : (th.landed).pendSet = th.pendSet := rfl
@[simp] theorem Thread.landed_preempt (th : Thread) : (th.landed).preempt = th.preempt := rfl
@[simp] theorem Thread.landed_handling (th : Thread) : (th.landed).handling = th.handling := rfl
@[simp] theorem Thread.landed_hostDirty (th : Thread) : (th.landed).hostDirty = th.hostDirty := rfl

@[simp] theorem Thread.post_gen (th : Thread) (f : Flags) (l : Label) : (th.post f l).gen = th.gen :=
  (apply_ite Thread.gen (f = 0) _ _).trans (ite_self _)
@[simp] theorem Thread.post_kind (th : Thread) (f : Flags) (l : Label) : (th.post f l).kind = th.kind :=
  (apply_ite Thread.kind (f = 0) _ _).trans (ite_self _)
@[simp] theorem Thread.post_part (th : Thread) (f : Flags) (l : Label) : (th.post f l).part = th.part :=
  (apply_ite Thread.part (f = 0) _ _).trans (ite_self _)
@[simp] theorem Thread.post_pc (th : Thread) (f : Flags) (l : Label) : (th.post f l).pc = th.pc :=
  (apply_ite Thread.pc (f = 0) _ _).trans (ite_self _)
@[simp] theorem Thread.post_s (th : Thread) (f : Flags) (l : Label) : (th.post f l).s = th.s :=
  (apply_ite Thread.s (f = 0) _ _).trans (ite_self _)
@[simp] theorem Thread.post_p (th : Thread) (f : Flags) (l : Label) : (th.post f l).p = th.p :=
  (apply_ite Thread.p (f = 0) _ _).trans (ite_self _)
@[simp] theorem Thread.post_v (th : Thread) (f : Flags) (l : Label) : (th.post f l).v = th.v :=
  (apply_ite Thread.v (f = 0) _ _).trans (ite_self _)
@[simp] theorem Thread.post_k (th : Thread) (f : Flags) (l : Label) : (th.post f l).k = th.k :=
  (apply_ite Thread.k (f = 0) _ _).trans (ite_self _)
@[simp] theorem Thread.post_t (th : Thread) (f : Flags) (l : Label) : (th.post f l).t = th.t :=
  (apply_ite Thread.t (f = 0) _ _).trans (ite_self _)
@[simp] theorem Thread.post_ts (th : Thread) (f : Flags) (l : Label) : (th.post f l).ts = th.ts :=
  (apply_ite Thread.ts (f = 0) _ _).trans (ite_self _)
@[simp] theorem Thread.post_world (th : Thread) (f : Flags) (l : Label) : (th.post f l).world = th.world :=
  (apply_ite Thread.world (f = 0) _ _).trans (ite_self _)
@[simp] theorem Thread.post_te (th : Thread) (f : Flags) (l : Label) : (th.post f l).te = th.te :=
  (apply_ite Thread.te (f = 0) _ _).trans (ite_self _)
@[simp] theorem Thread.post_sbc (th : Thread) (f : Flags) (l : Label) : (th.post f l).sbc = th.sbc :=
  (apply_ite Thread.sbc (f = 0) _ _).trans (ite_self _)
@[simp] theorem Thread.post_tepc (th : Thread) (f : Flags) (l : Label) : (th.post f l).tepc = th.tepc :=
  (apply_ite Thread.tepc (f = 0) _ _).trans (ite_self _)
@[simp] theorem Thread.post_tcause (th : Thread) (f : Flags) (l : Label) : (th.post f l).tcause = th.tcause :=
  (apply_ite Thread.tcause (f = 0) _ _).trans (ite_self _)
@[simp] theorem Thread.post_tinfo0 (th : Thread) (f : Flags) (l : Label) : (th.post f l).tinfo0 = th.tinfo0 :=
  (apply_ite Thread.tinfo0 (f = 0) _ _).trans (ite_self _)
@[simp] theorem Thread.post_tinfo1 (th : Thread) (f : Flags) (l : Label) : (th.post f l).tinfo1 = th.tinfo1 :=
  (apply_ite Thread.tinfo1 (f = 0) _ _).trans (ite_self _)
@[simp] theorem Thread.post_tsave (th : Thread) (f : Flags) (l : Label) : (th.post f l).tsave = th.tsave :=
  (apply_ite Thread.tsave (f = 0) _ _).trans (ite_self _)
@[simp] theorem Thread.post_tsig (th : Thread) (f : Flags) (l : Label) : (th.post f l).tsig = th.tsig :=
  (apply_ite Thread.tsig (f = 0) _ _).trans (ite_self _)
@[simp] theorem Thread.post_flint (th : Thread) (f : Flags) (l : Label) : (th.post f l).flint = th.flint :=
  (apply_ite Thread.flint (f = 0) _ _).trans (ite_self _)
@[simp] theorem Thread.post_lastBad (th : Thread) (f : Flags) (l : Label) : (th.post f l).lastBad = th.lastBad :=
  (apply_ite Thread.lastBad (f = 0) _ _).trans (ite_self _)
@[simp] theorem Thread.post_xfer (th : Thread) (f : Flags) (l : Label) : (th.post f l).xfer = th.xfer :=
  (apply_ite Thread.xfer (f = 0) _ _).trans (ite_self _)
@[simp] theorem Thread.post_abown (th : Thread) (f : Flags) (l : Label) : (th.post f l).abown = th.abown :=
  (apply_ite Thread.abown (f = 0) _ _).trans (ite_self _)
@[simp] theorem Thread.post_barPend (th : Thread) (f : Flags) (l : Label) : (th.post f l).barPend = th.barPend :=
  (apply_ite Thread.barPend (f = 0) _ _).trans (ite_self _)
@[simp] theorem Thread.post_accWin (th : Thread) (f : Flags) (l : Label) : (th.post f l).accWin = th.accWin :=
  (apply_ite Thread.accWin (f = 0) _ _).trans (ite_self _)
@[simp] theorem Thread.post_depSel (th : Thread) (f : Flags) (l : Label) : (th.post f l).depSel = th.depSel :=
  (apply_ite Thread.depSel (f = 0) _ _).trans (ite_self _)
@[simp] theorem Thread.post_grpId (th : Thread) (f : Flags) (l : Label) : (th.post f l).grpId = th.grpId :=
  (apply_ite Thread.grpId (f = 0) _ _).trans (ite_self _)
@[simp] theorem Thread.post_grpN (th : Thread) (f : Flags) (l : Label) : (th.post f l).grpN = th.grpN :=
  (apply_ite Thread.grpN (f = 0) _ _).trans (ite_self _)
@[simp] theorem Thread.post_strId (th : Thread) (f : Flags) (l : Label) : (th.post f l).strId = th.strId :=
  (apply_ite Thread.strId (f = 0) _ _).trans (ite_self _)
@[simp] theorem Thread.post_strN (th : Thread) (f : Flags) (l : Label) : (th.post f l).strN = th.strN :=
  (apply_ite Thread.strN (f = 0) _ _).trans (ite_self _)
@[simp] theorem Thread.post_arg (th : Thread) (f : Flags) (l : Label) : (th.post f l).arg = th.arg :=
  (apply_ite Thread.arg (f = 0) _ _).trans (ite_self _)
@[simp] theorem Thread.post_slotsM (th : Thread) (f : Flags) (l : Label) : (th.post f l).slotsM = th.slotsM :=
  (apply_ite Thread.slotsM (f = 0) _ _).trans (ite_self _)
@[simp] theorem Thread.post_launch (th : Thread) (f : Flags) (l : Label) : (th.post f l).launch = th.launch :=
  (apply_ite Thread.launch (f = 0) _ _).trans (ite_self _)
@[simp] theorem Thread.post_timed (th : Thread) (f : Flags) (l : Label) : (th.post f l).timed = th.timed :=
  (apply_ite Thread.timed (f = 0) _ _).trans (ite_self _)
@[simp] theorem Thread.post_pend (th : Thread) (f : Flags) (l : Label) : (th.post f l).pend = th.pend :=
  (apply_ite Thread.pend (f = 0) _ _).trans (ite_self _)
@[simp] theorem Thread.post_sched (th : Thread) (f : Flags) (l : Label) : (th.post f l).sched = th.sched :=
  (apply_ite Thread.sched (f = 0) _ _).trans (ite_self _)
@[simp] theorem Thread.post_nextRot (th : Thread) (f : Flags) (l : Label) : (th.post f l).nextRot = th.nextRot :=
  (apply_ite Thread.nextRot (f = 0) _ _).trans (ite_self _)
@[simp] theorem Thread.post_park (th : Thread) (f : Flags) (l : Label) : (th.post f l).park = th.park :=
  (apply_ite Thread.park (f = 0) _ _).trans (ite_self _)
@[simp] theorem Thread.post_retry (th : Thread) (f : Flags) (l : Label) : (th.post f l).retry = th.retry :=
  (apply_ite Thread.retry (f = 0) _ _).trans (ite_self _)
@[simp] theorem Thread.post_chain (th : Thread) (f : Flags) (l : Label) : (th.post f l).chain = th.chain :=
  (apply_ite Thread.chain (f = 0) _ _).trans (ite_self _)
@[simp] theorem Thread.post_pendSet (th : Thread) (f : Flags) (l : Label) : (th.post f l).pendSet = th.pendSet :=
  (apply_ite Thread.pendSet (f = 0) _ _).trans (ite_self _)
@[simp] theorem Thread.post_preempt (th : Thread) (f : Flags) (l : Label) : (th.post f l).preempt = th.preempt :=
  (apply_ite Thread.preempt (f = 0) _ _).trans (ite_self _)
@[simp] theorem Thread.post_handling (th : Thread) (f : Flags) (l : Label) : (th.post f l).handling = th.handling :=
  (apply_ite Thread.handling (f = 0) _ _).trans (ite_self _)
@[simp] theorem Thread.post_hostDirty (th : Thread) (f : Flags) (l : Label) : (th.post f l).hostDirty = th.hostDirty :=
  (apply_ite Thread.hostDirty (f = 0) _ _).trans (ite_self _)

@[simp] theorem Thread.setFpc_gen (th : Thread) (x : Word) : (({ th with fpc := x } : Thread)).gen = th.gen := rfl
@[simp] theorem Thread.setFpc_kind (th : Thread) (x : Word) : (({ th with fpc := x } : Thread)).kind = th.kind := rfl
@[simp] theorem Thread.setFpc_part (th : Thread) (x : Word) : (({ th with fpc := x } : Thread)).part = th.part := rfl
@[simp] theorem Thread.setFpc_pc (th : Thread) (x : Word) : (({ th with fpc := x } : Thread)).pc = th.pc := rfl
@[simp] theorem Thread.setFpc_s (th : Thread) (x : Word) : (({ th with fpc := x } : Thread)).s = th.s := rfl
@[simp] theorem Thread.setFpc_p (th : Thread) (x : Word) : (({ th with fpc := x } : Thread)).p = th.p := rfl
@[simp] theorem Thread.setFpc_v (th : Thread) (x : Word) : (({ th with fpc := x } : Thread)).v = th.v := rfl
@[simp] theorem Thread.setFpc_k (th : Thread) (x : Word) : (({ th with fpc := x } : Thread)).k = th.k := rfl
@[simp] theorem Thread.setFpc_t (th : Thread) (x : Word) : (({ th with fpc := x } : Thread)).t = th.t := rfl
@[simp] theorem Thread.setFpc_ts (th : Thread) (x : Word) : (({ th with fpc := x } : Thread)).ts = th.ts := rfl
@[simp] theorem Thread.setFpc_ctxl (th : Thread) (x : Word) : (({ th with fpc := x } : Thread)).ctxl = th.ctxl := rfl
@[simp] theorem Thread.setFpc_world (th : Thread) (x : Word) : (({ th with fpc := x } : Thread)).world = th.world := rfl
@[simp] theorem Thread.setFpc_te (th : Thread) (x : Word) : (({ th with fpc := x } : Thread)).te = th.te := rfl
@[simp] theorem Thread.setFpc_sbc (th : Thread) (x : Word) : (({ th with fpc := x } : Thread)).sbc = th.sbc := rfl
@[simp] theorem Thread.setFpc_tepc (th : Thread) (x : Word) : (({ th with fpc := x } : Thread)).tepc = th.tepc := rfl
@[simp] theorem Thread.setFpc_tcause (th : Thread) (x : Word) : (({ th with fpc := x } : Thread)).tcause = th.tcause := rfl
@[simp] theorem Thread.setFpc_tinfo0 (th : Thread) (x : Word) : (({ th with fpc := x } : Thread)).tinfo0 = th.tinfo0 := rfl
@[simp] theorem Thread.setFpc_tinfo1 (th : Thread) (x : Word) : (({ th with fpc := x } : Thread)).tinfo1 = th.tinfo1 := rfl
@[simp] theorem Thread.setFpc_tsave (th : Thread) (x : Word) : (({ th with fpc := x } : Thread)).tsave = th.tsave := rfl
@[simp] theorem Thread.setFpc_tsig (th : Thread) (x : Word) : (({ th with fpc := x } : Thread)).tsig = th.tsig := rfl
@[simp] theorem Thread.setFpc_flint (th : Thread) (x : Word) : (({ th with fpc := x } : Thread)).flint = th.flint := rfl
@[simp] theorem Thread.setFpc_lastBad (th : Thread) (x : Word) : (({ th with fpc := x } : Thread)).lastBad = th.lastBad := rfl
@[simp] theorem Thread.setFpc_xfer (th : Thread) (x : Word) : (({ th with fpc := x } : Thread)).xfer = th.xfer := rfl
@[simp] theorem Thread.setFpc_abown (th : Thread) (x : Word) : (({ th with fpc := x } : Thread)).abown = th.abown := rfl
@[simp] theorem Thread.setFpc_barPend (th : Thread) (x : Word) : (({ th with fpc := x } : Thread)).barPend = th.barPend := rfl
@[simp] theorem Thread.setFpc_accWin (th : Thread) (x : Word) : (({ th with fpc := x } : Thread)).accWin = th.accWin := rfl
@[simp] theorem Thread.setFpc_depSel (th : Thread) (x : Word) : (({ th with fpc := x } : Thread)).depSel = th.depSel := rfl
@[simp] theorem Thread.setFpc_grpId (th : Thread) (x : Word) : (({ th with fpc := x } : Thread)).grpId = th.grpId := rfl
@[simp] theorem Thread.setFpc_grpN (th : Thread) (x : Word) : (({ th with fpc := x } : Thread)).grpN = th.grpN := rfl
@[simp] theorem Thread.setFpc_strId (th : Thread) (x : Word) : (({ th with fpc := x } : Thread)).strId = th.strId := rfl
@[simp] theorem Thread.setFpc_strN (th : Thread) (x : Word) : (({ th with fpc := x } : Thread)).strN = th.strN := rfl
@[simp] theorem Thread.setFpc_arg (th : Thread) (x : Word) : (({ th with fpc := x } : Thread)).arg = th.arg := rfl
@[simp] theorem Thread.setFpc_slotsM (th : Thread) (x : Word) : (({ th with fpc := x } : Thread)).slotsM = th.slotsM := rfl
@[simp] theorem Thread.setFpc_launch (th : Thread) (x : Word) : (({ th with fpc := x } : Thread)).launch = th.launch := rfl
@[simp] theorem Thread.setFpc_timed (th : Thread) (x : Word) : (({ th with fpc := x } : Thread)).timed = th.timed := rfl
@[simp] theorem Thread.setFpc_pend (th : Thread) (x : Word) : (({ th with fpc := x } : Thread)).pend = th.pend := rfl
@[simp] theorem Thread.setFpc_sched (th : Thread) (x : Word) : (({ th with fpc := x } : Thread)).sched = th.sched := rfl
@[simp] theorem Thread.setFpc_nextRot (th : Thread) (x : Word) : (({ th with fpc := x } : Thread)).nextRot = th.nextRot := rfl
@[simp] theorem Thread.setFpc_park (th : Thread) (x : Word) : (({ th with fpc := x } : Thread)).park = th.park := rfl
@[simp] theorem Thread.setFpc_again (th : Thread) (x : Word) : (({ th with fpc := x } : Thread)).again = th.again := rfl
@[simp] theorem Thread.setFpc_retry (th : Thread) (x : Word) : (({ th with fpc := x } : Thread)).retry = th.retry := rfl
@[simp] theorem Thread.setFpc_chain (th : Thread) (x : Word) : (({ th with fpc := x } : Thread)).chain = th.chain := rfl
@[simp] theorem Thread.setFpc_pendSet (th : Thread) (x : Word) : (({ th with fpc := x } : Thread)).pendSet = th.pendSet := rfl
@[simp] theorem Thread.setFpc_preempt (th : Thread) (x : Word) : (({ th with fpc := x } : Thread)).preempt = th.preempt := rfl
@[simp] theorem Thread.setFpc_handling (th : Thread) (x : Word) : (({ th with fpc := x } : Thread)).handling = th.handling := rfl
@[simp] theorem Thread.setFpc_hostDirty (th : Thread) (x : Word) : (({ th with fpc := x } : Thread)).hostDirty = th.hostDirty := rfl

@[simp] theorem Thread.srStep_gen (th : Thread) : (th.srStep).gen = th.gen := Thread.setFpc_gen th _
@[simp] theorem Thread.srStep_kind (th : Thread) : (th.srStep).kind = th.kind := Thread.setFpc_kind th _
@[simp] theorem Thread.srStep_part (th : Thread) : (th.srStep).part = th.part := Thread.setFpc_part th _
@[simp] theorem Thread.srStep_pc (th : Thread) : (th.srStep).pc = th.pc := Thread.setFpc_pc th _
@[simp] theorem Thread.srStep_s (th : Thread) : (th.srStep).s = th.s := Thread.setFpc_s th _
@[simp] theorem Thread.srStep_p (th : Thread) : (th.srStep).p = th.p := Thread.setFpc_p th _
@[simp] theorem Thread.srStep_v (th : Thread) : (th.srStep).v = th.v := Thread.setFpc_v th _
@[simp] theorem Thread.srStep_k (th : Thread) : (th.srStep).k = th.k := Thread.setFpc_k th _
@[simp] theorem Thread.srStep_t (th : Thread) : (th.srStep).t = th.t := Thread.setFpc_t th _
@[simp] theorem Thread.srStep_ts (th : Thread) : (th.srStep).ts = th.ts := Thread.setFpc_ts th _
@[simp] theorem Thread.srStep_ctxl (th : Thread) : (th.srStep).ctxl = th.ctxl := Thread.setFpc_ctxl th _
@[simp] theorem Thread.srStep_world (th : Thread) : (th.srStep).world = th.world := Thread.setFpc_world th _
@[simp] theorem Thread.srStep_te (th : Thread) : (th.srStep).te = th.te := Thread.setFpc_te th _
@[simp] theorem Thread.srStep_sbc (th : Thread) : (th.srStep).sbc = th.sbc := Thread.setFpc_sbc th _
@[simp] theorem Thread.srStep_tepc (th : Thread) : (th.srStep).tepc = th.tepc := Thread.setFpc_tepc th _
@[simp] theorem Thread.srStep_tcause (th : Thread) : (th.srStep).tcause = th.tcause := Thread.setFpc_tcause th _
@[simp] theorem Thread.srStep_tinfo0 (th : Thread) : (th.srStep).tinfo0 = th.tinfo0 := Thread.setFpc_tinfo0 th _
@[simp] theorem Thread.srStep_tinfo1 (th : Thread) : (th.srStep).tinfo1 = th.tinfo1 := Thread.setFpc_tinfo1 th _
@[simp] theorem Thread.srStep_tsave (th : Thread) : (th.srStep).tsave = th.tsave := Thread.setFpc_tsave th _
@[simp] theorem Thread.srStep_tsig (th : Thread) : (th.srStep).tsig = th.tsig := Thread.setFpc_tsig th _
@[simp] theorem Thread.srStep_flint (th : Thread) : (th.srStep).flint = th.flint := Thread.setFpc_flint th _
@[simp] theorem Thread.srStep_lastBad (th : Thread) : (th.srStep).lastBad = th.lastBad := Thread.setFpc_lastBad th _
@[simp] theorem Thread.srStep_xfer (th : Thread) : (th.srStep).xfer = th.xfer := Thread.setFpc_xfer th _
@[simp] theorem Thread.srStep_abown (th : Thread) : (th.srStep).abown = th.abown := Thread.setFpc_abown th _
@[simp] theorem Thread.srStep_barPend (th : Thread) : (th.srStep).barPend = th.barPend := Thread.setFpc_barPend th _
@[simp] theorem Thread.srStep_accWin (th : Thread) : (th.srStep).accWin = th.accWin := Thread.setFpc_accWin th _
@[simp] theorem Thread.srStep_depSel (th : Thread) : (th.srStep).depSel = th.depSel := Thread.setFpc_depSel th _
@[simp] theorem Thread.srStep_grpId (th : Thread) : (th.srStep).grpId = th.grpId := Thread.setFpc_grpId th _
@[simp] theorem Thread.srStep_grpN (th : Thread) : (th.srStep).grpN = th.grpN := Thread.setFpc_grpN th _
@[simp] theorem Thread.srStep_strId (th : Thread) : (th.srStep).strId = th.strId := Thread.setFpc_strId th _
@[simp] theorem Thread.srStep_strN (th : Thread) : (th.srStep).strN = th.strN := Thread.setFpc_strN th _
@[simp] theorem Thread.srStep_arg (th : Thread) : (th.srStep).arg = th.arg := Thread.setFpc_arg th _
@[simp] theorem Thread.srStep_slotsM (th : Thread) : (th.srStep).slotsM = th.slotsM := Thread.setFpc_slotsM th _
@[simp] theorem Thread.srStep_launch (th : Thread) : (th.srStep).launch = th.launch := Thread.setFpc_launch th _
@[simp] theorem Thread.srStep_timed (th : Thread) : (th.srStep).timed = th.timed := Thread.setFpc_timed th _
@[simp] theorem Thread.srStep_pend (th : Thread) : (th.srStep).pend = th.pend := Thread.setFpc_pend th _
@[simp] theorem Thread.srStep_sched (th : Thread) : (th.srStep).sched = th.sched := Thread.setFpc_sched th _
@[simp] theorem Thread.srStep_nextRot (th : Thread) : (th.srStep).nextRot = th.nextRot := Thread.setFpc_nextRot th _
@[simp] theorem Thread.srStep_park (th : Thread) : (th.srStep).park = th.park := Thread.setFpc_park th _
@[simp] theorem Thread.srStep_again (th : Thread) : (th.srStep).again = th.again := Thread.setFpc_again th _
@[simp] theorem Thread.srStep_retry (th : Thread) : (th.srStep).retry = th.retry := Thread.setFpc_retry th _
@[simp] theorem Thread.srStep_chain (th : Thread) : (th.srStep).chain = th.chain := Thread.setFpc_chain th _
@[simp] theorem Thread.srStep_pendSet (th : Thread) : (th.srStep).pendSet = th.pendSet := Thread.setFpc_pendSet th _
@[simp] theorem Thread.srStep_preempt (th : Thread) : (th.srStep).preempt = th.preempt := Thread.setFpc_preempt th _
@[simp] theorem Thread.srStep_handling (th : Thread) : (th.srStep).handling = th.handling := Thread.setFpc_handling th _
@[simp] theorem Thread.srStep_hostDirty (th : Thread) : (th.srStep).hostDirty = th.hostDirty := Thread.setFpc_hostDirty th _

@[simp] theorem Thread.later_gen (th : Thread) (i : Instr) (rot l : Nat) (d : Dest) (x : RegVal) (f : Flags) (fl : Label) : (th.later i rot l d x f fl).gen = th.gen := rfl
@[simp] theorem Thread.later_kind (th : Thread) (i : Instr) (rot l : Nat) (d : Dest) (x : RegVal) (f : Flags) (fl : Label) : (th.later i rot l d x f fl).kind = th.kind := rfl
@[simp] theorem Thread.later_part (th : Thread) (i : Instr) (rot l : Nat) (d : Dest) (x : RegVal) (f : Flags) (fl : Label) : (th.later i rot l d x f fl).part = th.part := rfl
@[simp] theorem Thread.later_pc (th : Thread) (i : Instr) (rot l : Nat) (d : Dest) (x : RegVal) (f : Flags) (fl : Label) : (th.later i rot l d x f fl).pc = th.pc := rfl
@[simp] theorem Thread.later_s (th : Thread) (i : Instr) (rot l : Nat) (d : Dest) (x : RegVal) (f : Flags) (fl : Label) : (th.later i rot l d x f fl).s = th.s := rfl
@[simp] theorem Thread.later_p (th : Thread) (i : Instr) (rot l : Nat) (d : Dest) (x : RegVal) (f : Flags) (fl : Label) : (th.later i rot l d x f fl).p = th.p := rfl
@[simp] theorem Thread.later_v (th : Thread) (i : Instr) (rot l : Nat) (d : Dest) (x : RegVal) (f : Flags) (fl : Label) : (th.later i rot l d x f fl).v = th.v := rfl
@[simp] theorem Thread.later_k (th : Thread) (i : Instr) (rot l : Nat) (d : Dest) (x : RegVal) (f : Flags) (fl : Label) : (th.later i rot l d x f fl).k = th.k := rfl
@[simp] theorem Thread.later_t (th : Thread) (i : Instr) (rot l : Nat) (d : Dest) (x : RegVal) (f : Flags) (fl : Label) : (th.later i rot l d x f fl).t = th.t := rfl
@[simp] theorem Thread.later_ts (th : Thread) (i : Instr) (rot l : Nat) (d : Dest) (x : RegVal) (f : Flags) (fl : Label) : (th.later i rot l d x f fl).ts = th.ts := rfl
@[simp] theorem Thread.later_ctxl (th : Thread) (i : Instr) (rot l : Nat) (d : Dest) (x : RegVal) (f : Flags) (fl : Label) : (th.later i rot l d x f fl).ctxl = th.ctxl := rfl
@[simp] theorem Thread.later_world (th : Thread) (i : Instr) (rot l : Nat) (d : Dest) (x : RegVal) (f : Flags) (fl : Label) : (th.later i rot l d x f fl).world = th.world := rfl
@[simp] theorem Thread.later_te (th : Thread) (i : Instr) (rot l : Nat) (d : Dest) (x : RegVal) (f : Flags) (fl : Label) : (th.later i rot l d x f fl).te = th.te := rfl
@[simp] theorem Thread.later_sbc (th : Thread) (i : Instr) (rot l : Nat) (d : Dest) (x : RegVal) (f : Flags) (fl : Label) : (th.later i rot l d x f fl).sbc = th.sbc := rfl
@[simp] theorem Thread.later_fpc (th : Thread) (i : Instr) (rot l : Nat) (d : Dest) (x : RegVal) (f : Flags) (fl : Label) : (th.later i rot l d x f fl).fpc = th.fpc := rfl
@[simp] theorem Thread.later_tepc (th : Thread) (i : Instr) (rot l : Nat) (d : Dest) (x : RegVal) (f : Flags) (fl : Label) : (th.later i rot l d x f fl).tepc = th.tepc := rfl
@[simp] theorem Thread.later_tcause (th : Thread) (i : Instr) (rot l : Nat) (d : Dest) (x : RegVal) (f : Flags) (fl : Label) : (th.later i rot l d x f fl).tcause = th.tcause := rfl
@[simp] theorem Thread.later_tinfo0 (th : Thread) (i : Instr) (rot l : Nat) (d : Dest) (x : RegVal) (f : Flags) (fl : Label) : (th.later i rot l d x f fl).tinfo0 = th.tinfo0 := rfl
@[simp] theorem Thread.later_tinfo1 (th : Thread) (i : Instr) (rot l : Nat) (d : Dest) (x : RegVal) (f : Flags) (fl : Label) : (th.later i rot l d x f fl).tinfo1 = th.tinfo1 := rfl
@[simp] theorem Thread.later_tsave (th : Thread) (i : Instr) (rot l : Nat) (d : Dest) (x : RegVal) (f : Flags) (fl : Label) : (th.later i rot l d x f fl).tsave = th.tsave := rfl
@[simp] theorem Thread.later_tsig (th : Thread) (i : Instr) (rot l : Nat) (d : Dest) (x : RegVal) (f : Flags) (fl : Label) : (th.later i rot l d x f fl).tsig = th.tsig := rfl
@[simp] theorem Thread.later_flint (th : Thread) (i : Instr) (rot l : Nat) (d : Dest) (x : RegVal) (f : Flags) (fl : Label) : (th.later i rot l d x f fl).flint = th.flint := rfl
@[simp] theorem Thread.later_lastBad (th : Thread) (i : Instr) (rot l : Nat) (d : Dest) (x : RegVal) (f : Flags) (fl : Label) : (th.later i rot l d x f fl).lastBad = th.lastBad := rfl
@[simp] theorem Thread.later_xfer (th : Thread) (i : Instr) (rot l : Nat) (d : Dest) (x : RegVal) (f : Flags) (fl : Label) : (th.later i rot l d x f fl).xfer = th.xfer := rfl
@[simp] theorem Thread.later_abown (th : Thread) (i : Instr) (rot l : Nat) (d : Dest) (x : RegVal) (f : Flags) (fl : Label) : (th.later i rot l d x f fl).abown = th.abown := rfl
@[simp] theorem Thread.later_barPend (th : Thread) (i : Instr) (rot l : Nat) (d : Dest) (x : RegVal) (f : Flags) (fl : Label) : (th.later i rot l d x f fl).barPend = th.barPend := rfl
@[simp] theorem Thread.later_accWin (th : Thread) (i : Instr) (rot l : Nat) (d : Dest) (x : RegVal) (f : Flags) (fl : Label) : (th.later i rot l d x f fl).accWin = th.accWin := rfl
@[simp] theorem Thread.later_depSel (th : Thread) (i : Instr) (rot l : Nat) (d : Dest) (x : RegVal) (f : Flags) (fl : Label) : (th.later i rot l d x f fl).depSel = th.depSel := rfl
@[simp] theorem Thread.later_grpId (th : Thread) (i : Instr) (rot l : Nat) (d : Dest) (x : RegVal) (f : Flags) (fl : Label) : (th.later i rot l d x f fl).grpId = th.grpId := rfl
@[simp] theorem Thread.later_grpN (th : Thread) (i : Instr) (rot l : Nat) (d : Dest) (x : RegVal) (f : Flags) (fl : Label) : (th.later i rot l d x f fl).grpN = th.grpN := rfl
@[simp] theorem Thread.later_strId (th : Thread) (i : Instr) (rot l : Nat) (d : Dest) (x : RegVal) (f : Flags) (fl : Label) : (th.later i rot l d x f fl).strId = th.strId := rfl
@[simp] theorem Thread.later_strN (th : Thread) (i : Instr) (rot l : Nat) (d : Dest) (x : RegVal) (f : Flags) (fl : Label) : (th.later i rot l d x f fl).strN = th.strN := rfl
@[simp] theorem Thread.later_arg (th : Thread) (i : Instr) (rot l : Nat) (d : Dest) (x : RegVal) (f : Flags) (fl : Label) : (th.later i rot l d x f fl).arg = th.arg := rfl
@[simp] theorem Thread.later_slotsM (th : Thread) (i : Instr) (rot l : Nat) (d : Dest) (x : RegVal) (f : Flags) (fl : Label) : (th.later i rot l d x f fl).slotsM = th.slotsM := rfl
@[simp] theorem Thread.later_launch (th : Thread) (i : Instr) (rot l : Nat) (d : Dest) (x : RegVal) (f : Flags) (fl : Label) : (th.later i rot l d x f fl).launch = th.launch := rfl
@[simp] theorem Thread.later_timed (th : Thread) (i : Instr) (rot l : Nat) (d : Dest) (x : RegVal) (f : Flags) (fl : Label) : (th.later i rot l d x f fl).timed = th.timed := rfl
@[simp] theorem Thread.later_nextRot (th : Thread) (i : Instr) (rot l : Nat) (d : Dest) (x : RegVal) (f : Flags) (fl : Label) : (th.later i rot l d x f fl).nextRot = th.nextRot := rfl
@[simp] theorem Thread.later_park (th : Thread) (i : Instr) (rot l : Nat) (d : Dest) (x : RegVal) (f : Flags) (fl : Label) : (th.later i rot l d x f fl).park = th.park := rfl
@[simp] theorem Thread.later_again (th : Thread) (i : Instr) (rot l : Nat) (d : Dest) (x : RegVal) (f : Flags) (fl : Label) : (th.later i rot l d x f fl).again = th.again := rfl
@[simp] theorem Thread.later_retry (th : Thread) (i : Instr) (rot l : Nat) (d : Dest) (x : RegVal) (f : Flags) (fl : Label) : (th.later i rot l d x f fl).retry = th.retry := rfl
@[simp] theorem Thread.later_chain (th : Thread) (i : Instr) (rot l : Nat) (d : Dest) (x : RegVal) (f : Flags) (fl : Label) : (th.later i rot l d x f fl).chain = th.chain := rfl
@[simp] theorem Thread.later_pendSet (th : Thread) (i : Instr) (rot l : Nat) (d : Dest) (x : RegVal) (f : Flags) (fl : Label) : (th.later i rot l d x f fl).pendSet = th.pendSet := rfl
@[simp] theorem Thread.later_preempt (th : Thread) (i : Instr) (rot l : Nat) (d : Dest) (x : RegVal) (f : Flags) (fl : Label) : (th.later i rot l d x f fl).preempt = th.preempt := rfl
@[simp] theorem Thread.later_handling (th : Thread) (i : Instr) (rot l : Nat) (d : Dest) (x : RegVal) (f : Flags) (fl : Label) : (th.later i rot l d x f fl).handling = th.handling := rfl
@[simp] theorem Thread.later_hostDirty (th : Thread) (i : Instr) (rot l : Nat) (d : Dest) (x : RegVal) (f : Flags) (fl : Label) : (th.later i rot l d x f fl).hostDirty = th.hostDirty := rfl

@[simp] theorem Thread.putRawS_gen (th : Thread) (r : SReg) (x : SVal) : (th.putRawS r x).gen = th.gen :=
  (apply_ite Thread.gen (th.wiredS r = true) _ _).trans (ite_self _)
@[simp] theorem Thread.putRawS_kind (th : Thread) (r : SReg) (x : SVal) : (th.putRawS r x).kind = th.kind :=
  (apply_ite Thread.kind (th.wiredS r = true) _ _).trans (ite_self _)
@[simp] theorem Thread.putRawS_part (th : Thread) (r : SReg) (x : SVal) : (th.putRawS r x).part = th.part :=
  (apply_ite Thread.part (th.wiredS r = true) _ _).trans (ite_self _)
@[simp] theorem Thread.putRawS_pc (th : Thread) (r : SReg) (x : SVal) : (th.putRawS r x).pc = th.pc :=
  (apply_ite Thread.pc (th.wiredS r = true) _ _).trans (ite_self _)
@[simp] theorem Thread.putRawS_p (th : Thread) (r : SReg) (x : SVal) : (th.putRawS r x).p = th.p :=
  (apply_ite Thread.p (th.wiredS r = true) _ _).trans (ite_self _)
@[simp] theorem Thread.putRawS_v (th : Thread) (r : SReg) (x : SVal) : (th.putRawS r x).v = th.v :=
  (apply_ite Thread.v (th.wiredS r = true) _ _).trans (ite_self _)
@[simp] theorem Thread.putRawS_k (th : Thread) (r : SReg) (x : SVal) : (th.putRawS r x).k = th.k :=
  (apply_ite Thread.k (th.wiredS r = true) _ _).trans (ite_self _)
@[simp] theorem Thread.putRawS_t (th : Thread) (r : SReg) (x : SVal) : (th.putRawS r x).t = th.t :=
  (apply_ite Thread.t (th.wiredS r = true) _ _).trans (ite_self _)
@[simp] theorem Thread.putRawS_ts (th : Thread) (r : SReg) (x : SVal) : (th.putRawS r x).ts = th.ts :=
  (apply_ite Thread.ts (th.wiredS r = true) _ _).trans (ite_self _)
@[simp] theorem Thread.putRawS_ctxl (th : Thread) (r : SReg) (x : SVal) : (th.putRawS r x).ctxl = th.ctxl :=
  (apply_ite Thread.ctxl (th.wiredS r = true) _ _).trans (ite_self _)
@[simp] theorem Thread.putRawS_world (th : Thread) (r : SReg) (x : SVal) : (th.putRawS r x).world = th.world :=
  (apply_ite Thread.world (th.wiredS r = true) _ _).trans (ite_self _)
@[simp] theorem Thread.putRawS_te (th : Thread) (r : SReg) (x : SVal) : (th.putRawS r x).te = th.te :=
  (apply_ite Thread.te (th.wiredS r = true) _ _).trans (ite_self _)
@[simp] theorem Thread.putRawS_sbc (th : Thread) (r : SReg) (x : SVal) : (th.putRawS r x).sbc = th.sbc :=
  (apply_ite Thread.sbc (th.wiredS r = true) _ _).trans (ite_self _)
@[simp] theorem Thread.putRawS_fpc (th : Thread) (r : SReg) (x : SVal) : (th.putRawS r x).fpc = th.fpc :=
  (apply_ite Thread.fpc (th.wiredS r = true) _ _).trans (ite_self _)
@[simp] theorem Thread.putRawS_tepc (th : Thread) (r : SReg) (x : SVal) : (th.putRawS r x).tepc = th.tepc :=
  (apply_ite Thread.tepc (th.wiredS r = true) _ _).trans (ite_self _)
@[simp] theorem Thread.putRawS_tcause (th : Thread) (r : SReg) (x : SVal) : (th.putRawS r x).tcause = th.tcause :=
  (apply_ite Thread.tcause (th.wiredS r = true) _ _).trans (ite_self _)
@[simp] theorem Thread.putRawS_tinfo0 (th : Thread) (r : SReg) (x : SVal) : (th.putRawS r x).tinfo0 = th.tinfo0 :=
  (apply_ite Thread.tinfo0 (th.wiredS r = true) _ _).trans (ite_self _)
@[simp] theorem Thread.putRawS_tinfo1 (th : Thread) (r : SReg) (x : SVal) : (th.putRawS r x).tinfo1 = th.tinfo1 :=
  (apply_ite Thread.tinfo1 (th.wiredS r = true) _ _).trans (ite_self _)
@[simp] theorem Thread.putRawS_tsave (th : Thread) (r : SReg) (x : SVal) : (th.putRawS r x).tsave = th.tsave :=
  (apply_ite Thread.tsave (th.wiredS r = true) _ _).trans (ite_self _)
@[simp] theorem Thread.putRawS_tsig (th : Thread) (r : SReg) (x : SVal) : (th.putRawS r x).tsig = th.tsig :=
  (apply_ite Thread.tsig (th.wiredS r = true) _ _).trans (ite_self _)
@[simp] theorem Thread.putRawS_flint (th : Thread) (r : SReg) (x : SVal) : (th.putRawS r x).flint = th.flint :=
  (apply_ite Thread.flint (th.wiredS r = true) _ _).trans (ite_self _)
@[simp] theorem Thread.putRawS_lastBad (th : Thread) (r : SReg) (x : SVal) : (th.putRawS r x).lastBad = th.lastBad :=
  (apply_ite Thread.lastBad (th.wiredS r = true) _ _).trans (ite_self _)
@[simp] theorem Thread.putRawS_xfer (th : Thread) (r : SReg) (x : SVal) : (th.putRawS r x).xfer = th.xfer :=
  (apply_ite Thread.xfer (th.wiredS r = true) _ _).trans (ite_self _)
@[simp] theorem Thread.putRawS_abown (th : Thread) (r : SReg) (x : SVal) : (th.putRawS r x).abown = th.abown :=
  (apply_ite Thread.abown (th.wiredS r = true) _ _).trans (ite_self _)
@[simp] theorem Thread.putRawS_barPend (th : Thread) (r : SReg) (x : SVal) : (th.putRawS r x).barPend = th.barPend :=
  (apply_ite Thread.barPend (th.wiredS r = true) _ _).trans (ite_self _)
@[simp] theorem Thread.putRawS_accWin (th : Thread) (r : SReg) (x : SVal) : (th.putRawS r x).accWin = th.accWin :=
  (apply_ite Thread.accWin (th.wiredS r = true) _ _).trans (ite_self _)
@[simp] theorem Thread.putRawS_depSel (th : Thread) (r : SReg) (x : SVal) : (th.putRawS r x).depSel = th.depSel :=
  (apply_ite Thread.depSel (th.wiredS r = true) _ _).trans (ite_self _)
@[simp] theorem Thread.putRawS_grpId (th : Thread) (r : SReg) (x : SVal) : (th.putRawS r x).grpId = th.grpId :=
  (apply_ite Thread.grpId (th.wiredS r = true) _ _).trans (ite_self _)
@[simp] theorem Thread.putRawS_grpN (th : Thread) (r : SReg) (x : SVal) : (th.putRawS r x).grpN = th.grpN :=
  (apply_ite Thread.grpN (th.wiredS r = true) _ _).trans (ite_self _)
@[simp] theorem Thread.putRawS_strId (th : Thread) (r : SReg) (x : SVal) : (th.putRawS r x).strId = th.strId :=
  (apply_ite Thread.strId (th.wiredS r = true) _ _).trans (ite_self _)
@[simp] theorem Thread.putRawS_strN (th : Thread) (r : SReg) (x : SVal) : (th.putRawS r x).strN = th.strN :=
  (apply_ite Thread.strN (th.wiredS r = true) _ _).trans (ite_self _)
@[simp] theorem Thread.putRawS_arg (th : Thread) (r : SReg) (x : SVal) : (th.putRawS r x).arg = th.arg :=
  (apply_ite Thread.arg (th.wiredS r = true) _ _).trans (ite_self _)
@[simp] theorem Thread.putRawS_slotsM (th : Thread) (r : SReg) (x : SVal) : (th.putRawS r x).slotsM = th.slotsM :=
  (apply_ite Thread.slotsM (th.wiredS r = true) _ _).trans (ite_self _)
@[simp] theorem Thread.putRawS_launch (th : Thread) (r : SReg) (x : SVal) : (th.putRawS r x).launch = th.launch :=
  (apply_ite Thread.launch (th.wiredS r = true) _ _).trans (ite_self _)
@[simp] theorem Thread.putRawS_timed (th : Thread) (r : SReg) (x : SVal) : (th.putRawS r x).timed = th.timed :=
  (apply_ite Thread.timed (th.wiredS r = true) _ _).trans (ite_self _)
@[simp] theorem Thread.putRawS_pend (th : Thread) (r : SReg) (x : SVal) : (th.putRawS r x).pend = th.pend :=
  (apply_ite Thread.pend (th.wiredS r = true) _ _).trans (ite_self _)
@[simp] theorem Thread.putRawS_sched (th : Thread) (r : SReg) (x : SVal) : (th.putRawS r x).sched = th.sched :=
  (apply_ite Thread.sched (th.wiredS r = true) _ _).trans (ite_self _)
@[simp] theorem Thread.putRawS_nextRot (th : Thread) (r : SReg) (x : SVal) : (th.putRawS r x).nextRot = th.nextRot :=
  (apply_ite Thread.nextRot (th.wiredS r = true) _ _).trans (ite_self _)
@[simp] theorem Thread.putRawS_park (th : Thread) (r : SReg) (x : SVal) : (th.putRawS r x).park = th.park :=
  (apply_ite Thread.park (th.wiredS r = true) _ _).trans (ite_self _)
@[simp] theorem Thread.putRawS_retry (th : Thread) (r : SReg) (x : SVal) : (th.putRawS r x).retry = th.retry :=
  (apply_ite Thread.retry (th.wiredS r = true) _ _).trans (ite_self _)
@[simp] theorem Thread.putRawS_chain (th : Thread) (r : SReg) (x : SVal) : (th.putRawS r x).chain = th.chain :=
  (apply_ite Thread.chain (th.wiredS r = true) _ _).trans (ite_self _)
@[simp] theorem Thread.putRawS_pendSet (th : Thread) (r : SReg) (x : SVal) : (th.putRawS r x).pendSet = th.pendSet :=
  (apply_ite Thread.pendSet (th.wiredS r = true) _ _).trans (ite_self _)
@[simp] theorem Thread.putRawS_preempt (th : Thread) (r : SReg) (x : SVal) : (th.putRawS r x).preempt = th.preempt :=
  (apply_ite Thread.preempt (th.wiredS r = true) _ _).trans (ite_self _)
@[simp] theorem Thread.putRawS_handling (th : Thread) (r : SReg) (x : SVal) : (th.putRawS r x).handling = th.handling :=
  (apply_ite Thread.handling (th.wiredS r = true) _ _).trans (ite_self _)
@[simp] theorem Thread.putRawS_hostDirty (th : Thread) (r : SReg) (x : SVal) : (th.putRawS r x).hostDirty = th.hostDirty :=
  (apply_ite Thread.hostDirty (th.wiredS r = true) _ _).trans (ite_self _)

@[simp] theorem Thread.putRawP_gen (th : Thread) (n : PReg) (x : PVal) : (th.putRawP n x).gen = th.gen :=
  (apply_ite Thread.gen (n = 0) _ _).trans (ite_self _)
@[simp] theorem Thread.putRawP_kind (th : Thread) (n : PReg) (x : PVal) : (th.putRawP n x).kind = th.kind :=
  (apply_ite Thread.kind (n = 0) _ _).trans (ite_self _)
@[simp] theorem Thread.putRawP_part (th : Thread) (n : PReg) (x : PVal) : (th.putRawP n x).part = th.part :=
  (apply_ite Thread.part (n = 0) _ _).trans (ite_self _)
@[simp] theorem Thread.putRawP_pc (th : Thread) (n : PReg) (x : PVal) : (th.putRawP n x).pc = th.pc :=
  (apply_ite Thread.pc (n = 0) _ _).trans (ite_self _)
@[simp] theorem Thread.putRawP_s (th : Thread) (n : PReg) (x : PVal) : (th.putRawP n x).s = th.s :=
  (apply_ite Thread.s (n = 0) _ _).trans (ite_self _)
@[simp] theorem Thread.putRawP_v (th : Thread) (n : PReg) (x : PVal) : (th.putRawP n x).v = th.v :=
  (apply_ite Thread.v (n = 0) _ _).trans (ite_self _)
@[simp] theorem Thread.putRawP_k (th : Thread) (n : PReg) (x : PVal) : (th.putRawP n x).k = th.k :=
  (apply_ite Thread.k (n = 0) _ _).trans (ite_self _)
@[simp] theorem Thread.putRawP_t (th : Thread) (n : PReg) (x : PVal) : (th.putRawP n x).t = th.t :=
  (apply_ite Thread.t (n = 0) _ _).trans (ite_self _)
@[simp] theorem Thread.putRawP_ts (th : Thread) (n : PReg) (x : PVal) : (th.putRawP n x).ts = th.ts :=
  (apply_ite Thread.ts (n = 0) _ _).trans (ite_self _)
@[simp] theorem Thread.putRawP_ctxl (th : Thread) (n : PReg) (x : PVal) : (th.putRawP n x).ctxl = th.ctxl :=
  (apply_ite Thread.ctxl (n = 0) _ _).trans (ite_self _)
@[simp] theorem Thread.putRawP_world (th : Thread) (n : PReg) (x : PVal) : (th.putRawP n x).world = th.world :=
  (apply_ite Thread.world (n = 0) _ _).trans (ite_self _)
@[simp] theorem Thread.putRawP_te (th : Thread) (n : PReg) (x : PVal) : (th.putRawP n x).te = th.te :=
  (apply_ite Thread.te (n = 0) _ _).trans (ite_self _)
@[simp] theorem Thread.putRawP_sbc (th : Thread) (n : PReg) (x : PVal) : (th.putRawP n x).sbc = th.sbc :=
  (apply_ite Thread.sbc (n = 0) _ _).trans (ite_self _)
@[simp] theorem Thread.putRawP_fpc (th : Thread) (n : PReg) (x : PVal) : (th.putRawP n x).fpc = th.fpc :=
  (apply_ite Thread.fpc (n = 0) _ _).trans (ite_self _)
@[simp] theorem Thread.putRawP_tepc (th : Thread) (n : PReg) (x : PVal) : (th.putRawP n x).tepc = th.tepc :=
  (apply_ite Thread.tepc (n = 0) _ _).trans (ite_self _)
@[simp] theorem Thread.putRawP_tcause (th : Thread) (n : PReg) (x : PVal) : (th.putRawP n x).tcause = th.tcause :=
  (apply_ite Thread.tcause (n = 0) _ _).trans (ite_self _)
@[simp] theorem Thread.putRawP_tinfo0 (th : Thread) (n : PReg) (x : PVal) : (th.putRawP n x).tinfo0 = th.tinfo0 :=
  (apply_ite Thread.tinfo0 (n = 0) _ _).trans (ite_self _)
@[simp] theorem Thread.putRawP_tinfo1 (th : Thread) (n : PReg) (x : PVal) : (th.putRawP n x).tinfo1 = th.tinfo1 :=
  (apply_ite Thread.tinfo1 (n = 0) _ _).trans (ite_self _)
@[simp] theorem Thread.putRawP_tsave (th : Thread) (n : PReg) (x : PVal) : (th.putRawP n x).tsave = th.tsave :=
  (apply_ite Thread.tsave (n = 0) _ _).trans (ite_self _)
@[simp] theorem Thread.putRawP_tsig (th : Thread) (n : PReg) (x : PVal) : (th.putRawP n x).tsig = th.tsig :=
  (apply_ite Thread.tsig (n = 0) _ _).trans (ite_self _)
@[simp] theorem Thread.putRawP_flint (th : Thread) (n : PReg) (x : PVal) : (th.putRawP n x).flint = th.flint :=
  (apply_ite Thread.flint (n = 0) _ _).trans (ite_self _)
@[simp] theorem Thread.putRawP_lastBad (th : Thread) (n : PReg) (x : PVal) : (th.putRawP n x).lastBad = th.lastBad :=
  (apply_ite Thread.lastBad (n = 0) _ _).trans (ite_self _)
@[simp] theorem Thread.putRawP_xfer (th : Thread) (n : PReg) (x : PVal) : (th.putRawP n x).xfer = th.xfer :=
  (apply_ite Thread.xfer (n = 0) _ _).trans (ite_self _)
@[simp] theorem Thread.putRawP_abown (th : Thread) (n : PReg) (x : PVal) : (th.putRawP n x).abown = th.abown :=
  (apply_ite Thread.abown (n = 0) _ _).trans (ite_self _)
@[simp] theorem Thread.putRawP_barPend (th : Thread) (n : PReg) (x : PVal) : (th.putRawP n x).barPend = th.barPend :=
  (apply_ite Thread.barPend (n = 0) _ _).trans (ite_self _)
@[simp] theorem Thread.putRawP_accWin (th : Thread) (n : PReg) (x : PVal) : (th.putRawP n x).accWin = th.accWin :=
  (apply_ite Thread.accWin (n = 0) _ _).trans (ite_self _)
@[simp] theorem Thread.putRawP_depSel (th : Thread) (n : PReg) (x : PVal) : (th.putRawP n x).depSel = th.depSel :=
  (apply_ite Thread.depSel (n = 0) _ _).trans (ite_self _)
@[simp] theorem Thread.putRawP_grpId (th : Thread) (n : PReg) (x : PVal) : (th.putRawP n x).grpId = th.grpId :=
  (apply_ite Thread.grpId (n = 0) _ _).trans (ite_self _)
@[simp] theorem Thread.putRawP_grpN (th : Thread) (n : PReg) (x : PVal) : (th.putRawP n x).grpN = th.grpN :=
  (apply_ite Thread.grpN (n = 0) _ _).trans (ite_self _)
@[simp] theorem Thread.putRawP_strId (th : Thread) (n : PReg) (x : PVal) : (th.putRawP n x).strId = th.strId :=
  (apply_ite Thread.strId (n = 0) _ _).trans (ite_self _)
@[simp] theorem Thread.putRawP_strN (th : Thread) (n : PReg) (x : PVal) : (th.putRawP n x).strN = th.strN :=
  (apply_ite Thread.strN (n = 0) _ _).trans (ite_self _)
@[simp] theorem Thread.putRawP_arg (th : Thread) (n : PReg) (x : PVal) : (th.putRawP n x).arg = th.arg :=
  (apply_ite Thread.arg (n = 0) _ _).trans (ite_self _)
@[simp] theorem Thread.putRawP_slotsM (th : Thread) (n : PReg) (x : PVal) : (th.putRawP n x).slotsM = th.slotsM :=
  (apply_ite Thread.slotsM (n = 0) _ _).trans (ite_self _)
@[simp] theorem Thread.putRawP_launch (th : Thread) (n : PReg) (x : PVal) : (th.putRawP n x).launch = th.launch :=
  (apply_ite Thread.launch (n = 0) _ _).trans (ite_self _)
@[simp] theorem Thread.putRawP_timed (th : Thread) (n : PReg) (x : PVal) : (th.putRawP n x).timed = th.timed :=
  (apply_ite Thread.timed (n = 0) _ _).trans (ite_self _)
@[simp] theorem Thread.putRawP_pend (th : Thread) (n : PReg) (x : PVal) : (th.putRawP n x).pend = th.pend :=
  (apply_ite Thread.pend (n = 0) _ _).trans (ite_self _)
@[simp] theorem Thread.putRawP_sched (th : Thread) (n : PReg) (x : PVal) : (th.putRawP n x).sched = th.sched :=
  (apply_ite Thread.sched (n = 0) _ _).trans (ite_self _)
@[simp] theorem Thread.putRawP_nextRot (th : Thread) (n : PReg) (x : PVal) : (th.putRawP n x).nextRot = th.nextRot :=
  (apply_ite Thread.nextRot (n = 0) _ _).trans (ite_self _)
@[simp] theorem Thread.putRawP_park (th : Thread) (n : PReg) (x : PVal) : (th.putRawP n x).park = th.park :=
  (apply_ite Thread.park (n = 0) _ _).trans (ite_self _)
@[simp] theorem Thread.putRawP_again (th : Thread) (n : PReg) (x : PVal) : (th.putRawP n x).again = th.again :=
  (apply_ite Thread.again (n = 0) _ _).trans (ite_self _)
@[simp] theorem Thread.putRawP_retry (th : Thread) (n : PReg) (x : PVal) : (th.putRawP n x).retry = th.retry :=
  (apply_ite Thread.retry (n = 0) _ _).trans (ite_self _)
@[simp] theorem Thread.putRawP_chain (th : Thread) (n : PReg) (x : PVal) : (th.putRawP n x).chain = th.chain :=
  (apply_ite Thread.chain (n = 0) _ _).trans (ite_self _)
@[simp] theorem Thread.putRawP_pendSet (th : Thread) (n : PReg) (x : PVal) : (th.putRawP n x).pendSet = th.pendSet :=
  (apply_ite Thread.pendSet (n = 0) _ _).trans (ite_self _)
@[simp] theorem Thread.putRawP_preempt (th : Thread) (n : PReg) (x : PVal) : (th.putRawP n x).preempt = th.preempt :=
  (apply_ite Thread.preempt (n = 0) _ _).trans (ite_self _)
@[simp] theorem Thread.putRawP_handling (th : Thread) (n : PReg) (x : PVal) : (th.putRawP n x).handling = th.handling :=
  (apply_ite Thread.handling (n = 0) _ _).trans (ite_self _)
@[simp] theorem Thread.putRawP_hostDirty (th : Thread) (n : PReg) (x : PVal) : (th.putRawP n x).hostDirty = th.hostDirty :=
  (apply_ite Thread.hostDirty (n = 0) _ _).trans (ite_self _)

@[simp] theorem Thread.putRawV_gen (th : Thread) (r : VReg) (x : VVal) : (th.putRawV r x).gen = th.gen := rfl
@[simp] theorem Thread.putRawV_kind (th : Thread) (r : VReg) (x : VVal) : (th.putRawV r x).kind = th.kind := rfl
@[simp] theorem Thread.putRawV_part (th : Thread) (r : VReg) (x : VVal) : (th.putRawV r x).part = th.part := rfl
@[simp] theorem Thread.putRawV_pc (th : Thread) (r : VReg) (x : VVal) : (th.putRawV r x).pc = th.pc := rfl
@[simp] theorem Thread.putRawV_s (th : Thread) (r : VReg) (x : VVal) : (th.putRawV r x).s = th.s := rfl
@[simp] theorem Thread.putRawV_p (th : Thread) (r : VReg) (x : VVal) : (th.putRawV r x).p = th.p := rfl
@[simp] theorem Thread.putRawV_k (th : Thread) (r : VReg) (x : VVal) : (th.putRawV r x).k = th.k := rfl
@[simp] theorem Thread.putRawV_t (th : Thread) (r : VReg) (x : VVal) : (th.putRawV r x).t = th.t := rfl
@[simp] theorem Thread.putRawV_ts (th : Thread) (r : VReg) (x : VVal) : (th.putRawV r x).ts = th.ts := rfl
@[simp] theorem Thread.putRawV_ctxl (th : Thread) (r : VReg) (x : VVal) : (th.putRawV r x).ctxl = th.ctxl := rfl
@[simp] theorem Thread.putRawV_world (th : Thread) (r : VReg) (x : VVal) : (th.putRawV r x).world = th.world := rfl
@[simp] theorem Thread.putRawV_te (th : Thread) (r : VReg) (x : VVal) : (th.putRawV r x).te = th.te := rfl
@[simp] theorem Thread.putRawV_sbc (th : Thread) (r : VReg) (x : VVal) : (th.putRawV r x).sbc = th.sbc := rfl
@[simp] theorem Thread.putRawV_fpc (th : Thread) (r : VReg) (x : VVal) : (th.putRawV r x).fpc = th.fpc := rfl
@[simp] theorem Thread.putRawV_tepc (th : Thread) (r : VReg) (x : VVal) : (th.putRawV r x).tepc = th.tepc := rfl
@[simp] theorem Thread.putRawV_tcause (th : Thread) (r : VReg) (x : VVal) : (th.putRawV r x).tcause = th.tcause := rfl
@[simp] theorem Thread.putRawV_tinfo0 (th : Thread) (r : VReg) (x : VVal) : (th.putRawV r x).tinfo0 = th.tinfo0 := rfl
@[simp] theorem Thread.putRawV_tinfo1 (th : Thread) (r : VReg) (x : VVal) : (th.putRawV r x).tinfo1 = th.tinfo1 := rfl
@[simp] theorem Thread.putRawV_tsave (th : Thread) (r : VReg) (x : VVal) : (th.putRawV r x).tsave = th.tsave := rfl
@[simp] theorem Thread.putRawV_tsig (th : Thread) (r : VReg) (x : VVal) : (th.putRawV r x).tsig = th.tsig := rfl
@[simp] theorem Thread.putRawV_flint (th : Thread) (r : VReg) (x : VVal) : (th.putRawV r x).flint = th.flint := rfl
@[simp] theorem Thread.putRawV_lastBad (th : Thread) (r : VReg) (x : VVal) : (th.putRawV r x).lastBad = th.lastBad := rfl
@[simp] theorem Thread.putRawV_xfer (th : Thread) (r : VReg) (x : VVal) : (th.putRawV r x).xfer = th.xfer := rfl
@[simp] theorem Thread.putRawV_abown (th : Thread) (r : VReg) (x : VVal) : (th.putRawV r x).abown = th.abown := rfl
@[simp] theorem Thread.putRawV_barPend (th : Thread) (r : VReg) (x : VVal) : (th.putRawV r x).barPend = th.barPend := rfl
@[simp] theorem Thread.putRawV_accWin (th : Thread) (r : VReg) (x : VVal) : (th.putRawV r x).accWin = th.accWin := rfl
@[simp] theorem Thread.putRawV_depSel (th : Thread) (r : VReg) (x : VVal) : (th.putRawV r x).depSel = th.depSel := rfl
@[simp] theorem Thread.putRawV_grpId (th : Thread) (r : VReg) (x : VVal) : (th.putRawV r x).grpId = th.grpId := rfl
@[simp] theorem Thread.putRawV_grpN (th : Thread) (r : VReg) (x : VVal) : (th.putRawV r x).grpN = th.grpN := rfl
@[simp] theorem Thread.putRawV_strId (th : Thread) (r : VReg) (x : VVal) : (th.putRawV r x).strId = th.strId := rfl
@[simp] theorem Thread.putRawV_strN (th : Thread) (r : VReg) (x : VVal) : (th.putRawV r x).strN = th.strN := rfl
@[simp] theorem Thread.putRawV_arg (th : Thread) (r : VReg) (x : VVal) : (th.putRawV r x).arg = th.arg := rfl
@[simp] theorem Thread.putRawV_slotsM (th : Thread) (r : VReg) (x : VVal) : (th.putRawV r x).slotsM = th.slotsM := rfl
@[simp] theorem Thread.putRawV_launch (th : Thread) (r : VReg) (x : VVal) : (th.putRawV r x).launch = th.launch := rfl
@[simp] theorem Thread.putRawV_timed (th : Thread) (r : VReg) (x : VVal) : (th.putRawV r x).timed = th.timed := rfl
@[simp] theorem Thread.putRawV_pend (th : Thread) (r : VReg) (x : VVal) : (th.putRawV r x).pend = th.pend := rfl
@[simp] theorem Thread.putRawV_sched (th : Thread) (r : VReg) (x : VVal) : (th.putRawV r x).sched = th.sched := rfl
@[simp] theorem Thread.putRawV_nextRot (th : Thread) (r : VReg) (x : VVal) : (th.putRawV r x).nextRot = th.nextRot := rfl
@[simp] theorem Thread.putRawV_park (th : Thread) (r : VReg) (x : VVal) : (th.putRawV r x).park = th.park := rfl
@[simp] theorem Thread.putRawV_again (th : Thread) (r : VReg) (x : VVal) : (th.putRawV r x).again = th.again := rfl
@[simp] theorem Thread.putRawV_retry (th : Thread) (r : VReg) (x : VVal) : (th.putRawV r x).retry = th.retry := rfl
@[simp] theorem Thread.putRawV_chain (th : Thread) (r : VReg) (x : VVal) : (th.putRawV r x).chain = th.chain := rfl
@[simp] theorem Thread.putRawV_pendSet (th : Thread) (r : VReg) (x : VVal) : (th.putRawV r x).pendSet = th.pendSet := rfl
@[simp] theorem Thread.putRawV_preempt (th : Thread) (r : VReg) (x : VVal) : (th.putRawV r x).preempt = th.preempt := rfl
@[simp] theorem Thread.putRawV_handling (th : Thread) (r : VReg) (x : VVal) : (th.putRawV r x).handling = th.handling := rfl
@[simp] theorem Thread.putRawV_hostDirty (th : Thread) (r : VReg) (x : VVal) : (th.putRawV r x).hostDirty = th.hostDirty := rfl

@[simp] theorem Thread.putRawK_gen (th : Thread) (n : KReg) (x : KVal) : (th.putRawK n x).gen = th.gen :=
  (apply_ite Thread.gen (n = 0) _ _).trans (ite_self _)
@[simp] theorem Thread.putRawK_kind (th : Thread) (n : KReg) (x : KVal) : (th.putRawK n x).kind = th.kind :=
  (apply_ite Thread.kind (n = 0) _ _).trans (ite_self _)
@[simp] theorem Thread.putRawK_part (th : Thread) (n : KReg) (x : KVal) : (th.putRawK n x).part = th.part :=
  (apply_ite Thread.part (n = 0) _ _).trans (ite_self _)
@[simp] theorem Thread.putRawK_pc (th : Thread) (n : KReg) (x : KVal) : (th.putRawK n x).pc = th.pc :=
  (apply_ite Thread.pc (n = 0) _ _).trans (ite_self _)
@[simp] theorem Thread.putRawK_s (th : Thread) (n : KReg) (x : KVal) : (th.putRawK n x).s = th.s :=
  (apply_ite Thread.s (n = 0) _ _).trans (ite_self _)
@[simp] theorem Thread.putRawK_p (th : Thread) (n : KReg) (x : KVal) : (th.putRawK n x).p = th.p :=
  (apply_ite Thread.p (n = 0) _ _).trans (ite_self _)
@[simp] theorem Thread.putRawK_v (th : Thread) (n : KReg) (x : KVal) : (th.putRawK n x).v = th.v :=
  (apply_ite Thread.v (n = 0) _ _).trans (ite_self _)
@[simp] theorem Thread.putRawK_t (th : Thread) (n : KReg) (x : KVal) : (th.putRawK n x).t = th.t :=
  (apply_ite Thread.t (n = 0) _ _).trans (ite_self _)
@[simp] theorem Thread.putRawK_ts (th : Thread) (n : KReg) (x : KVal) : (th.putRawK n x).ts = th.ts :=
  (apply_ite Thread.ts (n = 0) _ _).trans (ite_self _)
@[simp] theorem Thread.putRawK_ctxl (th : Thread) (n : KReg) (x : KVal) : (th.putRawK n x).ctxl = th.ctxl :=
  (apply_ite Thread.ctxl (n = 0) _ _).trans (ite_self _)
@[simp] theorem Thread.putRawK_world (th : Thread) (n : KReg) (x : KVal) : (th.putRawK n x).world = th.world :=
  (apply_ite Thread.world (n = 0) _ _).trans (ite_self _)
@[simp] theorem Thread.putRawK_te (th : Thread) (n : KReg) (x : KVal) : (th.putRawK n x).te = th.te :=
  (apply_ite Thread.te (n = 0) _ _).trans (ite_self _)
@[simp] theorem Thread.putRawK_sbc (th : Thread) (n : KReg) (x : KVal) : (th.putRawK n x).sbc = th.sbc :=
  (apply_ite Thread.sbc (n = 0) _ _).trans (ite_self _)
@[simp] theorem Thread.putRawK_fpc (th : Thread) (n : KReg) (x : KVal) : (th.putRawK n x).fpc = th.fpc :=
  (apply_ite Thread.fpc (n = 0) _ _).trans (ite_self _)
@[simp] theorem Thread.putRawK_tepc (th : Thread) (n : KReg) (x : KVal) : (th.putRawK n x).tepc = th.tepc :=
  (apply_ite Thread.tepc (n = 0) _ _).trans (ite_self _)
@[simp] theorem Thread.putRawK_tcause (th : Thread) (n : KReg) (x : KVal) : (th.putRawK n x).tcause = th.tcause :=
  (apply_ite Thread.tcause (n = 0) _ _).trans (ite_self _)
@[simp] theorem Thread.putRawK_tinfo0 (th : Thread) (n : KReg) (x : KVal) : (th.putRawK n x).tinfo0 = th.tinfo0 :=
  (apply_ite Thread.tinfo0 (n = 0) _ _).trans (ite_self _)
@[simp] theorem Thread.putRawK_tinfo1 (th : Thread) (n : KReg) (x : KVal) : (th.putRawK n x).tinfo1 = th.tinfo1 :=
  (apply_ite Thread.tinfo1 (n = 0) _ _).trans (ite_self _)
@[simp] theorem Thread.putRawK_tsave (th : Thread) (n : KReg) (x : KVal) : (th.putRawK n x).tsave = th.tsave :=
  (apply_ite Thread.tsave (n = 0) _ _).trans (ite_self _)
@[simp] theorem Thread.putRawK_tsig (th : Thread) (n : KReg) (x : KVal) : (th.putRawK n x).tsig = th.tsig :=
  (apply_ite Thread.tsig (n = 0) _ _).trans (ite_self _)
@[simp] theorem Thread.putRawK_flint (th : Thread) (n : KReg) (x : KVal) : (th.putRawK n x).flint = th.flint :=
  (apply_ite Thread.flint (n = 0) _ _).trans (ite_self _)
@[simp] theorem Thread.putRawK_lastBad (th : Thread) (n : KReg) (x : KVal) : (th.putRawK n x).lastBad = th.lastBad :=
  (apply_ite Thread.lastBad (n = 0) _ _).trans (ite_self _)
@[simp] theorem Thread.putRawK_xfer (th : Thread) (n : KReg) (x : KVal) : (th.putRawK n x).xfer = th.xfer :=
  (apply_ite Thread.xfer (n = 0) _ _).trans (ite_self _)
@[simp] theorem Thread.putRawK_abown (th : Thread) (n : KReg) (x : KVal) : (th.putRawK n x).abown = th.abown :=
  (apply_ite Thread.abown (n = 0) _ _).trans (ite_self _)
@[simp] theorem Thread.putRawK_barPend (th : Thread) (n : KReg) (x : KVal) : (th.putRawK n x).barPend = th.barPend :=
  (apply_ite Thread.barPend (n = 0) _ _).trans (ite_self _)
@[simp] theorem Thread.putRawK_accWin (th : Thread) (n : KReg) (x : KVal) : (th.putRawK n x).accWin = th.accWin :=
  (apply_ite Thread.accWin (n = 0) _ _).trans (ite_self _)
@[simp] theorem Thread.putRawK_depSel (th : Thread) (n : KReg) (x : KVal) : (th.putRawK n x).depSel = th.depSel :=
  (apply_ite Thread.depSel (n = 0) _ _).trans (ite_self _)
@[simp] theorem Thread.putRawK_grpId (th : Thread) (n : KReg) (x : KVal) : (th.putRawK n x).grpId = th.grpId :=
  (apply_ite Thread.grpId (n = 0) _ _).trans (ite_self _)
@[simp] theorem Thread.putRawK_grpN (th : Thread) (n : KReg) (x : KVal) : (th.putRawK n x).grpN = th.grpN :=
  (apply_ite Thread.grpN (n = 0) _ _).trans (ite_self _)
@[simp] theorem Thread.putRawK_strId (th : Thread) (n : KReg) (x : KVal) : (th.putRawK n x).strId = th.strId :=
  (apply_ite Thread.strId (n = 0) _ _).trans (ite_self _)
@[simp] theorem Thread.putRawK_strN (th : Thread) (n : KReg) (x : KVal) : (th.putRawK n x).strN = th.strN :=
  (apply_ite Thread.strN (n = 0) _ _).trans (ite_self _)
@[simp] theorem Thread.putRawK_arg (th : Thread) (n : KReg) (x : KVal) : (th.putRawK n x).arg = th.arg :=
  (apply_ite Thread.arg (n = 0) _ _).trans (ite_self _)
@[simp] theorem Thread.putRawK_slotsM (th : Thread) (n : KReg) (x : KVal) : (th.putRawK n x).slotsM = th.slotsM :=
  (apply_ite Thread.slotsM (n = 0) _ _).trans (ite_self _)
@[simp] theorem Thread.putRawK_launch (th : Thread) (n : KReg) (x : KVal) : (th.putRawK n x).launch = th.launch :=
  (apply_ite Thread.launch (n = 0) _ _).trans (ite_self _)
@[simp] theorem Thread.putRawK_timed (th : Thread) (n : KReg) (x : KVal) : (th.putRawK n x).timed = th.timed :=
  (apply_ite Thread.timed (n = 0) _ _).trans (ite_self _)
@[simp] theorem Thread.putRawK_pend (th : Thread) (n : KReg) (x : KVal) : (th.putRawK n x).pend = th.pend :=
  (apply_ite Thread.pend (n = 0) _ _).trans (ite_self _)
@[simp] theorem Thread.putRawK_sched (th : Thread) (n : KReg) (x : KVal) : (th.putRawK n x).sched = th.sched :=
  (apply_ite Thread.sched (n = 0) _ _).trans (ite_self _)
@[simp] theorem Thread.putRawK_nextRot (th : Thread) (n : KReg) (x : KVal) : (th.putRawK n x).nextRot = th.nextRot :=
  (apply_ite Thread.nextRot (n = 0) _ _).trans (ite_self _)
@[simp] theorem Thread.putRawK_park (th : Thread) (n : KReg) (x : KVal) : (th.putRawK n x).park = th.park :=
  (apply_ite Thread.park (n = 0) _ _).trans (ite_self _)
@[simp] theorem Thread.putRawK_retry (th : Thread) (n : KReg) (x : KVal) : (th.putRawK n x).retry = th.retry :=
  (apply_ite Thread.retry (n = 0) _ _).trans (ite_self _)
@[simp] theorem Thread.putRawK_chain (th : Thread) (n : KReg) (x : KVal) : (th.putRawK n x).chain = th.chain :=
  (apply_ite Thread.chain (n = 0) _ _).trans (ite_self _)
@[simp] theorem Thread.putRawK_pendSet (th : Thread) (n : KReg) (x : KVal) : (th.putRawK n x).pendSet = th.pendSet :=
  (apply_ite Thread.pendSet (n = 0) _ _).trans (ite_self _)
@[simp] theorem Thread.putRawK_preempt (th : Thread) (n : KReg) (x : KVal) : (th.putRawK n x).preempt = th.preempt :=
  (apply_ite Thread.preempt (n = 0) _ _).trans (ite_self _)
@[simp] theorem Thread.putRawK_handling (th : Thread) (n : KReg) (x : KVal) : (th.putRawK n x).handling = th.handling :=
  (apply_ite Thread.handling (n = 0) _ _).trans (ite_self _)
@[simp] theorem Thread.putRawK_hostDirty (th : Thread) (n : KReg) (x : KVal) : (th.putRawK n x).hostDirty = th.hostDirty :=
  (apply_ite Thread.hostDirty (n = 0) _ _).trans (ite_self _)

@[simp] theorem Thread.putRawT_gen (th : Thread) (n : TReg) (x : TVal) : (th.putRawT n x).gen = th.gen := rfl
@[simp] theorem Thread.putRawT_kind (th : Thread) (n : TReg) (x : TVal) : (th.putRawT n x).kind = th.kind := rfl
@[simp] theorem Thread.putRawT_part (th : Thread) (n : TReg) (x : TVal) : (th.putRawT n x).part = th.part := rfl
@[simp] theorem Thread.putRawT_pc (th : Thread) (n : TReg) (x : TVal) : (th.putRawT n x).pc = th.pc := rfl
@[simp] theorem Thread.putRawT_s (th : Thread) (n : TReg) (x : TVal) : (th.putRawT n x).s = th.s := rfl
@[simp] theorem Thread.putRawT_p (th : Thread) (n : TReg) (x : TVal) : (th.putRawT n x).p = th.p := rfl
@[simp] theorem Thread.putRawT_v (th : Thread) (n : TReg) (x : TVal) : (th.putRawT n x).v = th.v := rfl
@[simp] theorem Thread.putRawT_k (th : Thread) (n : TReg) (x : TVal) : (th.putRawT n x).k = th.k := rfl
@[simp] theorem Thread.putRawT_ts (th : Thread) (n : TReg) (x : TVal) : (th.putRawT n x).ts = th.ts := rfl
@[simp] theorem Thread.putRawT_ctxl (th : Thread) (n : TReg) (x : TVal) : (th.putRawT n x).ctxl = th.ctxl := rfl
@[simp] theorem Thread.putRawT_world (th : Thread) (n : TReg) (x : TVal) : (th.putRawT n x).world = th.world := rfl
@[simp] theorem Thread.putRawT_te (th : Thread) (n : TReg) (x : TVal) : (th.putRawT n x).te = th.te := rfl
@[simp] theorem Thread.putRawT_sbc (th : Thread) (n : TReg) (x : TVal) : (th.putRawT n x).sbc = th.sbc := rfl
@[simp] theorem Thread.putRawT_fpc (th : Thread) (n : TReg) (x : TVal) : (th.putRawT n x).fpc = th.fpc := rfl
@[simp] theorem Thread.putRawT_tepc (th : Thread) (n : TReg) (x : TVal) : (th.putRawT n x).tepc = th.tepc := rfl
@[simp] theorem Thread.putRawT_tcause (th : Thread) (n : TReg) (x : TVal) : (th.putRawT n x).tcause = th.tcause := rfl
@[simp] theorem Thread.putRawT_tinfo0 (th : Thread) (n : TReg) (x : TVal) : (th.putRawT n x).tinfo0 = th.tinfo0 := rfl
@[simp] theorem Thread.putRawT_tinfo1 (th : Thread) (n : TReg) (x : TVal) : (th.putRawT n x).tinfo1 = th.tinfo1 := rfl
@[simp] theorem Thread.putRawT_tsave (th : Thread) (n : TReg) (x : TVal) : (th.putRawT n x).tsave = th.tsave := rfl
@[simp] theorem Thread.putRawT_tsig (th : Thread) (n : TReg) (x : TVal) : (th.putRawT n x).tsig = th.tsig := rfl
@[simp] theorem Thread.putRawT_flint (th : Thread) (n : TReg) (x : TVal) : (th.putRawT n x).flint = th.flint := rfl
@[simp] theorem Thread.putRawT_lastBad (th : Thread) (n : TReg) (x : TVal) : (th.putRawT n x).lastBad = th.lastBad := rfl
@[simp] theorem Thread.putRawT_xfer (th : Thread) (n : TReg) (x : TVal) : (th.putRawT n x).xfer = th.xfer := rfl
@[simp] theorem Thread.putRawT_abown (th : Thread) (n : TReg) (x : TVal) : (th.putRawT n x).abown = th.abown := rfl
@[simp] theorem Thread.putRawT_barPend (th : Thread) (n : TReg) (x : TVal) : (th.putRawT n x).barPend = th.barPend := rfl
@[simp] theorem Thread.putRawT_accWin (th : Thread) (n : TReg) (x : TVal) : (th.putRawT n x).accWin = th.accWin := rfl
@[simp] theorem Thread.putRawT_depSel (th : Thread) (n : TReg) (x : TVal) : (th.putRawT n x).depSel = th.depSel := rfl
@[simp] theorem Thread.putRawT_grpId (th : Thread) (n : TReg) (x : TVal) : (th.putRawT n x).grpId = th.grpId := rfl
@[simp] theorem Thread.putRawT_grpN (th : Thread) (n : TReg) (x : TVal) : (th.putRawT n x).grpN = th.grpN := rfl
@[simp] theorem Thread.putRawT_strId (th : Thread) (n : TReg) (x : TVal) : (th.putRawT n x).strId = th.strId := rfl
@[simp] theorem Thread.putRawT_strN (th : Thread) (n : TReg) (x : TVal) : (th.putRawT n x).strN = th.strN := rfl
@[simp] theorem Thread.putRawT_arg (th : Thread) (n : TReg) (x : TVal) : (th.putRawT n x).arg = th.arg := rfl
@[simp] theorem Thread.putRawT_slotsM (th : Thread) (n : TReg) (x : TVal) : (th.putRawT n x).slotsM = th.slotsM := rfl
@[simp] theorem Thread.putRawT_launch (th : Thread) (n : TReg) (x : TVal) : (th.putRawT n x).launch = th.launch := rfl
@[simp] theorem Thread.putRawT_timed (th : Thread) (n : TReg) (x : TVal) : (th.putRawT n x).timed = th.timed := rfl
@[simp] theorem Thread.putRawT_pend (th : Thread) (n : TReg) (x : TVal) : (th.putRawT n x).pend = th.pend := rfl
@[simp] theorem Thread.putRawT_sched (th : Thread) (n : TReg) (x : TVal) : (th.putRawT n x).sched = th.sched := rfl
@[simp] theorem Thread.putRawT_nextRot (th : Thread) (n : TReg) (x : TVal) : (th.putRawT n x).nextRot = th.nextRot := rfl
@[simp] theorem Thread.putRawT_park (th : Thread) (n : TReg) (x : TVal) : (th.putRawT n x).park = th.park := rfl
@[simp] theorem Thread.putRawT_again (th : Thread) (n : TReg) (x : TVal) : (th.putRawT n x).again = th.again := rfl
@[simp] theorem Thread.putRawT_retry (th : Thread) (n : TReg) (x : TVal) : (th.putRawT n x).retry = th.retry := rfl
@[simp] theorem Thread.putRawT_chain (th : Thread) (n : TReg) (x : TVal) : (th.putRawT n x).chain = th.chain := rfl
@[simp] theorem Thread.putRawT_pendSet (th : Thread) (n : TReg) (x : TVal) : (th.putRawT n x).pendSet = th.pendSet := rfl
@[simp] theorem Thread.putRawT_preempt (th : Thread) (n : TReg) (x : TVal) : (th.putRawT n x).preempt = th.preempt := rfl
@[simp] theorem Thread.putRawT_handling (th : Thread) (n : TReg) (x : TVal) : (th.putRawT n x).handling = th.handling := rfl
@[simp] theorem Thread.putRawT_hostDirty (th : Thread) (n : TReg) (x : TVal) : (th.putRawT n x).hostDirty = th.hostDirty := rfl

@[simp] theorem Thread.putTS_gen (th : Thread) (n : TReg) (x : BitVec 32) : (th.putTS n x).gen = th.gen := rfl
@[simp] theorem Thread.putTS_kind (th : Thread) (n : TReg) (x : BitVec 32) : (th.putTS n x).kind = th.kind := rfl
@[simp] theorem Thread.putTS_part (th : Thread) (n : TReg) (x : BitVec 32) : (th.putTS n x).part = th.part := rfl
@[simp] theorem Thread.putTS_pc (th : Thread) (n : TReg) (x : BitVec 32) : (th.putTS n x).pc = th.pc := rfl
@[simp] theorem Thread.putTS_s (th : Thread) (n : TReg) (x : BitVec 32) : (th.putTS n x).s = th.s := rfl
@[simp] theorem Thread.putTS_p (th : Thread) (n : TReg) (x : BitVec 32) : (th.putTS n x).p = th.p := rfl
@[simp] theorem Thread.putTS_v (th : Thread) (n : TReg) (x : BitVec 32) : (th.putTS n x).v = th.v := rfl
@[simp] theorem Thread.putTS_k (th : Thread) (n : TReg) (x : BitVec 32) : (th.putTS n x).k = th.k := rfl
@[simp] theorem Thread.putTS_t (th : Thread) (n : TReg) (x : BitVec 32) : (th.putTS n x).t = th.t := rfl
@[simp] theorem Thread.putTS_ctxl (th : Thread) (n : TReg) (x : BitVec 32) : (th.putTS n x).ctxl = th.ctxl := rfl
@[simp] theorem Thread.putTS_world (th : Thread) (n : TReg) (x : BitVec 32) : (th.putTS n x).world = th.world := rfl
@[simp] theorem Thread.putTS_te (th : Thread) (n : TReg) (x : BitVec 32) : (th.putTS n x).te = th.te := rfl
@[simp] theorem Thread.putTS_sbc (th : Thread) (n : TReg) (x : BitVec 32) : (th.putTS n x).sbc = th.sbc := rfl
@[simp] theorem Thread.putTS_fpc (th : Thread) (n : TReg) (x : BitVec 32) : (th.putTS n x).fpc = th.fpc := rfl
@[simp] theorem Thread.putTS_tepc (th : Thread) (n : TReg) (x : BitVec 32) : (th.putTS n x).tepc = th.tepc := rfl
@[simp] theorem Thread.putTS_tcause (th : Thread) (n : TReg) (x : BitVec 32) : (th.putTS n x).tcause = th.tcause := rfl
@[simp] theorem Thread.putTS_tinfo0 (th : Thread) (n : TReg) (x : BitVec 32) : (th.putTS n x).tinfo0 = th.tinfo0 := rfl
@[simp] theorem Thread.putTS_tinfo1 (th : Thread) (n : TReg) (x : BitVec 32) : (th.putTS n x).tinfo1 = th.tinfo1 := rfl
@[simp] theorem Thread.putTS_tsave (th : Thread) (n : TReg) (x : BitVec 32) : (th.putTS n x).tsave = th.tsave := rfl
@[simp] theorem Thread.putTS_tsig (th : Thread) (n : TReg) (x : BitVec 32) : (th.putTS n x).tsig = th.tsig := rfl
@[simp] theorem Thread.putTS_flint (th : Thread) (n : TReg) (x : BitVec 32) : (th.putTS n x).flint = th.flint := rfl
@[simp] theorem Thread.putTS_lastBad (th : Thread) (n : TReg) (x : BitVec 32) : (th.putTS n x).lastBad = th.lastBad := rfl
@[simp] theorem Thread.putTS_xfer (th : Thread) (n : TReg) (x : BitVec 32) : (th.putTS n x).xfer = th.xfer := rfl
@[simp] theorem Thread.putTS_abown (th : Thread) (n : TReg) (x : BitVec 32) : (th.putTS n x).abown = th.abown := rfl
@[simp] theorem Thread.putTS_barPend (th : Thread) (n : TReg) (x : BitVec 32) : (th.putTS n x).barPend = th.barPend := rfl
@[simp] theorem Thread.putTS_accWin (th : Thread) (n : TReg) (x : BitVec 32) : (th.putTS n x).accWin = th.accWin := rfl
@[simp] theorem Thread.putTS_depSel (th : Thread) (n : TReg) (x : BitVec 32) : (th.putTS n x).depSel = th.depSel := rfl
@[simp] theorem Thread.putTS_grpId (th : Thread) (n : TReg) (x : BitVec 32) : (th.putTS n x).grpId = th.grpId := rfl
@[simp] theorem Thread.putTS_grpN (th : Thread) (n : TReg) (x : BitVec 32) : (th.putTS n x).grpN = th.grpN := rfl
@[simp] theorem Thread.putTS_strId (th : Thread) (n : TReg) (x : BitVec 32) : (th.putTS n x).strId = th.strId := rfl
@[simp] theorem Thread.putTS_strN (th : Thread) (n : TReg) (x : BitVec 32) : (th.putTS n x).strN = th.strN := rfl
@[simp] theorem Thread.putTS_arg (th : Thread) (n : TReg) (x : BitVec 32) : (th.putTS n x).arg = th.arg := rfl
@[simp] theorem Thread.putTS_slotsM (th : Thread) (n : TReg) (x : BitVec 32) : (th.putTS n x).slotsM = th.slotsM := rfl
@[simp] theorem Thread.putTS_launch (th : Thread) (n : TReg) (x : BitVec 32) : (th.putTS n x).launch = th.launch := rfl
@[simp] theorem Thread.putTS_timed (th : Thread) (n : TReg) (x : BitVec 32) : (th.putTS n x).timed = th.timed := rfl
@[simp] theorem Thread.putTS_pend (th : Thread) (n : TReg) (x : BitVec 32) : (th.putTS n x).pend = th.pend := rfl
@[simp] theorem Thread.putTS_sched (th : Thread) (n : TReg) (x : BitVec 32) : (th.putTS n x).sched = th.sched := rfl
@[simp] theorem Thread.putTS_nextRot (th : Thread) (n : TReg) (x : BitVec 32) : (th.putTS n x).nextRot = th.nextRot := rfl
@[simp] theorem Thread.putTS_park (th : Thread) (n : TReg) (x : BitVec 32) : (th.putTS n x).park = th.park := rfl
@[simp] theorem Thread.putTS_again (th : Thread) (n : TReg) (x : BitVec 32) : (th.putTS n x).again = th.again := rfl
@[simp] theorem Thread.putTS_retry (th : Thread) (n : TReg) (x : BitVec 32) : (th.putTS n x).retry = th.retry := rfl
@[simp] theorem Thread.putTS_chain (th : Thread) (n : TReg) (x : BitVec 32) : (th.putTS n x).chain = th.chain := rfl
@[simp] theorem Thread.putTS_pendSet (th : Thread) (n : TReg) (x : BitVec 32) : (th.putTS n x).pendSet = th.pendSet := rfl
@[simp] theorem Thread.putTS_preempt (th : Thread) (n : TReg) (x : BitVec 32) : (th.putTS n x).preempt = th.preempt := rfl
@[simp] theorem Thread.putTS_handling (th : Thread) (n : TReg) (x : BitVec 32) : (th.putTS n x).handling = th.handling := rfl
@[simp] theorem Thread.putTS_hostDirty (th : Thread) (n : TReg) (x : BitVec 32) : (th.putTS n x).hostDirty = th.hostDirty := rfl

@[simp] theorem Thread.putS_gen (th : Thread) (r : SReg) (x : Word) (l : Label) : (th.putS r x l).gen = th.gen :=
  Thread.putRawS_gen _ _ _
@[simp] theorem Thread.putS_kind (th : Thread) (r : SReg) (x : Word) (l : Label) : (th.putS r x l).kind = th.kind :=
  Thread.putRawS_kind _ _ _
@[simp] theorem Thread.putS_part (th : Thread) (r : SReg) (x : Word) (l : Label) : (th.putS r x l).part = th.part :=
  Thread.putRawS_part _ _ _
@[simp] theorem Thread.putS_pc (th : Thread) (r : SReg) (x : Word) (l : Label) : (th.putS r x l).pc = th.pc :=
  Thread.putRawS_pc _ _ _
@[simp] theorem Thread.putS_p (th : Thread) (r : SReg) (x : Word) (l : Label) : (th.putS r x l).p = th.p :=
  Thread.putRawS_p _ _ _
@[simp] theorem Thread.putS_v (th : Thread) (r : SReg) (x : Word) (l : Label) : (th.putS r x l).v = th.v :=
  Thread.putRawS_v _ _ _
@[simp] theorem Thread.putS_k (th : Thread) (r : SReg) (x : Word) (l : Label) : (th.putS r x l).k = th.k :=
  Thread.putRawS_k _ _ _
@[simp] theorem Thread.putS_t (th : Thread) (r : SReg) (x : Word) (l : Label) : (th.putS r x l).t = th.t :=
  Thread.putRawS_t _ _ _
@[simp] theorem Thread.putS_ts (th : Thread) (r : SReg) (x : Word) (l : Label) : (th.putS r x l).ts = th.ts :=
  Thread.putRawS_ts _ _ _
@[simp] theorem Thread.putS_ctxl (th : Thread) (r : SReg) (x : Word) (l : Label) : (th.putS r x l).ctxl = th.ctxl :=
  Thread.putRawS_ctxl _ _ _
@[simp] theorem Thread.putS_world (th : Thread) (r : SReg) (x : Word) (l : Label) : (th.putS r x l).world = th.world :=
  Thread.putRawS_world _ _ _
@[simp] theorem Thread.putS_te (th : Thread) (r : SReg) (x : Word) (l : Label) : (th.putS r x l).te = th.te :=
  Thread.putRawS_te _ _ _
@[simp] theorem Thread.putS_sbc (th : Thread) (r : SReg) (x : Word) (l : Label) : (th.putS r x l).sbc = th.sbc :=
  Thread.putRawS_sbc _ _ _
@[simp] theorem Thread.putS_fpc (th : Thread) (r : SReg) (x : Word) (l : Label) : (th.putS r x l).fpc = th.fpc :=
  Thread.putRawS_fpc _ _ _
@[simp] theorem Thread.putS_tepc (th : Thread) (r : SReg) (x : Word) (l : Label) : (th.putS r x l).tepc = th.tepc :=
  Thread.putRawS_tepc _ _ _
@[simp] theorem Thread.putS_tcause (th : Thread) (r : SReg) (x : Word) (l : Label) : (th.putS r x l).tcause = th.tcause :=
  Thread.putRawS_tcause _ _ _
@[simp] theorem Thread.putS_tinfo0 (th : Thread) (r : SReg) (x : Word) (l : Label) : (th.putS r x l).tinfo0 = th.tinfo0 :=
  Thread.putRawS_tinfo0 _ _ _
@[simp] theorem Thread.putS_tinfo1 (th : Thread) (r : SReg) (x : Word) (l : Label) : (th.putS r x l).tinfo1 = th.tinfo1 :=
  Thread.putRawS_tinfo1 _ _ _
@[simp] theorem Thread.putS_tsave (th : Thread) (r : SReg) (x : Word) (l : Label) : (th.putS r x l).tsave = th.tsave :=
  Thread.putRawS_tsave _ _ _
@[simp] theorem Thread.putS_tsig (th : Thread) (r : SReg) (x : Word) (l : Label) : (th.putS r x l).tsig = th.tsig :=
  Thread.putRawS_tsig _ _ _
@[simp] theorem Thread.putS_flint (th : Thread) (r : SReg) (x : Word) (l : Label) : (th.putS r x l).flint = th.flint :=
  Thread.putRawS_flint _ _ _
@[simp] theorem Thread.putS_lastBad (th : Thread) (r : SReg) (x : Word) (l : Label) : (th.putS r x l).lastBad = th.lastBad :=
  Thread.putRawS_lastBad _ _ _
@[simp] theorem Thread.putS_xfer (th : Thread) (r : SReg) (x : Word) (l : Label) : (th.putS r x l).xfer = th.xfer :=
  Thread.putRawS_xfer _ _ _
@[simp] theorem Thread.putS_abown (th : Thread) (r : SReg) (x : Word) (l : Label) : (th.putS r x l).abown = th.abown :=
  Thread.putRawS_abown _ _ _
@[simp] theorem Thread.putS_barPend (th : Thread) (r : SReg) (x : Word) (l : Label) : (th.putS r x l).barPend = th.barPend :=
  Thread.putRawS_barPend _ _ _
@[simp] theorem Thread.putS_accWin (th : Thread) (r : SReg) (x : Word) (l : Label) : (th.putS r x l).accWin = th.accWin :=
  Thread.putRawS_accWin _ _ _
@[simp] theorem Thread.putS_depSel (th : Thread) (r : SReg) (x : Word) (l : Label) : (th.putS r x l).depSel = th.depSel :=
  Thread.putRawS_depSel _ _ _
@[simp] theorem Thread.putS_grpId (th : Thread) (r : SReg) (x : Word) (l : Label) : (th.putS r x l).grpId = th.grpId :=
  Thread.putRawS_grpId _ _ _
@[simp] theorem Thread.putS_grpN (th : Thread) (r : SReg) (x : Word) (l : Label) : (th.putS r x l).grpN = th.grpN :=
  Thread.putRawS_grpN _ _ _
@[simp] theorem Thread.putS_strId (th : Thread) (r : SReg) (x : Word) (l : Label) : (th.putS r x l).strId = th.strId :=
  Thread.putRawS_strId _ _ _
@[simp] theorem Thread.putS_strN (th : Thread) (r : SReg) (x : Word) (l : Label) : (th.putS r x l).strN = th.strN :=
  Thread.putRawS_strN _ _ _
@[simp] theorem Thread.putS_arg (th : Thread) (r : SReg) (x : Word) (l : Label) : (th.putS r x l).arg = th.arg :=
  Thread.putRawS_arg _ _ _
@[simp] theorem Thread.putS_slotsM (th : Thread) (r : SReg) (x : Word) (l : Label) : (th.putS r x l).slotsM = th.slotsM :=
  Thread.putRawS_slotsM _ _ _
@[simp] theorem Thread.putS_launch (th : Thread) (r : SReg) (x : Word) (l : Label) : (th.putS r x l).launch = th.launch :=
  Thread.putRawS_launch _ _ _
@[simp] theorem Thread.putS_timed (th : Thread) (r : SReg) (x : Word) (l : Label) : (th.putS r x l).timed = th.timed :=
  Thread.putRawS_timed _ _ _
@[simp] theorem Thread.putS_nextRot (th : Thread) (r : SReg) (x : Word) (l : Label) : (th.putS r x l).nextRot = th.nextRot :=
  Thread.putRawS_nextRot _ _ _
@[simp] theorem Thread.putS_park (th : Thread) (r : SReg) (x : Word) (l : Label) : (th.putS r x l).park = th.park :=
  Thread.putRawS_park _ _ _
@[simp] theorem Thread.putS_again (th : Thread) (r : SReg) (x : Word) (l : Label) : (th.putS r x l).again = th.again :=
  Thread.putRawS_again _ _ _
@[simp] theorem Thread.putS_retry (th : Thread) (r : SReg) (x : Word) (l : Label) : (th.putS r x l).retry = th.retry :=
  Thread.putRawS_retry _ _ _
@[simp] theorem Thread.putS_chain (th : Thread) (r : SReg) (x : Word) (l : Label) : (th.putS r x l).chain = th.chain :=
  Thread.putRawS_chain _ _ _
@[simp] theorem Thread.putS_pendSet (th : Thread) (r : SReg) (x : Word) (l : Label) : (th.putS r x l).pendSet = th.pendSet :=
  Thread.putRawS_pendSet _ _ _
@[simp] theorem Thread.putS_preempt (th : Thread) (r : SReg) (x : Word) (l : Label) : (th.putS r x l).preempt = th.preempt :=
  Thread.putRawS_preempt _ _ _
@[simp] theorem Thread.putS_handling (th : Thread) (r : SReg) (x : Word) (l : Label) : (th.putS r x l).handling = th.handling :=
  Thread.putRawS_handling _ _ _
@[simp] theorem Thread.putS_hostDirty (th : Thread) (r : SReg) (x : Word) (l : Label) : (th.putS r x l).hostDirty = th.hostDirty :=
  Thread.putRawS_hostDirty _ _ _

@[simp] theorem Thread.putP_gen (th : Thread) (n : PReg) (x : Bool) (l : Label) : (th.putP n x l).gen = th.gen :=
  Thread.putRawP_gen _ _ _
@[simp] theorem Thread.putP_kind (th : Thread) (n : PReg) (x : Bool) (l : Label) : (th.putP n x l).kind = th.kind :=
  Thread.putRawP_kind _ _ _
@[simp] theorem Thread.putP_part (th : Thread) (n : PReg) (x : Bool) (l : Label) : (th.putP n x l).part = th.part :=
  Thread.putRawP_part _ _ _
@[simp] theorem Thread.putP_pc (th : Thread) (n : PReg) (x : Bool) (l : Label) : (th.putP n x l).pc = th.pc :=
  Thread.putRawP_pc _ _ _
@[simp] theorem Thread.putP_s (th : Thread) (n : PReg) (x : Bool) (l : Label) : (th.putP n x l).s = th.s :=
  Thread.putRawP_s _ _ _
@[simp] theorem Thread.putP_v (th : Thread) (n : PReg) (x : Bool) (l : Label) : (th.putP n x l).v = th.v :=
  Thread.putRawP_v _ _ _
@[simp] theorem Thread.putP_k (th : Thread) (n : PReg) (x : Bool) (l : Label) : (th.putP n x l).k = th.k :=
  Thread.putRawP_k _ _ _
@[simp] theorem Thread.putP_t (th : Thread) (n : PReg) (x : Bool) (l : Label) : (th.putP n x l).t = th.t :=
  Thread.putRawP_t _ _ _
@[simp] theorem Thread.putP_ts (th : Thread) (n : PReg) (x : Bool) (l : Label) : (th.putP n x l).ts = th.ts :=
  Thread.putRawP_ts _ _ _
@[simp] theorem Thread.putP_ctxl (th : Thread) (n : PReg) (x : Bool) (l : Label) : (th.putP n x l).ctxl = th.ctxl :=
  Thread.putRawP_ctxl _ _ _
@[simp] theorem Thread.putP_world (th : Thread) (n : PReg) (x : Bool) (l : Label) : (th.putP n x l).world = th.world :=
  Thread.putRawP_world _ _ _
@[simp] theorem Thread.putP_te (th : Thread) (n : PReg) (x : Bool) (l : Label) : (th.putP n x l).te = th.te :=
  Thread.putRawP_te _ _ _
@[simp] theorem Thread.putP_sbc (th : Thread) (n : PReg) (x : Bool) (l : Label) : (th.putP n x l).sbc = th.sbc :=
  Thread.putRawP_sbc _ _ _
@[simp] theorem Thread.putP_fpc (th : Thread) (n : PReg) (x : Bool) (l : Label) : (th.putP n x l).fpc = th.fpc :=
  Thread.putRawP_fpc _ _ _
@[simp] theorem Thread.putP_tepc (th : Thread) (n : PReg) (x : Bool) (l : Label) : (th.putP n x l).tepc = th.tepc :=
  Thread.putRawP_tepc _ _ _
@[simp] theorem Thread.putP_tcause (th : Thread) (n : PReg) (x : Bool) (l : Label) : (th.putP n x l).tcause = th.tcause :=
  Thread.putRawP_tcause _ _ _
@[simp] theorem Thread.putP_tinfo0 (th : Thread) (n : PReg) (x : Bool) (l : Label) : (th.putP n x l).tinfo0 = th.tinfo0 :=
  Thread.putRawP_tinfo0 _ _ _
@[simp] theorem Thread.putP_tinfo1 (th : Thread) (n : PReg) (x : Bool) (l : Label) : (th.putP n x l).tinfo1 = th.tinfo1 :=
  Thread.putRawP_tinfo1 _ _ _
@[simp] theorem Thread.putP_tsave (th : Thread) (n : PReg) (x : Bool) (l : Label) : (th.putP n x l).tsave = th.tsave :=
  Thread.putRawP_tsave _ _ _
@[simp] theorem Thread.putP_tsig (th : Thread) (n : PReg) (x : Bool) (l : Label) : (th.putP n x l).tsig = th.tsig :=
  Thread.putRawP_tsig _ _ _
@[simp] theorem Thread.putP_flint (th : Thread) (n : PReg) (x : Bool) (l : Label) : (th.putP n x l).flint = th.flint :=
  Thread.putRawP_flint _ _ _
@[simp] theorem Thread.putP_lastBad (th : Thread) (n : PReg) (x : Bool) (l : Label) : (th.putP n x l).lastBad = th.lastBad :=
  Thread.putRawP_lastBad _ _ _
@[simp] theorem Thread.putP_xfer (th : Thread) (n : PReg) (x : Bool) (l : Label) : (th.putP n x l).xfer = th.xfer :=
  Thread.putRawP_xfer _ _ _
@[simp] theorem Thread.putP_abown (th : Thread) (n : PReg) (x : Bool) (l : Label) : (th.putP n x l).abown = th.abown :=
  Thread.putRawP_abown _ _ _
@[simp] theorem Thread.putP_barPend (th : Thread) (n : PReg) (x : Bool) (l : Label) : (th.putP n x l).barPend = th.barPend :=
  Thread.putRawP_barPend _ _ _
@[simp] theorem Thread.putP_accWin (th : Thread) (n : PReg) (x : Bool) (l : Label) : (th.putP n x l).accWin = th.accWin :=
  Thread.putRawP_accWin _ _ _
@[simp] theorem Thread.putP_depSel (th : Thread) (n : PReg) (x : Bool) (l : Label) : (th.putP n x l).depSel = th.depSel :=
  Thread.putRawP_depSel _ _ _
@[simp] theorem Thread.putP_grpId (th : Thread) (n : PReg) (x : Bool) (l : Label) : (th.putP n x l).grpId = th.grpId :=
  Thread.putRawP_grpId _ _ _
@[simp] theorem Thread.putP_grpN (th : Thread) (n : PReg) (x : Bool) (l : Label) : (th.putP n x l).grpN = th.grpN :=
  Thread.putRawP_grpN _ _ _
@[simp] theorem Thread.putP_strId (th : Thread) (n : PReg) (x : Bool) (l : Label) : (th.putP n x l).strId = th.strId :=
  Thread.putRawP_strId _ _ _
@[simp] theorem Thread.putP_strN (th : Thread) (n : PReg) (x : Bool) (l : Label) : (th.putP n x l).strN = th.strN :=
  Thread.putRawP_strN _ _ _
@[simp] theorem Thread.putP_arg (th : Thread) (n : PReg) (x : Bool) (l : Label) : (th.putP n x l).arg = th.arg :=
  Thread.putRawP_arg _ _ _
@[simp] theorem Thread.putP_slotsM (th : Thread) (n : PReg) (x : Bool) (l : Label) : (th.putP n x l).slotsM = th.slotsM :=
  Thread.putRawP_slotsM _ _ _
@[simp] theorem Thread.putP_launch (th : Thread) (n : PReg) (x : Bool) (l : Label) : (th.putP n x l).launch = th.launch :=
  Thread.putRawP_launch _ _ _
@[simp] theorem Thread.putP_timed (th : Thread) (n : PReg) (x : Bool) (l : Label) : (th.putP n x l).timed = th.timed :=
  Thread.putRawP_timed _ _ _
@[simp] theorem Thread.putP_nextRot (th : Thread) (n : PReg) (x : Bool) (l : Label) : (th.putP n x l).nextRot = th.nextRot :=
  Thread.putRawP_nextRot _ _ _
@[simp] theorem Thread.putP_park (th : Thread) (n : PReg) (x : Bool) (l : Label) : (th.putP n x l).park = th.park :=
  Thread.putRawP_park _ _ _
@[simp] theorem Thread.putP_again (th : Thread) (n : PReg) (x : Bool) (l : Label) : (th.putP n x l).again = th.again :=
  Thread.putRawP_again _ _ _
@[simp] theorem Thread.putP_retry (th : Thread) (n : PReg) (x : Bool) (l : Label) : (th.putP n x l).retry = th.retry :=
  Thread.putRawP_retry _ _ _
@[simp] theorem Thread.putP_chain (th : Thread) (n : PReg) (x : Bool) (l : Label) : (th.putP n x l).chain = th.chain :=
  Thread.putRawP_chain _ _ _
@[simp] theorem Thread.putP_pendSet (th : Thread) (n : PReg) (x : Bool) (l : Label) : (th.putP n x l).pendSet = th.pendSet :=
  Thread.putRawP_pendSet _ _ _
@[simp] theorem Thread.putP_preempt (th : Thread) (n : PReg) (x : Bool) (l : Label) : (th.putP n x l).preempt = th.preempt :=
  Thread.putRawP_preempt _ _ _
@[simp] theorem Thread.putP_handling (th : Thread) (n : PReg) (x : Bool) (l : Label) : (th.putP n x l).handling = th.handling :=
  Thread.putRawP_handling _ _ _
@[simp] theorem Thread.putP_hostDirty (th : Thread) (n : PReg) (x : Bool) (l : Label) : (th.putP n x l).hostDirty = th.hostDirty :=
  Thread.putRawP_hostDirty _ _ _

@[simp] theorem Thread.putV_gen (th : Thread) (r : VReg) (x : VBits) (g : Tag) (l : Label) : (th.putV r x g l).gen = th.gen :=
  Thread.putRawV_gen _ _ _
@[simp] theorem Thread.putV_kind (th : Thread) (r : VReg) (x : VBits) (g : Tag) (l : Label) : (th.putV r x g l).kind = th.kind :=
  Thread.putRawV_kind _ _ _
@[simp] theorem Thread.putV_part (th : Thread) (r : VReg) (x : VBits) (g : Tag) (l : Label) : (th.putV r x g l).part = th.part :=
  Thread.putRawV_part _ _ _
@[simp] theorem Thread.putV_pc (th : Thread) (r : VReg) (x : VBits) (g : Tag) (l : Label) : (th.putV r x g l).pc = th.pc :=
  Thread.putRawV_pc _ _ _
@[simp] theorem Thread.putV_s (th : Thread) (r : VReg) (x : VBits) (g : Tag) (l : Label) : (th.putV r x g l).s = th.s :=
  Thread.putRawV_s _ _ _
@[simp] theorem Thread.putV_p (th : Thread) (r : VReg) (x : VBits) (g : Tag) (l : Label) : (th.putV r x g l).p = th.p :=
  Thread.putRawV_p _ _ _
@[simp] theorem Thread.putV_k (th : Thread) (r : VReg) (x : VBits) (g : Tag) (l : Label) : (th.putV r x g l).k = th.k :=
  Thread.putRawV_k _ _ _
@[simp] theorem Thread.putV_t (th : Thread) (r : VReg) (x : VBits) (g : Tag) (l : Label) : (th.putV r x g l).t = th.t :=
  Thread.putRawV_t _ _ _
@[simp] theorem Thread.putV_ts (th : Thread) (r : VReg) (x : VBits) (g : Tag) (l : Label) : (th.putV r x g l).ts = th.ts :=
  Thread.putRawV_ts _ _ _
@[simp] theorem Thread.putV_ctxl (th : Thread) (r : VReg) (x : VBits) (g : Tag) (l : Label) : (th.putV r x g l).ctxl = th.ctxl :=
  Thread.putRawV_ctxl _ _ _
@[simp] theorem Thread.putV_world (th : Thread) (r : VReg) (x : VBits) (g : Tag) (l : Label) : (th.putV r x g l).world = th.world :=
  Thread.putRawV_world _ _ _
@[simp] theorem Thread.putV_te (th : Thread) (r : VReg) (x : VBits) (g : Tag) (l : Label) : (th.putV r x g l).te = th.te :=
  Thread.putRawV_te _ _ _
@[simp] theorem Thread.putV_sbc (th : Thread) (r : VReg) (x : VBits) (g : Tag) (l : Label) : (th.putV r x g l).sbc = th.sbc :=
  Thread.putRawV_sbc _ _ _
@[simp] theorem Thread.putV_fpc (th : Thread) (r : VReg) (x : VBits) (g : Tag) (l : Label) : (th.putV r x g l).fpc = th.fpc :=
  Thread.putRawV_fpc _ _ _
@[simp] theorem Thread.putV_tepc (th : Thread) (r : VReg) (x : VBits) (g : Tag) (l : Label) : (th.putV r x g l).tepc = th.tepc :=
  Thread.putRawV_tepc _ _ _
@[simp] theorem Thread.putV_tcause (th : Thread) (r : VReg) (x : VBits) (g : Tag) (l : Label) : (th.putV r x g l).tcause = th.tcause :=
  Thread.putRawV_tcause _ _ _
@[simp] theorem Thread.putV_tinfo0 (th : Thread) (r : VReg) (x : VBits) (g : Tag) (l : Label) : (th.putV r x g l).tinfo0 = th.tinfo0 :=
  Thread.putRawV_tinfo0 _ _ _
@[simp] theorem Thread.putV_tinfo1 (th : Thread) (r : VReg) (x : VBits) (g : Tag) (l : Label) : (th.putV r x g l).tinfo1 = th.tinfo1 :=
  Thread.putRawV_tinfo1 _ _ _
@[simp] theorem Thread.putV_tsave (th : Thread) (r : VReg) (x : VBits) (g : Tag) (l : Label) : (th.putV r x g l).tsave = th.tsave :=
  Thread.putRawV_tsave _ _ _
@[simp] theorem Thread.putV_tsig (th : Thread) (r : VReg) (x : VBits) (g : Tag) (l : Label) : (th.putV r x g l).tsig = th.tsig :=
  Thread.putRawV_tsig _ _ _
@[simp] theorem Thread.putV_flint (th : Thread) (r : VReg) (x : VBits) (g : Tag) (l : Label) : (th.putV r x g l).flint = th.flint :=
  Thread.putRawV_flint _ _ _
@[simp] theorem Thread.putV_lastBad (th : Thread) (r : VReg) (x : VBits) (g : Tag) (l : Label) : (th.putV r x g l).lastBad = th.lastBad :=
  Thread.putRawV_lastBad _ _ _
@[simp] theorem Thread.putV_xfer (th : Thread) (r : VReg) (x : VBits) (g : Tag) (l : Label) : (th.putV r x g l).xfer = th.xfer :=
  Thread.putRawV_xfer _ _ _
@[simp] theorem Thread.putV_abown (th : Thread) (r : VReg) (x : VBits) (g : Tag) (l : Label) : (th.putV r x g l).abown = th.abown :=
  Thread.putRawV_abown _ _ _
@[simp] theorem Thread.putV_barPend (th : Thread) (r : VReg) (x : VBits) (g : Tag) (l : Label) : (th.putV r x g l).barPend = th.barPend :=
  Thread.putRawV_barPend _ _ _
@[simp] theorem Thread.putV_accWin (th : Thread) (r : VReg) (x : VBits) (g : Tag) (l : Label) : (th.putV r x g l).accWin = th.accWin :=
  Thread.putRawV_accWin _ _ _
@[simp] theorem Thread.putV_depSel (th : Thread) (r : VReg) (x : VBits) (g : Tag) (l : Label) : (th.putV r x g l).depSel = th.depSel :=
  Thread.putRawV_depSel _ _ _
@[simp] theorem Thread.putV_grpId (th : Thread) (r : VReg) (x : VBits) (g : Tag) (l : Label) : (th.putV r x g l).grpId = th.grpId :=
  Thread.putRawV_grpId _ _ _
@[simp] theorem Thread.putV_grpN (th : Thread) (r : VReg) (x : VBits) (g : Tag) (l : Label) : (th.putV r x g l).grpN = th.grpN :=
  Thread.putRawV_grpN _ _ _
@[simp] theorem Thread.putV_strId (th : Thread) (r : VReg) (x : VBits) (g : Tag) (l : Label) : (th.putV r x g l).strId = th.strId :=
  Thread.putRawV_strId _ _ _
@[simp] theorem Thread.putV_strN (th : Thread) (r : VReg) (x : VBits) (g : Tag) (l : Label) : (th.putV r x g l).strN = th.strN :=
  Thread.putRawV_strN _ _ _
@[simp] theorem Thread.putV_arg (th : Thread) (r : VReg) (x : VBits) (g : Tag) (l : Label) : (th.putV r x g l).arg = th.arg :=
  Thread.putRawV_arg _ _ _
@[simp] theorem Thread.putV_slotsM (th : Thread) (r : VReg) (x : VBits) (g : Tag) (l : Label) : (th.putV r x g l).slotsM = th.slotsM :=
  Thread.putRawV_slotsM _ _ _
@[simp] theorem Thread.putV_launch (th : Thread) (r : VReg) (x : VBits) (g : Tag) (l : Label) : (th.putV r x g l).launch = th.launch :=
  Thread.putRawV_launch _ _ _
@[simp] theorem Thread.putV_timed (th : Thread) (r : VReg) (x : VBits) (g : Tag) (l : Label) : (th.putV r x g l).timed = th.timed :=
  Thread.putRawV_timed _ _ _
@[simp] theorem Thread.putV_nextRot (th : Thread) (r : VReg) (x : VBits) (g : Tag) (l : Label) : (th.putV r x g l).nextRot = th.nextRot :=
  Thread.putRawV_nextRot _ _ _
@[simp] theorem Thread.putV_park (th : Thread) (r : VReg) (x : VBits) (g : Tag) (l : Label) : (th.putV r x g l).park = th.park :=
  Thread.putRawV_park _ _ _
@[simp] theorem Thread.putV_again (th : Thread) (r : VReg) (x : VBits) (g : Tag) (l : Label) : (th.putV r x g l).again = th.again :=
  Thread.putRawV_again _ _ _
@[simp] theorem Thread.putV_retry (th : Thread) (r : VReg) (x : VBits) (g : Tag) (l : Label) : (th.putV r x g l).retry = th.retry :=
  Thread.putRawV_retry _ _ _
@[simp] theorem Thread.putV_chain (th : Thread) (r : VReg) (x : VBits) (g : Tag) (l : Label) : (th.putV r x g l).chain = th.chain :=
  Thread.putRawV_chain _ _ _
@[simp] theorem Thread.putV_pendSet (th : Thread) (r : VReg) (x : VBits) (g : Tag) (l : Label) : (th.putV r x g l).pendSet = th.pendSet :=
  Thread.putRawV_pendSet _ _ _
@[simp] theorem Thread.putV_preempt (th : Thread) (r : VReg) (x : VBits) (g : Tag) (l : Label) : (th.putV r x g l).preempt = th.preempt :=
  Thread.putRawV_preempt _ _ _
@[simp] theorem Thread.putV_handling (th : Thread) (r : VReg) (x : VBits) (g : Tag) (l : Label) : (th.putV r x g l).handling = th.handling :=
  Thread.putRawV_handling _ _ _
@[simp] theorem Thread.putV_hostDirty (th : Thread) (r : VReg) (x : VBits) (g : Tag) (l : Label) : (th.putV r x g l).hostDirty = th.hostDirty :=
  Thread.putRawV_hostDirty _ _ _

@[simp] theorem Thread.putK_gen (th : Thread) (n : KReg) (x : BitVec 16) (l : Label) : (th.putK n x l).gen = th.gen :=
  Thread.putRawK_gen _ _ _
@[simp] theorem Thread.putK_kind (th : Thread) (n : KReg) (x : BitVec 16) (l : Label) : (th.putK n x l).kind = th.kind :=
  Thread.putRawK_kind _ _ _
@[simp] theorem Thread.putK_part (th : Thread) (n : KReg) (x : BitVec 16) (l : Label) : (th.putK n x l).part = th.part :=
  Thread.putRawK_part _ _ _
@[simp] theorem Thread.putK_pc (th : Thread) (n : KReg) (x : BitVec 16) (l : Label) : (th.putK n x l).pc = th.pc :=
  Thread.putRawK_pc _ _ _
@[simp] theorem Thread.putK_s (th : Thread) (n : KReg) (x : BitVec 16) (l : Label) : (th.putK n x l).s = th.s :=
  Thread.putRawK_s _ _ _
@[simp] theorem Thread.putK_p (th : Thread) (n : KReg) (x : BitVec 16) (l : Label) : (th.putK n x l).p = th.p :=
  Thread.putRawK_p _ _ _
@[simp] theorem Thread.putK_v (th : Thread) (n : KReg) (x : BitVec 16) (l : Label) : (th.putK n x l).v = th.v :=
  Thread.putRawK_v _ _ _
@[simp] theorem Thread.putK_t (th : Thread) (n : KReg) (x : BitVec 16) (l : Label) : (th.putK n x l).t = th.t :=
  Thread.putRawK_t _ _ _
@[simp] theorem Thread.putK_ts (th : Thread) (n : KReg) (x : BitVec 16) (l : Label) : (th.putK n x l).ts = th.ts :=
  Thread.putRawK_ts _ _ _
@[simp] theorem Thread.putK_ctxl (th : Thread) (n : KReg) (x : BitVec 16) (l : Label) : (th.putK n x l).ctxl = th.ctxl :=
  Thread.putRawK_ctxl _ _ _
@[simp] theorem Thread.putK_world (th : Thread) (n : KReg) (x : BitVec 16) (l : Label) : (th.putK n x l).world = th.world :=
  Thread.putRawK_world _ _ _
@[simp] theorem Thread.putK_te (th : Thread) (n : KReg) (x : BitVec 16) (l : Label) : (th.putK n x l).te = th.te :=
  Thread.putRawK_te _ _ _
@[simp] theorem Thread.putK_sbc (th : Thread) (n : KReg) (x : BitVec 16) (l : Label) : (th.putK n x l).sbc = th.sbc :=
  Thread.putRawK_sbc _ _ _
@[simp] theorem Thread.putK_fpc (th : Thread) (n : KReg) (x : BitVec 16) (l : Label) : (th.putK n x l).fpc = th.fpc :=
  Thread.putRawK_fpc _ _ _
@[simp] theorem Thread.putK_tepc (th : Thread) (n : KReg) (x : BitVec 16) (l : Label) : (th.putK n x l).tepc = th.tepc :=
  Thread.putRawK_tepc _ _ _
@[simp] theorem Thread.putK_tcause (th : Thread) (n : KReg) (x : BitVec 16) (l : Label) : (th.putK n x l).tcause = th.tcause :=
  Thread.putRawK_tcause _ _ _
@[simp] theorem Thread.putK_tinfo0 (th : Thread) (n : KReg) (x : BitVec 16) (l : Label) : (th.putK n x l).tinfo0 = th.tinfo0 :=
  Thread.putRawK_tinfo0 _ _ _
@[simp] theorem Thread.putK_tinfo1 (th : Thread) (n : KReg) (x : BitVec 16) (l : Label) : (th.putK n x l).tinfo1 = th.tinfo1 :=
  Thread.putRawK_tinfo1 _ _ _
@[simp] theorem Thread.putK_tsave (th : Thread) (n : KReg) (x : BitVec 16) (l : Label) : (th.putK n x l).tsave = th.tsave :=
  Thread.putRawK_tsave _ _ _
@[simp] theorem Thread.putK_tsig (th : Thread) (n : KReg) (x : BitVec 16) (l : Label) : (th.putK n x l).tsig = th.tsig :=
  Thread.putRawK_tsig _ _ _
@[simp] theorem Thread.putK_flint (th : Thread) (n : KReg) (x : BitVec 16) (l : Label) : (th.putK n x l).flint = th.flint :=
  Thread.putRawK_flint _ _ _
@[simp] theorem Thread.putK_lastBad (th : Thread) (n : KReg) (x : BitVec 16) (l : Label) : (th.putK n x l).lastBad = th.lastBad :=
  Thread.putRawK_lastBad _ _ _
@[simp] theorem Thread.putK_xfer (th : Thread) (n : KReg) (x : BitVec 16) (l : Label) : (th.putK n x l).xfer = th.xfer :=
  Thread.putRawK_xfer _ _ _
@[simp] theorem Thread.putK_abown (th : Thread) (n : KReg) (x : BitVec 16) (l : Label) : (th.putK n x l).abown = th.abown :=
  Thread.putRawK_abown _ _ _
@[simp] theorem Thread.putK_barPend (th : Thread) (n : KReg) (x : BitVec 16) (l : Label) : (th.putK n x l).barPend = th.barPend :=
  Thread.putRawK_barPend _ _ _
@[simp] theorem Thread.putK_accWin (th : Thread) (n : KReg) (x : BitVec 16) (l : Label) : (th.putK n x l).accWin = th.accWin :=
  Thread.putRawK_accWin _ _ _
@[simp] theorem Thread.putK_depSel (th : Thread) (n : KReg) (x : BitVec 16) (l : Label) : (th.putK n x l).depSel = th.depSel :=
  Thread.putRawK_depSel _ _ _
@[simp] theorem Thread.putK_grpId (th : Thread) (n : KReg) (x : BitVec 16) (l : Label) : (th.putK n x l).grpId = th.grpId :=
  Thread.putRawK_grpId _ _ _
@[simp] theorem Thread.putK_grpN (th : Thread) (n : KReg) (x : BitVec 16) (l : Label) : (th.putK n x l).grpN = th.grpN :=
  Thread.putRawK_grpN _ _ _
@[simp] theorem Thread.putK_strId (th : Thread) (n : KReg) (x : BitVec 16) (l : Label) : (th.putK n x l).strId = th.strId :=
  Thread.putRawK_strId _ _ _
@[simp] theorem Thread.putK_strN (th : Thread) (n : KReg) (x : BitVec 16) (l : Label) : (th.putK n x l).strN = th.strN :=
  Thread.putRawK_strN _ _ _
@[simp] theorem Thread.putK_arg (th : Thread) (n : KReg) (x : BitVec 16) (l : Label) : (th.putK n x l).arg = th.arg :=
  Thread.putRawK_arg _ _ _
@[simp] theorem Thread.putK_slotsM (th : Thread) (n : KReg) (x : BitVec 16) (l : Label) : (th.putK n x l).slotsM = th.slotsM :=
  Thread.putRawK_slotsM _ _ _
@[simp] theorem Thread.putK_launch (th : Thread) (n : KReg) (x : BitVec 16) (l : Label) : (th.putK n x l).launch = th.launch :=
  Thread.putRawK_launch _ _ _
@[simp] theorem Thread.putK_timed (th : Thread) (n : KReg) (x : BitVec 16) (l : Label) : (th.putK n x l).timed = th.timed :=
  Thread.putRawK_timed _ _ _
@[simp] theorem Thread.putK_nextRot (th : Thread) (n : KReg) (x : BitVec 16) (l : Label) : (th.putK n x l).nextRot = th.nextRot :=
  Thread.putRawK_nextRot _ _ _
@[simp] theorem Thread.putK_park (th : Thread) (n : KReg) (x : BitVec 16) (l : Label) : (th.putK n x l).park = th.park :=
  Thread.putRawK_park _ _ _
@[simp] theorem Thread.putK_again (th : Thread) (n : KReg) (x : BitVec 16) (l : Label) : (th.putK n x l).again = th.again :=
  Thread.putRawK_again _ _ _
@[simp] theorem Thread.putK_retry (th : Thread) (n : KReg) (x : BitVec 16) (l : Label) : (th.putK n x l).retry = th.retry :=
  Thread.putRawK_retry _ _ _
@[simp] theorem Thread.putK_chain (th : Thread) (n : KReg) (x : BitVec 16) (l : Label) : (th.putK n x l).chain = th.chain :=
  Thread.putRawK_chain _ _ _
@[simp] theorem Thread.putK_pendSet (th : Thread) (n : KReg) (x : BitVec 16) (l : Label) : (th.putK n x l).pendSet = th.pendSet :=
  Thread.putRawK_pendSet _ _ _
@[simp] theorem Thread.putK_preempt (th : Thread) (n : KReg) (x : BitVec 16) (l : Label) : (th.putK n x l).preempt = th.preempt :=
  Thread.putRawK_preempt _ _ _
@[simp] theorem Thread.putK_handling (th : Thread) (n : KReg) (x : BitVec 16) (l : Label) : (th.putK n x l).handling = th.handling :=
  Thread.putRawK_handling _ _ _
@[simp] theorem Thread.putK_hostDirty (th : Thread) (n : KReg) (x : BitVec 16) (l : Label) : (th.putK n x l).hostDirty = th.hostDirty :=
  Thread.putRawK_hostDirty _ _ _

@[simp] theorem Thread.retire_gen (th : Thread) (i : Instr) : (th.retire i).gen = th.gen :=
  ((apply_ite Thread.gen (th.drawsNow i = true) _ _).trans (congrArg (fun x => ite (th.drawsNow i = true) x th.gen)
    (Thread.srStep_gen th))).trans (ite_self _)
@[simp] theorem Thread.retire_kind (th : Thread) (i : Instr) : (th.retire i).kind = th.kind :=
  ((apply_ite Thread.kind (th.drawsNow i = true) _ _).trans (congrArg (fun x => ite (th.drawsNow i = true) x th.kind)
    (Thread.srStep_kind th))).trans (ite_self _)
@[simp] theorem Thread.retire_part (th : Thread) (i : Instr) : (th.retire i).part = th.part :=
  ((apply_ite Thread.part (th.drawsNow i = true) _ _).trans (congrArg (fun x => ite (th.drawsNow i = true) x th.part)
    (Thread.srStep_part th))).trans (ite_self _)
@[simp] theorem Thread.retire_s (th : Thread) (i : Instr) : (th.retire i).s = th.s :=
  ((apply_ite Thread.s (th.drawsNow i = true) _ _).trans (congrArg (fun x => ite (th.drawsNow i = true) x th.s)
    (Thread.srStep_s th))).trans (ite_self _)
@[simp] theorem Thread.retire_p (th : Thread) (i : Instr) : (th.retire i).p = th.p :=
  ((apply_ite Thread.p (th.drawsNow i = true) _ _).trans (congrArg (fun x => ite (th.drawsNow i = true) x th.p)
    (Thread.srStep_p th))).trans (ite_self _)
@[simp] theorem Thread.retire_v (th : Thread) (i : Instr) : (th.retire i).v = th.v :=
  ((apply_ite Thread.v (th.drawsNow i = true) _ _).trans (congrArg (fun x => ite (th.drawsNow i = true) x th.v)
    (Thread.srStep_v th))).trans (ite_self _)
@[simp] theorem Thread.retire_k (th : Thread) (i : Instr) : (th.retire i).k = th.k :=
  ((apply_ite Thread.k (th.drawsNow i = true) _ _).trans (congrArg (fun x => ite (th.drawsNow i = true) x th.k)
    (Thread.srStep_k th))).trans (ite_self _)
@[simp] theorem Thread.retire_t (th : Thread) (i : Instr) : (th.retire i).t = th.t :=
  ((apply_ite Thread.t (th.drawsNow i = true) _ _).trans (congrArg (fun x => ite (th.drawsNow i = true) x th.t)
    (Thread.srStep_t th))).trans (ite_self _)
@[simp] theorem Thread.retire_ts (th : Thread) (i : Instr) : (th.retire i).ts = th.ts :=
  ((apply_ite Thread.ts (th.drawsNow i = true) _ _).trans (congrArg (fun x => ite (th.drawsNow i = true) x th.ts)
    (Thread.srStep_ts th))).trans (ite_self _)
@[simp] theorem Thread.retire_ctxl (th : Thread) (i : Instr) : (th.retire i).ctxl = th.ctxl :=
  ((apply_ite Thread.ctxl (th.drawsNow i = true) _ _).trans (congrArg (fun x => ite (th.drawsNow i = true) x th.ctxl)
    (Thread.srStep_ctxl th))).trans (ite_self _)
@[simp] theorem Thread.retire_world (th : Thread) (i : Instr) : (th.retire i).world = th.world :=
  ((apply_ite Thread.world (th.drawsNow i = true) _ _).trans (congrArg (fun x => ite (th.drawsNow i = true) x th.world)
    (Thread.srStep_world th))).trans (ite_self _)
@[simp] theorem Thread.retire_te (th : Thread) (i : Instr) : (th.retire i).te = th.te :=
  ((apply_ite Thread.te (th.drawsNow i = true) _ _).trans (congrArg (fun x => ite (th.drawsNow i = true) x th.te)
    (Thread.srStep_te th))).trans (ite_self _)
@[simp] theorem Thread.retire_sbc (th : Thread) (i : Instr) : (th.retire i).sbc = th.sbc :=
  ((apply_ite Thread.sbc (th.drawsNow i = true) _ _).trans (congrArg (fun x => ite (th.drawsNow i = true) x th.sbc)
    (Thread.srStep_sbc th))).trans (ite_self _)
@[simp] theorem Thread.retire_tepc (th : Thread) (i : Instr) : (th.retire i).tepc = th.tepc :=
  ((apply_ite Thread.tepc (th.drawsNow i = true) _ _).trans (congrArg (fun x => ite (th.drawsNow i = true) x th.tepc)
    (Thread.srStep_tepc th))).trans (ite_self _)
@[simp] theorem Thread.retire_tcause (th : Thread) (i : Instr) : (th.retire i).tcause = th.tcause :=
  ((apply_ite Thread.tcause (th.drawsNow i = true) _ _).trans (congrArg (fun x => ite (th.drawsNow i = true) x th.tcause)
    (Thread.srStep_tcause th))).trans (ite_self _)
@[simp] theorem Thread.retire_tinfo0 (th : Thread) (i : Instr) : (th.retire i).tinfo0 = th.tinfo0 :=
  ((apply_ite Thread.tinfo0 (th.drawsNow i = true) _ _).trans (congrArg (fun x => ite (th.drawsNow i = true) x th.tinfo0)
    (Thread.srStep_tinfo0 th))).trans (ite_self _)
@[simp] theorem Thread.retire_tinfo1 (th : Thread) (i : Instr) : (th.retire i).tinfo1 = th.tinfo1 :=
  ((apply_ite Thread.tinfo1 (th.drawsNow i = true) _ _).trans (congrArg (fun x => ite (th.drawsNow i = true) x th.tinfo1)
    (Thread.srStep_tinfo1 th))).trans (ite_self _)
@[simp] theorem Thread.retire_tsave (th : Thread) (i : Instr) : (th.retire i).tsave = th.tsave :=
  ((apply_ite Thread.tsave (th.drawsNow i = true) _ _).trans (congrArg (fun x => ite (th.drawsNow i = true) x th.tsave)
    (Thread.srStep_tsave th))).trans (ite_self _)
@[simp] theorem Thread.retire_tsig (th : Thread) (i : Instr) : (th.retire i).tsig = th.tsig :=
  ((apply_ite Thread.tsig (th.drawsNow i = true) _ _).trans (congrArg (fun x => ite (th.drawsNow i = true) x th.tsig)
    (Thread.srStep_tsig th))).trans (ite_self _)
@[simp] theorem Thread.retire_lastBad (th : Thread) (i : Instr) : (th.retire i).lastBad = th.lastBad :=
  ((apply_ite Thread.lastBad (th.drawsNow i = true) _ _).trans (congrArg (fun x => ite (th.drawsNow i = true) x th.lastBad)
    (Thread.srStep_lastBad th))).trans (ite_self _)
@[simp] theorem Thread.retire_xfer (th : Thread) (i : Instr) : (th.retire i).xfer = th.xfer :=
  ((apply_ite Thread.xfer (th.drawsNow i = true) _ _).trans (congrArg (fun x => ite (th.drawsNow i = true) x th.xfer)
    (Thread.srStep_xfer th))).trans (ite_self _)
@[simp] theorem Thread.retire_abown (th : Thread) (i : Instr) : (th.retire i).abown = th.abown :=
  ((apply_ite Thread.abown (th.drawsNow i = true) _ _).trans (congrArg (fun x => ite (th.drawsNow i = true) x th.abown)
    (Thread.srStep_abown th))).trans (ite_self _)
@[simp] theorem Thread.retire_barPend (th : Thread) (i : Instr) : (th.retire i).barPend = th.barPend :=
  ((apply_ite Thread.barPend (th.drawsNow i = true) _ _).trans (congrArg (fun x => ite (th.drawsNow i = true) x th.barPend)
    (Thread.srStep_barPend th))).trans (ite_self _)
@[simp] theorem Thread.retire_accWin (th : Thread) (i : Instr) : (th.retire i).accWin = th.accWin :=
  ((apply_ite Thread.accWin (th.drawsNow i = true) _ _).trans (congrArg (fun x => ite (th.drawsNow i = true) x th.accWin)
    (Thread.srStep_accWin th))).trans (ite_self _)
@[simp] theorem Thread.retire_depSel (th : Thread) (i : Instr) : (th.retire i).depSel = th.depSel :=
  ((apply_ite Thread.depSel (th.drawsNow i = true) _ _).trans (congrArg (fun x => ite (th.drawsNow i = true) x th.depSel)
    (Thread.srStep_depSel th))).trans (ite_self _)
@[simp] theorem Thread.retire_grpId (th : Thread) (i : Instr) : (th.retire i).grpId = th.grpId :=
  ((apply_ite Thread.grpId (th.drawsNow i = true) _ _).trans (congrArg (fun x => ite (th.drawsNow i = true) x th.grpId)
    (Thread.srStep_grpId th))).trans (ite_self _)
@[simp] theorem Thread.retire_grpN (th : Thread) (i : Instr) : (th.retire i).grpN = th.grpN :=
  ((apply_ite Thread.grpN (th.drawsNow i = true) _ _).trans (congrArg (fun x => ite (th.drawsNow i = true) x th.grpN)
    (Thread.srStep_grpN th))).trans (ite_self _)
@[simp] theorem Thread.retire_strId (th : Thread) (i : Instr) : (th.retire i).strId = th.strId :=
  ((apply_ite Thread.strId (th.drawsNow i = true) _ _).trans (congrArg (fun x => ite (th.drawsNow i = true) x th.strId)
    (Thread.srStep_strId th))).trans (ite_self _)
@[simp] theorem Thread.retire_strN (th : Thread) (i : Instr) : (th.retire i).strN = th.strN :=
  ((apply_ite Thread.strN (th.drawsNow i = true) _ _).trans (congrArg (fun x => ite (th.drawsNow i = true) x th.strN)
    (Thread.srStep_strN th))).trans (ite_self _)
@[simp] theorem Thread.retire_arg (th : Thread) (i : Instr) : (th.retire i).arg = th.arg :=
  ((apply_ite Thread.arg (th.drawsNow i = true) _ _).trans (congrArg (fun x => ite (th.drawsNow i = true) x th.arg)
    (Thread.srStep_arg th))).trans (ite_self _)
@[simp] theorem Thread.retire_slotsM (th : Thread) (i : Instr) : (th.retire i).slotsM = th.slotsM :=
  ((apply_ite Thread.slotsM (th.drawsNow i = true) _ _).trans (congrArg (fun x => ite (th.drawsNow i = true) x th.slotsM)
    (Thread.srStep_slotsM th))).trans (ite_self _)
@[simp] theorem Thread.retire_launch (th : Thread) (i : Instr) : (th.retire i).launch = th.launch :=
  ((apply_ite Thread.launch (th.drawsNow i = true) _ _).trans (congrArg (fun x => ite (th.drawsNow i = true) x th.launch)
    (Thread.srStep_launch th))).trans (ite_self _)
@[simp] theorem Thread.retire_timed (th : Thread) (i : Instr) : (th.retire i).timed = th.timed :=
  ((apply_ite Thread.timed (th.drawsNow i = true) _ _).trans (congrArg (fun x => ite (th.drawsNow i = true) x th.timed)
    (Thread.srStep_timed th))).trans (ite_self _)
@[simp] theorem Thread.retire_pend (th : Thread) (i : Instr) : (th.retire i).pend = th.pend :=
  ((apply_ite Thread.pend (th.drawsNow i = true) _ _).trans (congrArg (fun x => ite (th.drawsNow i = true) x th.pend)
    (Thread.srStep_pend th))).trans (ite_self _)
@[simp] theorem Thread.retire_sched (th : Thread) (i : Instr) : (th.retire i).sched = th.sched :=
  ((apply_ite Thread.sched (th.drawsNow i = true) _ _).trans (congrArg (fun x => ite (th.drawsNow i = true) x th.sched)
    (Thread.srStep_sched th))).trans (ite_self _)
@[simp] theorem Thread.retire_nextRot (th : Thread) (i : Instr) : (th.retire i).nextRot = th.nextRot :=
  ((apply_ite Thread.nextRot (th.drawsNow i = true) _ _).trans (congrArg (fun x => ite (th.drawsNow i = true) x th.nextRot)
    (Thread.srStep_nextRot th))).trans (ite_self _)
@[simp] theorem Thread.retire_pendSet (th : Thread) (i : Instr) : (th.retire i).pendSet = th.pendSet :=
  ((apply_ite Thread.pendSet (th.drawsNow i = true) _ _).trans (congrArg (fun x => ite (th.drawsNow i = true) x th.pendSet)
    (Thread.srStep_pendSet th))).trans (ite_self _)
@[simp] theorem Thread.retire_preempt (th : Thread) (i : Instr) : (th.retire i).preempt = th.preempt :=
  ((apply_ite Thread.preempt (th.drawsNow i = true) _ _).trans (congrArg (fun x => ite (th.drawsNow i = true) x th.preempt)
    (Thread.srStep_preempt th))).trans (ite_self _)
@[simp] theorem Thread.retire_handling (th : Thread) (i : Instr) : (th.retire i).handling = th.handling :=
  ((apply_ite Thread.handling (th.drawsNow i = true) _ _).trans (congrArg (fun x => ite (th.drawsNow i = true) x th.handling)
    (Thread.srStep_handling th))).trans (ite_self _)
@[simp] theorem Thread.retire_hostDirty (th : Thread) (i : Instr) : (th.retire i).hostDirty = th.hostDirty :=
  ((apply_ite Thread.hostDirty (th.drawsNow i = true) _ _).trans (congrArg (fun x => ite (th.drawsNow i = true) x th.hostDirty)
    (Thread.srStep_hostDirty th))).trans (ite_self _)

@[simp] theorem Thread.retire_pc (th : Thread) (i : Instr) : (th.retire i).pc = th.pc + 4 :=
  congrArg (· + 4) (((apply_ite Thread.pc (th.drawsNow i = true) _ _).trans (congrArg (fun x => ite (th.drawsNow i = true) x th.pc)
    (Thread.srStep_pc th))).trans (ite_self _))
@[simp] theorem Thread.retire_chain (th : Thread) (i : Instr) : (th.retire i).chain = none := rfl
@[simp] theorem Thread.retire_park (th : Thread) (i : Instr) : (th.retire i).park = none := rfl
@[simp] theorem Thread.retire_again (th : Thread) (i : Instr) : (th.retire i).again = none := rfl
@[simp] theorem Thread.retire_retry (th : Thread) (i : Instr) : (th.retire i).retry = none := rfl

end Sys2Proof.Machine
end

