-- ==== Sys2Proof/Laws/Access.lean ====
section
/-! SUPPORT. What an access does: what its checks may change, and the laws of an access that stays in the issuing core's own
local store. -/

namespace Sys2Proof.Machine

/-- `u` differs from `s` in nothing but memory, what the cores cache, and the counter of free values. -/
def CacheStep (s u : State) : Prop := u = { s with mem := u.mem, cores := u.cores, freeCtr := u.freeCtr }

theorem CacheStep.refl (s : State) : CacheStep s s := rfl

theorem CacheStep.trans {s t u : State} (h : CacheStep s t) (k : CacheStep t u) : CacheStep s u := by
  unfold CacheStep at *
  rw [k, h]

theorem CacheStep.waiters {s u : State} (h : CacheStep s u) : u.waiters = s.waiters := by rw [h]
theorem CacheStep.threads {s u : State} (h : CacheStep s u) : u.threads = s.threads := by rw [h]
theorem CacheStep.blab {s u : State} (h : CacheStep s u) : u.blab = s.blab := by rw [h]
theorem CacheStep.poison {s u : State} (h : CacheStep s u) : u.poison = s.poison := by rw [h]
theorem CacheStep.full {s u : State} (h : CacheStep s u) : u.full = s.full := by rw [h]
theorem CacheStep.ppkg {s u : State} (h : CacheStep s u) : u.ppkg = s.ppkg := by rw [h]
theorem CacheStep.dies {s u : State} (h : CacheStep s u) : u.dies = s.dies := by rw [h]
theorem CacheStep.fixed {s u : State} (h : CacheStep s u) : u.fixed = s.fixed := by rw [h]
theorem CacheStep.cur {s u : State} (h : CacheStep s u) : u.cur = s.cur := by rw [h]

theorem cacheStep_putBytes (s : State) (a : Nat) (l : List (Option Byte)) : CacheStep s (s.putBytes a l) := rfl
theorem cacheStep_modPCore (s : State) (c p : Nat) (f : PCore → PCore) : CacheStep s (s.modPCore c p f) := rfl

theorem cacheStep_dirtyEnt (s : State) (a : Nat) : CacheStep s (s.dirtyEnt a) := by
  show CacheStep s (if bitAt (s.num a 16) 9 then s else s.putNum a 16 (s.num a 16 + 2 ^ 9))
  split
  · rfl
  · exact cacheStep_putBytes ..

/-- Setting D bits changes memory and the translation cache only. -/
theorem cacheStep_setDirty (s : State) (w : Who) (p : Place) : CacheStep s (s.setDirty w p) := by
  have h1 : ∀ u, CacheStep s u → ∀ a, CacheStep s (u.dirtyEnt a) := fun u h a => h.trans (cacheStep_dirtyEnt u a)
  simp only [State.setDirty]
  split
  · split
    · exact cacheStep_dirtyEnt ..
    · rfl
  · have a1 : CacheStep s (if p.leaf.d1 then s else match p.leaf.via with
        | some v => (s.dirtyEnt v.1).dirtyEnt p.leaf.entry
        | none => s.dirtyEnt p.leaf.entry) := by
      split
      · rfl
      · split
        · exact h1 _ (h1 _ (.refl s) _) _
        · exact h1 _ (.refl s) _
    generalize (if p.leaf.d1 then s else match p.leaf.via with
        | some v => (s.dirtyEnt v.1).dirtyEnt p.leaf.entry
        | none => s.dirtyEnt p.leaf.entry) = u at a1
    have a2 : CacheStep s (if p.leaf.d2 then u else match p.leaf.entry2 with
        | some (a, _, _) => u.dirtyEnt a
        | none => u) := by
      split
      · exact a1
      · split
        · exact h1 _ a1 _
        · exact a1
    split
    · exact a2
    · exact a2.trans (cacheStep_modPCore ..)

theorem cacheStep_setDirties (s : State) (w : Who) (k : Nat) (l : List Place) : CacheStep s (s.setDirties w k l) := by
  unfold State.setDirties
  split
  · induction l generalizing s with
    | nil => rfl
    | cons p l ih => exact (cacheStep_setDirty s w p).trans (ih _)
  · rfl

theorem cacheStep_pageOf (s : State) (w : Who) (va : Word) (k : Nat) : CacheStep s (s.pageOf w va k).1 := by
  have hf : ∀ n, CacheStep s ({ s with freeCtr := n } : State) := fun _ => rfl
  simp only [State.pageOf]
  repeat' split
  all_goals first | exact .refl s | exact cacheStep_modPCore .. | exact hf _ | rfl

theorem cacheStep_translate (s : State) (w : Who) (va : Word) (k : Nat) : CacheStep s (s.translate w va k).1 := by
  unfold State.translate
  split
  · rfl
  · split
    · rfl
    · rename_i u l h
      have hu : CacheStep s u := by
        revert h
        unfold State.loadRanges
        split
        · intro h; cases h; rfl
        · simp only
          split
          · intro h; cases h
          · split
            · intro h; cases h
            · intro h; cases h; rfl
      split
      · exact hu
      · exact hu.trans (cacheStep_pageOf ..)

/-- The checks of an access change nothing but what the core caches, and the counter of free values. -/
theorem cacheStep_check (s : State) (w : Who) (q : Want) (va : Word) : CacheStep s (s.check w q va).1 := by
  have h := cacheStep_translate s w va q.kind
  unfold State.check
  split
  · rename_i h'; rw [h'] at h; exact h
  · rename_i h'
    rw [h'] at h
    split
    · exact h
    · simp only
      split
      · exact h
      · exact h

theorem releaseAll_nil (m : Msg) (n : Nat) (s : State) (h : s.waiters = []) : releaseAll m n s = (s, []) := by
  cases n with
  | zero => rfl
  | succ n => simp [releaseAll, h, firstReady]

theorem performWith_quiet {s s' : State} {m : Msg} {r : Resp} (h : s.performMem m = (s', some r)) (hw : s'.waiters = []) :
    s.performWith m = (s', some r, []) := by
  unfold State.performWith
  rw [h]
  simp only [releaseAll_nil m _ s' hw]

theorem startPieces_here {i : Instr} {tid : Nat} {th : Thread} {s s' : State} {h : How} {c : Cont} {x : Piece} {p : Place} {r : Resp}
    (hh : p.here = true)
    (hp : s.isPoisoned p.pa (reqLen (x.req p)) = true → clears p.pa (x.req p) = true)
    (hm : s.performMem (pieceMsg tid th (.thread tid th.gen) h.carry x p) = (s', some r)) (hr : r.ok = true) (hw : s'.waiters = []) :
    startPieces i tid th s h c [(x, p)] = performedHere i th s' c [⟨x.off, r.bytes, r.lab, r.flags⟩] := by
  have hq : s.poisoned? [pieceMsg tid th (.thread tid th.gen) h.carry x p] = none := by
    simp only [State.poisoned?, List.find?]
    have : (s.isPoisoned (pieceMsg tid th (.thread tid th.gen) h.carry x p).pa (reqLen (pieceMsg tid th (.thread tid th.gen) h.carry x p).req) && !clears (pieceMsg tid th (.thread tid th.gen) h.carry x p).pa (pieceMsg tid th (.thread tid th.gen) h.carry x p).req) = false := by
      show (s.isPoisoned p.pa (reqLen (x.req p)) && !clears p.pa (x.req p)) = false
      cases h1 : s.isPoisoned p.pa (reqLen (x.req p))
      · rfl
      · rw [hp h1]; rfl
    rw [this]
  simp only [startPieces, List.filter, hh, Bool.not_true, List.map]
  rw [hq]
  simp only [performHere, performWith_quiet hm hw, State.sendOuts, List.foldl, hr, if_true]
  rfl

theorem space1_notHost {pa : Nat} (h : spaceOf pa = 1) : isHostWin pa = false := by simp [isHostWin, h]

theorem shipTo_local {tid : Nat} {th : Thread} {p : Place} (hh : p.home = .core (coreOf tid)) : shipTo tid th [p] = none := by
  unfold shipTo; split
  · rfl
  · simp [hh]

theorem access_local {i : Instr} {s t : State} {th : Thread} {q : Want} {h : How} {c : Cont} {va : Word} {req : Place → Req} {p : Place}
    (hl : Local s th q va p t) (hw : h.wait.isSome = true → s.entryFree s.cur th.part = true)
    (hlab : ∀ lv, h.lv = some lv → t.labelFail th.part (if h.addLoc then lv ||| t.labelAt p.pa p.leaf.lab else lv) p = none) :
    access1 i s.cur th s q h c va req =
      startPieces i s.cur th (if isWrite q.kind then t.setDirty (whoIs s.cur th) p else t) h c [(⟨va, va, 0, q.size, req⟩, p)] := by
  obtain ⟨h1, h2, h3, h4, h5, h6, h7, h8, h9⟩ := hl
  have hent : (if s.entryFree s.cur th.part then none else h.wait) = none := by
    split
    · rfl
    · cases hw' : h.wait with
      | none => rfl
      | some w => exact absurd (hw (by rw [hw']; rfl)) ‹_›
  have hck : s.checkAll (whoIs s.cur th) q [(va, q.size)] = (t, .ok [p]) := by
    simp only [State.checkAll]
    rw [show ({ q with size := q.size } : Want) = q from rfl, h1]
  have hsl : readSlots i s.cur th [p] t = .ok t := by
    simp only [readSlots, h2, if_true, h5]
  have hsd : t.setDirties (whoIs s.cur th) q.kind [p] = if isWrite q.kind then t.setDirty (whoIs s.cur th) p else t := by
    unfold State.setDirties; split <;> rfl
  unfold access1 access
  rw [hent]
  simp only [List.map]
  rw [hck]
  simp only [shipTo_local h3, ite_self]
  have : (if q.slotRead = true then readSlots i s.cur th [p] t else SlotRead.ok t) = .ok t := by split <;> [exact hsl; rfl]
  rw [this]
  simp only
  cases hv : h.lv with
  | none => simp only [List.map, h8, Bool.false_eq_true, if_false, List.zip, List.zipWith, hsd]
  | some lv =>
    simp only [List.findSome?]
    rw [hlab lv hv]
    simp only [List.map, h8, Bool.false_eq_true, if_false, List.zip, List.zipWith, hsd]

/-- The store rule lets a local write pass when its row's hypothesis holds. -/
theorem labelFail_local {t : State} {part : Nat} {lv : Label} {p : Place} (h2 : p.here = true) (h4 : spaceOf p.pa = 1) (h7 : p.egress = false)
    (hr : lv &&& ~~~(t.blockLabel p.pa) = 0 ∨ p.leaf.mx = true) : t.labelFail part lv p = none := by
  simp only [State.labelFail, checkedHere, h2, Bool.true_or, if_true, storeRule, h7, Bool.false_and, Bool.false_eq_true, if_false, State.labelAt, h4, fits, decide_eq_true_eq]
  by_cases hz : lv &&& ~~~(t.blockLabel p.pa) = 0
  · simp only [hz, if_true]
  · have hm := hr.resolve_left hz
    simp only [hz, if_false, hm, decide_true, Bool.and_self, if_true]

/-- A write under the store rule that passes. -/
theorem ruled_local {t : State} {m : Msg} {lv : Label} (h4 : spaceOf m.pa = 1)
    (hr : lv &&& ~~~(t.blockLabel m.pa) = 0 ∨ m.mx = true) (f : State → State × Resp) :
    t.ruled m lv f = (if lv &&& ~~~(t.blockLabel m.pa) = 0 then (f t).1 else (f t).1.setBlockLabel m.pa (t.blockLabel m.pa ||| lv), some (f t).2) := by
  simp only [State.ruled, storeRule, Bool.false_and, Bool.false_eq_true, if_false, State.labelAt, h4, if_true, fits, decide_eq_true_eq]
  by_cases hz : lv &&& ~~~(t.blockLabel m.pa) = 0
  · simp only [hz, if_true]
  · have hm := hr.resolve_left hz
    simp only [hz, if_false, hm, decide_true, Bool.and_self, if_true]

/-- An access of one piece whose place is not of the issuing core's own local store, and that its checks let pass: a migrant may ship
(08 R206), a busy home holds it back (12 R283, R296), else it starts. -/
theorem access1_away {i : Instr} {s t : State} {th : Thread} {q : Want} {h : How} {c : Cont} {va : Word} {req : Place → Req} {p : Place}
    (hck : s.check (whoIs s.cur th) q va = (t, .ok p)) (ha : p.here = false) (hs : h.ships = true)
    (hw : h.wait.isSome = true → s.entryFree s.cur th.part = true)
    (hlab : ∀ lv, h.lv = some lv → t.labelFail th.part (if h.addLoc then lv ||| t.labelAt p.pa p.leaf.lab else lv) p = none) :
    access1 i s.cur th s q h c va req = match shipTo s.cur th [p] with
      | some (k, va, pa) => parkOn th t i (.ship k va pa)
      | none => if t.homeBusy s.cur th [p.home] then parkOn th t i (t.holdOn s.cur th [p.home])
          else startPieces i s.cur th (t.setDirties (whoIs s.cur th) q.kind [p]) h c [(⟨va, va, 0, q.size, req⟩, p)] := by
  have hent : (if s.entryFree s.cur th.part then none else h.wait) = none := by
    split
    · rfl
    · cases hw' : h.wait with
      | none => rfl
      | some w => exact absurd (hw (by rw [hw']; rfl)) ‹_›
  have hck' : s.checkAll (whoIs s.cur th) q [(va, q.size)] = (t, .ok [p]) := by
    simp only [State.checkAll]
    rw [show ({ q with size := q.size } : Want) = q from rfl, hck]
  have hsl : (if q.slotRead = true then readSlots i s.cur th [p] t else SlotRead.ok t) = .ok t := by
    split
    · simp only [readSlots, ha, Bool.false_eq_true, if_false]
    · rfl
  unfold access1 access
  rw [hent]
  simp only [List.map]
  rw [hck']
  simp only [hs, if_true, hsl]
  cases hsh : shipTo s.cur th [p] with
  | some x => rfl
  | none =>
    cases hv : h.lv with
    | none => rfl
    | some lv =>
      simp only [List.findSome?, hlab lv hv]
      rfl

/-- A checked access of one piece to another home is sent, or scheduled by a timed thread (08 R211; 12 R281). -/
theorem startPieces_away {i : Instr} {tid : Nat} {th : Thread} {s : State} {h : How} {c : Cont} {x : Piece} {p : Place}
    (ha : p.here = false) :
    startPieces i tid th s h c [(x, p)] =
      if h.sched && h.wait.isNone && s.isTimed tid th then
        .done (th.schedule i s (accessOf 1 [] [pieceMsg tid th (.thread tid th.gen) h.carry x p] c))
          (s.request (pieceMsg tid th (.sched tid th.gen s.serial) h.carry x p)).tick1
      else .park th (s.request (pieceMsg tid th (.thread tid th.gen) h.carry x p))
        (accPark i th s h (accessOf 1 [] [pieceMsg tid th (.thread tid th.gen) h.carry x p] c)
          (some (p.home, planeOf (x.req p), p.pa)) x.va (s.labelAt p.pa p.leaf.lab)) := by
  simp [startPieces, List.filter, ha, State.poisoned?, performHere]
  rfl

/-- A write to another home passes the part of the store rule that its issuer checks (18 R395). -/
theorem labelFail_away {t : State} {part : Nat} {lv : Label} {p : Place} (ha : p.here = false)
    (he : p.egress = true → lv &&& ~~~(t.owner part) = 0)
    (hs : spaceOf p.pa ≠ 1 → lv &&& ~~~(t.labelAt p.pa p.leaf.lab) = 0) : t.labelFail part lv p = none := by
  have hf : (p.egress && !fits lv (t.owner part)) = false := by
    cases h : p.egress with
    | false => rfl
    | true => simp [fits, he h]
  simp only [State.labelFail, checkedHere, ha, Bool.false_or, decide_eq_true_eq, hf, Bool.false_eq_true, if_false]
  split
  · rename_i h1
    simp only [storeRule, hf, Bool.false_eq_true, if_false]
    rw [if_pos (by simp only [fits, decide_eq_true_eq]; exact hs h1)]
  · rfl

end Sys2Proof.Machine
end

