-- ==== Sys2Proof/Laws/Scalar.lean ====
section
/-! SUPPORT. What the scalar words compute, in the form of the spec's tables: one lemma for each operation on values. -/

namespace Sys2Proof.Machine

theorem sh6_eq (b : Word) : sh6 b = (b.extractLsb' 0 6).toNat := by simp [sh6, BitVec.extractLsb'_toNat]

theorem fieldOf_eq (b : Word) : fieldOf b = ((b.extractLsb' 0 6).toNat, Rules.fieldLen b) := by
  simp [fieldOf, Rules.fieldLen, BitVec.extractLsb'_toNat, Nat.shiftRight_eq_div_pow]

theorem sllW_eq (a : Word) (n : Nat) : sllW a n = BitVec.ofNat 64 (a.toNat * 2 ^ n) := by
  apply BitVec.eq_of_toNat_eq; simp [sllW, BitVec.toNat_shiftLeft, Nat.shiftLeft_eq]

theorem srlW_eq (a : Word) (n : Nat) : srlW a n = BitVec.ofNat 64 (a.toNat / 2 ^ n) := by
  apply BitVec.eq_of_toNat_eq
  have : a.toNat / 2 ^ n < 2 ^ 64 := Nat.lt_of_le_of_lt (Nat.div_le_self _ _) a.isLt
  rw [BitVec.toNat_ofNat, Nat.mod_eq_of_lt this, srlW, BitVec.toNat_ushiftRight, Nat.shiftRight_eq_div_pow]

theorem sraW_eq (a : Word) (n : Nat) : sraW a n = BitVec.ofInt 64 (a.toInt / 2 ^ n) := by
  simp [sraW, BitVec.sshiftRight, Int.shiftRight_eq_div_pow]

theorem rolW_eq (a : Word) (n : Nat) (h : n < 64) : rolW a n = a.rotateLeft n := by
  simp [rolW, BitVec.rotateLeft, BitVec.rotateLeftAux, Nat.mod_eq_of_lt h]

theorem rorW_eq (a : Word) (n : Nat) (h : n < 64) : rorW a n = a.rotateRight n := by
  simp [rorW, BitVec.rotateRight, BitVec.rotateRightAux, Nat.mod_eq_of_lt h]

theorem minS_eq (x y : Word) : (if x.slt y then x else y) = BitVec.ofInt 64 (min x.toInt y.toInt) := by
  simp only [BitVec.slt, decide_eq_true_eq]
  split
  · rw [Int.min_eq_left (by omega), BitVec.ofInt_toInt]
  · rw [Int.min_eq_right (by omega), BitVec.ofInt_toInt]

theorem maxS_eq (x y : Word) : (if x.slt y then y else x) = BitVec.ofInt 64 (max x.toInt y.toInt) := by
  simp only [BitVec.slt, decide_eq_true_eq]
  split
  · rw [Int.max_eq_right (by omega), BitVec.ofInt_toInt]
  · rw [Int.max_eq_left (by omega), BitVec.ofInt_toInt]

theorem minU_eq (x y : Word) : (if x.ult y then x else y) = BitVec.ofNat 64 (min x.toNat y.toNat) := by
  simp only [BitVec.ult, decide_eq_true_eq]
  split
  · rw [Nat.min_eq_left (by omega), BitVec.ofNat_toNat, BitVec.setWidth_eq]
  · rw [Nat.min_eq_right (by omega), BitVec.ofNat_toNat, BitVec.setWidth_eq]

theorem maxU_eq (x y : Word) : (if x.ult y then y else x) = BitVec.ofNat 64 (max x.toNat y.toNat) := by
  simp only [BitVec.ult, decide_eq_true_eq]
  split
  · rw [Nat.max_eq_right (by omega), BitVec.ofNat_toNat, BitVec.setWidth_eq]
  · rw [Nat.max_eq_left (by omega), BitVec.ofNat_toNat, BitVec.setWidth_eq]

theorem shAdd_eq (x y : Word) (n : Nat) : (x <<< n) + y = BitVec.ofNat 64 (x.toNat * 2 ^ n + y.toNat) := by
  apply BitVec.eq_of_toNat_eq
  simp [BitVec.toNat_add, BitVec.toNat_shiftLeft, Nat.shiftLeft_eq]

theorem addI_eq (x : Word) (i : Int) : x + wordOfInt i = BitVec.ofInt 64 (x.toInt + i) := by
  rw [BitVec.ofInt_add, BitVec.ofInt_toInt]; rfl

theorem bextN_eq (a b : Word) :
    bextW false a b = BitVec.ofNat 64 (Rules.cut a.toNat (b.extractLsb' 0 6).toNat (Rules.fieldLen b)) := by
  simp only [bextW, fieldOf_eq, Rules.cut]
  split
  · rename_i h; simp [h, Nat.mod_one]
  · simp only [intOf, wordOfInt, Bool.false_and, Bool.false_eq_true, if_false]
    exact BitVec.ofInt_natCast 64 _

theorem bextI_eq (a b : Word) :
    bextW true a b = if Rules.fieldLen b = 0 then 0 else
      BitVec.ofInt 64 (if Rules.cut a.toNat (b.extractLsb' 0 6).toNat (Rules.fieldLen b) < 2 ^ (Rules.fieldLen b - 1) then
        (Rules.cut a.toNat (b.extractLsb' 0 6).toNat (Rules.fieldLen b) : Int)
        else (Rules.cut a.toNat (b.extractLsb' 0 6).toNat (Rules.fieldLen b) : Int) - 2 ^ Rules.fieldLen b) := by
  simp only [bextW, fieldOf_eq]
  split
  · rfl
  · rw [show a.toNat / 2 ^ (b.extractLsb' 0 6).toNat % 2 ^ Rules.fieldLen b =
      Rules.cut a.toNat (b.extractLsb' 0 6).toNat (Rules.fieldLen b) from rfl]
    simp only [intOf, wordOfInt, Bool.true_and, decide_eq_true_eq]
    congr 1
    split
    · rw [if_neg (by omega)]
    · rw [if_pos (by omega)]

theorem binsW_eq (d a b : Word) : binsW d a b = BitVec.ofNat 64 (d.toNat / 2 ^ ((b.extractLsb' 0 6).toNat + Rules.fieldLen b) *
    2 ^ ((b.extractLsb' 0 6).toNat + Rules.fieldLen b) + a.toNat % 2 ^ Rules.fieldLen b * 2 ^ (b.extractLsb' 0 6).toNat +
    d.toNat % 2 ^ (b.extractLsb' 0 6).toNat) := by simp only [binsW, fieldOf_eq]

theorem remS_eq (a b : Word) : remS a b = if b = 0 then a else BitVec.ofInt 64 (a.toInt - a.toInt.tdiv b.toInt * b.toInt) := by
  unfold remS
  split
  · rfl
  · simp only [wordOfInt]
    congr 1
    have := Int.tmod_add_mul_tdiv a.toInt b.toInt
    rw [Int.mul_comm] at this; omega

theorem remU_eq (a b : Word) : remU a b = if b = 0 then a else BitVec.ofNat 64 (a.toNat - a.toNat / b.toNat * b.toNat) := by
  unfold remU
  split
  · rfl
  · congr 1
    have := Nat.mod_add_div a.toNat b.toNat
    rw [Nat.mul_comm] at this; omega

theorem cmpW_eq (c : ICond) (t : ITy) (a b : Word) : cmpW c t a b = Rules.holds c (Rules.asInt t a) (Rules.asInt t b)
    (a.toNat % 2 ^ ityW t) (b.toNat % 2 ^ ityW t) := by
  unfold cmpW Rules.holds Rules.asInt iCond
  cases c <;> simp [bne, BEq.beq]

theorem zero_lab (c : Label) : (0 : Label) ||| c = c := by simp

theorem predWord_eq (th : Thread) : th.predWord.setWidth 64 = BitVec.ofNat 64 (1 + b2n (th.pv false 1) * 2 + b2n (th.pv false 2) * 4 + b2n (th.pv false 3) * 8 +
      b2n (th.pv false 4) * 16 + b2n (th.pv false 5) * 32 + b2n (th.pv false 6) * 64 + b2n (th.pv false 7) * 128) := by
  have h0 : (th.preg 0).val = true := rfl
  simp only [Thread.predWord, nums, numsFrom, List.foldl, Thread.pv]
  rw [show (BitVec.ofNat 3 0) = 0 from rfl, h0]
  simp only [show (BitVec.ofNat 3 (0+1)) = 1#3 from rfl, show (BitVec.ofNat 3 (0+1+1)) = 2#3 from rfl, show (BitVec.ofNat 3 (0+1+1+1)) = 3#3 from rfl, show (BitVec.ofNat 3 (0+1+1+1+1)) = 4#3 from rfl, show (BitVec.ofNat 3 (0+1+1+1+1+1)) = 5#3 from rfl, show (BitVec.ofNat 3 (0+1+1+1+1+1+1)) = 6#3 from rfl, show (BitVec.ofNat 3 (0+1+1+1+1+1+1+1)) = 7#3 from rfl]
  show _ = BitVec.ofNat 64 (1 + b2n ((th.preg 1#3).val != false) * 2 + b2n ((th.preg 2#3).val != false) * 4 + b2n ((th.preg 3#3).val != false) * 8 + b2n ((th.preg 4#3).val != false) * 16 + b2n ((th.preg 5#3).val != false) * 32 + b2n ((th.preg 6#3).val != false) * 64 + b2n ((th.preg 7#3).val != false) * 128)
  generalize (th.preg 1#3).val = a; generalize (th.preg 2#3).val = b; generalize (th.preg 3#3).val = c
  generalize (th.preg 4#3).val = d; generalize (th.preg 5#3).val = e; generalize (th.preg 6#3).val = f; generalize (th.preg 7#3).val = g
  revert a b c d e f g
  decide

theorem cmpiW_eq (c : ICond) (x : Word) (i : BitVec 12) (ch : Option Chain) : cmpW c .i64 x (BitVec.ofInt 64 (immS ch i)) = Rules.holds c x.toInt (immS ch i) x.toNat (BitVec.ofInt 64 (immS ch i)).toNat := by
  rw [cmpW_eq]
  have e1 : ∀ y : Word, Rules.asInt .i64 y = y.toInt := by
    intro y
    have := y.isLt
    simp only [Rules.asInt, ityW, ityS, intOf, BitVec.toInt_eq_toNat_cond, Bool.true_and, decide_eq_true_eq, Nat.mod_eq_of_lt this]
    split <;> split <;> omega
  have e2 : (BitVec.ofInt 64 (immS ch i)).toInt = immS ch i := by
    unfold immS
    split
    · rename_i h _
      have a := BitVec.le_toInt (h ++ i)
      have b := BitVec.toInt_lt (x := h ++ i)
      rw [BitVec.toInt_ofInt, Int.bmod_eq_of_le] <;> omega
    · have a := BitVec.le_toInt i
      have b := BitVec.toInt_lt (x := i)
      rw [BitVec.toInt_ofInt, Int.bmod_eq_of_le] <;> omega
  rw [e1, e1, e2]
  simp only [ityW]
  rw [Nat.mod_eq_of_lt x.isLt, Nat.mod_eq_of_lt (BitVec.isLt _)]

theorem cmpinW_eq (c : ICond) (x : Word) (i : BitVec 12) (ch : Option Chain) : cmpW c .n64 x (BitVec.ofNat 64 (immZ ch i)) = Rules.holds c x.toNat (immZ ch i) x.toNat (immZ ch i) := by
  rw [cmpW_eq]
  have e1 : ∀ y : Word, Rules.asInt .n64 y = y.toNat := by
    intro y
    have := y.isLt
    simp only [Rules.asInt, ityW, ityS, intOf, Bool.false_and, Bool.false_eq_true, if_false, Nat.mod_eq_of_lt this]
  have e2 : (BitVec.ofNat 64 (immZ ch i)).toNat = immZ ch i := by
    rw [BitVec.toNat_ofNat, Nat.mod_eq_of_lt]
    unfold immZ
    split <;> omega
  rw [e1, e1, e2]
  simp only [ityW]
  rw [Nat.mod_eq_of_lt x.isLt, Nat.mod_eq_of_lt (by rw [← e2]; exact BitVec.isLt _)]

theorem sigInfo_eq (th : Thread) (g : BitVec 16) (h : th.lastBad ≠ some th.pc) :
    sigInfo th g = BitVec.ofNat 64 (g.toNat * 2 ^ 16 + th.flint.toNat) := by
  unfold sigInfo
  rw [if_neg h]
  apply BitVec.eq_of_toNat_eq
  have a := g.isLt; have b := th.flint.isLt
  have e : g.toNat <<< 16 ||| th.flint.toNat = g.toNat <<< 16 + th.flint.toNat := Nat.shiftLeft_add_eq_or_of_lt b _ |>.symm
  simp only [BitVec.toNat_or, BitVec.toNat_setWidth, BitVec.toNat_shiftLeft, BitVec.toNat_ofNat]
  rw [show BitVec.toNat (0 : Word) = 0 from rfl, Nat.or_zero, Nat.mod_eq_of_lt (by omega : g.toNat < 2 ^ 64),
    Nat.mod_eq_of_lt (by omega : th.flint.toNat < 2 ^ 64), Nat.mod_eq_of_lt (by rw [Nat.shiftLeft_eq]; omega), Nat.or_comm, e,
    Nat.shiftLeft_eq, Nat.mod_eq_of_lt (by omega)]

end Sys2Proof.Machine
end

