-- ==== Sys2Proof/Laws/Vector.lean ====
section
/-! SUPPORT. What the shared operations of the vector words do: packing elements, flags, masks and tags. -/

namespace Sys2Proof.Machine

theorem length_numsFrom (lo n : Nat) : (numsFrom lo n).length = n := by
  induction n generalizing lo with
  | zero => rfl
  | succ n ih => simp [numsFrom, ih]

theorem getElem?_numsFrom (lo n e : Nat) : (numsFrom lo n)[e]? = if e < n then some (lo + e) else none := by
  induction n generalizing lo e with
  | zero => simp [numsFrom]
  | succ n ih =>
    cases e with
    | zero => simp [numsFrom]
    | succ e => simp only [numsFrom, List.getElem?_cons_succ, ih]; simp [Nat.add_assoc, Nat.add_comm 1 e]

theorem numsFrom_eq (lo n : Nat) : numsFrom lo n = (List.range n).map (lo + ·) := by
  apply List.ext_getElem?
  intro e
  rw [getElem?_numsFrom]
  by_cases h : e < n <;> simp [h]

theorem nums_eq (n : Nat) : nums n = List.range n := by rw [nums, numsFrom_eq]; simp

/-- The elements of a packed list. -/
theorem packNat_elem (w : Nat) (l : List Nat) (e : Nat) : packNat w l / 2 ^ (w * e) % 2 ^ w = l.getD e 0 % 2 ^ w := by
  induction l generalizing e with
  | nil => simp [packNat]
  | cons x l ih =>
    cases e with
    | zero => simp [packNat, Nat.add_mul_mod_self_left]
    | succ e =>
      have hd : (x % 2 ^ w + 2 ^ w * packNat w l) / 2 ^ w = packNat w l := by
        rw [Nat.add_mul_div_left _ _ (Nat.two_pow_pos w), Nat.div_eq_of_lt (Nat.mod_lt _ (Nat.two_pow_pos w)), Nat.zero_add]
      rw [packNat, Nat.mul_succ, Nat.add_comm (w * e) w, Nat.pow_add, ← Nat.div_div_eq_div_mul, hd, ih e]
      simp

/-- The elements of a packed register. -/
theorem element_packV {w e : Nat} (h : w * (e + 1) ≤ 512) (l : List Nat) :
    Rules.element (packV w l) w e = l.getD e 0 % 2 ^ w := by
  rw [← packNat_elem]
  simp only [Rules.element, packV, BitVec.toNat_ofNat]
  apply Nat.eq_of_testBit_eq
  intro j
  simp only [Nat.testBit_mod_two_pow, Nat.testBit_div_two_pow]
  by_cases hj : j < w
  · have : j + w * e < 512 := by rw [Nat.mul_succ] at h; omega
    simp [hj, this]
  · simp [hj]

theorem elem_eq (x : VBits) (w e : Nat) : elem x w e = Rules.element x w e := rfl

theorem element_lt (x : VBits) (w e : Nat) : Rules.element x w e < 2 ^ w := Nat.mod_lt _ (Nat.two_pow_pos w)

/-- The flags of a list. -/
theorem foldl_flags (l : List (Nat × Flags)) (a : Flags) (b : Nat) :
    (l.foldl (fun a x => a ||| x.2) a).getLsbD b = (a.getLsbD b || l.any fun x => x.2.getLsbD b) := by
  induction l generalizing a with
  | nil => simp
  | cons x l ih => simp [ih, Bool.or_assoc]

theorem unionFlags_bit (l : List (Nat × Flags)) (b : Nat) : (unionFlags l).getLsbD b = l.any fun x => x.2.getLsbD b := by
  rw [unionFlags, foldl_flags]; simp

theorem packNat_one_testBit (l : List Nat) (e : Nat) : (packNat 1 l).testBit e = decide (l.getD e 0 % 2 = 1) := by
  have h := packNat_elem 1 l e
  rw [Nat.one_mul, Nat.pow_one] at h
  rw [Nat.testBit_eq_decide_div_mod_eq, h]

theorem getLsbD_bits (n : Nat) (l : List Bool) (e : Nat) :
    (BitVec.ofNat n (packNat 1 (l.map b2n))).getLsbD e = (decide (e < n) && l.getD e false) := by
  rw [BitVec.getLsbD_ofNat, packNat_one_testBit]
  congr 1
  rw [List.getD_eq_getElem?_getD, List.getD_eq_getElem?_getD, List.getElem?_map]
  cases l[e]? with
  | none => rfl
  | some b => cases b <;> rfl

theorem excMask_bit (en : Flags) (l : List (Nat × Flags)) (e : Nat) (hl : l.length ≤ 64) :
    (excMask en l).getLsbD e = decide ((l.getD e (0, 0)).2 &&& en ≠ 0) := by
  have := getLsbD_bits 64 (l.map fun x => decide (x.2 &&& en ≠ 0)) e
  rw [List.map_map] at this
  rw [excMask]
  refine (show _ = _ from this).trans ?_
  rw [List.getD_eq_getElem?_getD, List.getD_eq_getElem?_getD, List.getElem?_map]
  by_cases he : e < l.length
  · have : e < 64 := by omega
    simp [he, this]
  · rw [List.getElem?_eq_none (by omega)]; simp

theorem getD_map_nums {α : Type} (n e : Nat) (f : Nat → α) (z : α) : ((nums n).map f).getD e z = if e < n then f e else z := by
  rw [nums_eq, List.getD_eq_getElem?_getD, List.getElem?_map]
  by_cases h : e < n <;> simp [h]

theorem any_map_nums (n : Nat) (f : Nat → Nat × Flags) (b : Nat) :
    ((nums n).map f).any (fun x => x.2.getLsbD b) = true ↔ ∃ e, e < n ∧ (f e).2.getLsbD b = true := by
  rw [nums_eq]; simp

/-- A masked word is a word of low elements with no element beyond. -/
theorem elementWise_low (i : Instr) (th : Thread) (s : State) (l : Nat) (d : VReg) (k : KReg) (src : Label) (tag : Tag) (w : Nat)
    (op : Nat → Nat × Flags) : elementWise i th s l d k src tag w (512 / w) op = lowWord i th s l d k src tag w (512 / w) op := by
  have : maskedOp (th.kreg k).val (th.vreg d).bits w (512 / w) op = lowElements th d k w (512 / w) op := by
    simp only [maskedOp, lowElements, nums_eq]
    apply List.map_congr_left
    intro e he
    rw [List.mem_range] at he
    rw [if_neg (by omega : ¬ 512 / w ≤ e)]
  simp only [elementWise, lowWord, this]

theorem and_ne_zero_iff (a en : Flags) : a &&& en ≠ 0 ↔ ∃ b, a.getLsbD b = true ∧ en.getLsbD b = true := by
  constructor
  · intro h
    by_contra hc
    apply h
    apply BitVec.eq_of_getLsbD_eq
    intro b hb
    rw [BitVec.getLsbD_and]
    by_cases h1 : a.getLsbD b = true
    · by_cases h2 : en.getLsbD b = true
      · exact absurd ⟨b, h1, h2⟩ hc
      · simp [h2]
    · simp [h1]
  · rintro ⟨b, h1, h2⟩ h
    have : (a &&& en).getLsbD b = true := by rw [BitVec.getLsbD_and, h1, h2]; rfl
    rw [h] at this; simp at this

/-- What a masked word delivers: its elements, tag, label and flags, and the mask of its enabled exceptions. -/
theorem lowWord_main (i : Instr) (th : Thread) (s : State) (r : Rules.VectorResult) (op : Nat → Nat × Flags) (hw : 8 ≤ r.w)
    (hl : r.low ≤ 512 / r.w) (hop : ∀ e, (op e).1 % 2 ^ r.w = (r.value e).1 % 2 ^ r.w ∧ (op e).2 = (r.value e).2) :
    ∃ (x : VVal) (fl : Flags) (m : Word), (∀ e, e < 512 / r.w → Rules.element x.bits r.w e = r.after th e) ∧ x.tag = r.tag ∧
      x.lab = r.label th ∧ r.flags th fl ∧ r.raised th m ∧ (r.calm th ↔ fl &&& th.fpEnable = 0) ∧
      lowWord i th s r.lat r.d r.k r.src r.tag r.w r.low op = finishV i th s r.lat r.d x fl m := by
  have hfl : r.flags th (unionFlags (lowElements th r.d r.k r.w r.low op)) := by
    intro b
    rw [unionFlags_bit, lowElements, any_map_nums]
    constructor
    · rintro ⟨e, he, h⟩
      by_cases h1 : r.low ≤ e
      · simp [h1] at h
      · by_cases h2 : enabled (th.kreg r.k).val r.w e = true
        · simp only [h1, h2, if_true, if_false] at h
          exact ⟨e, by omega, h2, by rw [← (hop e).2]; exact h⟩
        · simp [h1, h2] at h
    · rintro ⟨e, he, h1, h2⟩
      refine ⟨e, by omega, ?_⟩
      have h1' : enabled (th.kreg r.k).val r.w e = true := h1
      rw [if_neg (by omega), if_pos h1', (hop e).2]; exact h2
  refine ⟨_, _, _, ?_, rfl, rfl, hfl, ?_, ?_, rfl⟩
  · intro e he
    show Rules.element (packV r.w ((lowElements th r.d r.k r.w r.low op).map (·.1))) r.w e = _
    have hle : r.w * (e + 1) ≤ 512 := by
      have : r.w * (e + 1) ≤ r.w * (512 / r.w) := Nat.mul_le_mul_left _ he
      have := Nat.mul_div_le 512 r.w
      omega
    rw [element_packV hle, lowElements, List.map_map, getD_map_nums, if_pos he]
    simp only [Function.comp, Rules.VectorResult.after]
    by_cases h1 : r.low ≤ e
    · simp [h1]
    · by_cases h2 : enabled (th.kreg r.k).val r.w e = true
      · have h2' : r.takes th e = true := h2
        simp [h1, h2, h2', (hop e).1]
      · have h2' : ¬ r.takes th e = true := h2
        simp only [h1, h2, h2', if_false, elem_eq, Bool.false_eq_true]
        exact Nat.mod_eq_of_lt (element_lt _ _ _)
  · intro e
    have hn : 512 / r.w ≤ 64 := by
      calc 512 / r.w ≤ 512 / 8 := Nat.div_le_div_left hw (by omega)
        _ = 64 := rfl
    rw [excMask_bit _ _ _ (by simp [lowElements, nums_eq]; omega), lowElements, getD_map_nums]
    simp only [decide_eq_true_eq]
    constructor
    · intro h
      by_cases h0 : e < 512 / r.w
      · by_cases h1 : r.low ≤ e
        · simp [h0, h1] at h
        · by_cases h2 : enabled (th.kreg r.k).val r.w e = true
          · simp only [h0, h1, h2, if_true, if_false] at h
            exact ⟨by omega, h2, by rw [← (hop e).2]; exact h⟩
          · simp [h0, h1, h2] at h
      · simp [h0] at h
    · rintro ⟨he, h1, h2⟩
      have h1' : enabled (th.kreg r.k).val r.w e = true := h1
      rw [if_pos (by omega), if_neg (by omega), if_pos h1', (hop e).2]; exact h2
  · constructor
    · intro hc
      by_contra hne
      obtain ⟨b, h1, h2⟩ := (and_ne_zero_iff _ _).1 hne
      obtain ⟨e, he, ht, hv⟩ := (hfl b).1 h1
      exact (and_ne_zero_iff _ _).2 ⟨b, hv, h2⟩ (hc e he ht)
    · intro h0 e he ht
      by_contra hne
      obtain ⟨b, h1, h2⟩ := (and_ne_zero_iff _ _).1 hne
      exact (and_ne_zero_iff _ _).2 ⟨b, (hfl b).2 ⟨e, he, ht, h1⟩, h2⟩ h0

/-- A word whose checks all pass has its effect. -/
theorem withTags_of {i : Instr} {th : Thread} {s : State} {l : List TagCheck} {body : Res} (h : l.all (·.ok) = true) :
    withTags i th s l body = body := by
  have : l.find? (fun c => !c.ok) = none := by
    rw [List.find?_eq_none]; intro c hc; have := List.all_eq_true.1 h c hc; simp [this]
  rw [withTags, this]

/-- How a vector result leaves the word. -/
theorem conclude_finishV (i : Instr) (th : Thread) (s : State) (l : Nat) (d : VReg) (x : VVal) (fl : Flags) (m : Word) :
    s.conclude i s.cur false (finishV i th s l d x fl m) =
      if fl &&& th.fpEnable ≠ 0 then trapped s th .fpExc (fl.setWidth 64) m 0 s
      else retired i s (if l = 1 then (th.putV d x.bits x.tag x.lab).post fl x.lab else th.later i s.rot l (.v d) (.v x) fl x.lab) s := by
  unfold finishV
  by_cases h : fl &&& th.fpEnable ≠ 0
  · simp only [if_pos h, conclude_trap]
  · simp only [if_neg h]; split <;> rw [conclude_done]

theorem intTag_eq (t : ITy) (g : Tag) : intTag (ityW t) g = Rules.intOk (ityW t) g := by
  revert t g
  have : ∀ g : Tag, intTag 8 g = Rules.intOk 8 g ∧ intTag 16 g = Rules.intOk 16 g ∧ intTag 32 g = Rules.intOk 32 g ∧ intTag 64 g = Rules.intOk 64 g := by decide
  intro t g
  cases t <;> first | exact (this g).1 | exact (this g).2.1 | exact (this g).2.2.1 | exact (this g).2.2.2

theorem intTag_32 (g : Tag) : intTag 32 g = Rules.intOk 32 g := intTag_eq .i32 g
theorem intTag_64 (g : Tag) : intTag 64 g = Rules.intOk 64 g := intTag_eq .i64 g

theorem keptTag_eq (g : Tag) (w : Nat) : keptTag g w = Rules.tagKept g w (if w = 32 then 7 else 8) := by
  simp [keptTag, Rules.tagKept, widthTag]

theorem tagW_ge (g : Tag) : 8 ≤ (tagWidth g).getD 8 := by revert g; decide

theorem chosen_eq (k : BitVec 16) (x : VBits) (w : Nat) : Machine.inputs k x w = Rules.chosen k x w := by
  simp only [Machine.inputs, Rules.chosen, nums_eq]; rfl

theorem sumOver_eq (l : List Nat) : sumOver l id = l.sum := by
  have : ∀ a, l.foldl (fun a x => a + x) a = a + l.sum := by
    induction l with
    | nil => simp
    | cons x l ih => intro a; rw [List.foldl_cons, ih, List.sum_cons]; omega
  exact (this 0).trans (Nat.zero_add _)

end Sys2Proof.Machine
end

