-- ==== Sys2Proof/Tests/Slice0.lean ====
section
/-! SUPPORT. Tests of the model on fixed values: ill-formed terms, words decoded, single steps, and a state that meets the
hypotheses of each statement. -/

namespace Sys2Proof.Tests

open Sys2Proof Sys2Proof.Machine

set_option maxRecDepth 100000

/-! ### States for the tests -/

/-- A compute thread in slot 1 of core 0, partition 0, at 0x20000. -/
def worker : Thread := { Thread.fresh 5 .compute 0 0x20000 0 true 0 with strN := 1 }

/-- A worker with a value in one scalar register. -/
def workerWith (n : Nat) (v : Word) : Thread := { worker with s := vset worker.s n ⟨v, 0⟩ }

/-- Partition 0: slots 0 and 1, migrants hosted, two bead slots, a save area of 16 units. -/
def slots2 (p : PDie) : PDie := { p with v := true, smask := 3, nbank := 4, migh := false, savea := 16, bslots := 2 }

/-- Partition 0 on die 0, its trap vector, and one range entry, VA 0 to 0x40000 on the local store of core 0, with the attributes given
(1 V, 2 W, 16 SC, 32 MX; 11 Table 11.5), at 0x1000. -/
def base (attr : Byte) : State :=
  { (State.reset.modPDie 0 0 slots2).modPP 0 fun p => { p with rng := 0x1001, trapVec := 0x3000 } with
    cycle := 17, quartz := 17, cur := 1, bootMode := 1, mem := [(0x100A, 4), (0x1016, 4), (0x1018, attr)] }

/-- The machine with one thread, in slot 1 of core 0, whose word is next. -/
def on (th : Thread) : State := { base 35 with threads := [(1, th)] }

/-- A group whose clock stands at 8 on core 0. -/
def group : TGroup :=
  { launch := none, cores := [0], tids := [1], size := 1, budget := 4, rlat := 512, t0 := some 1, started := true, nextT0 := none
    vcc := [(0, 8)], pausedFrom := none, resumeAt := none, late := none, arrived := [], firstAt := 0, part := 0 }

/-- The worker in the group. -/
def timed (th : Thread) (g : TGroup) (cycle : Nat) : State :=
  { on { th with timed := some 3 } with tgroups := [(3, g)], cycle := cycle, quartz := BitVec.ofNat 64 cycle }

/-- A scheduled load that is answered and due. -/
def loaded : Sched := ⟨0, 2, ⟨0, [⟨0, [1, 2, 3, 4, 5, 6, 7, 8], 0, 0⟩], none, [], [], [], .load 5 .i64 0⟩, [.s 5], 0x20000, 0x20000, 1⟩

/-- A scheduled load that is late. -/
def late : Sched := { loaded with due := 3, acc := ⟨1, [], none, [.hbm 0], [], [], .load 5 .i64 0⟩ }

/-- A thread whose range entry maps VA 0 to 0x40000 on HBM. -/
def afar (th : Thread) : State := { on th with mem := [(0x100A, 4), (0x1018, 35)] }

/-- A posted store of the worker to a home, open under a number. -/
def opened (n : Nat) (home : Node) : JEntry := ⟨n, 0, 1, 5, home, 0x8000, 0x8000, .w64, 0, .write [], false, false⟩

/-! ### What the hypotheses of the statements ask, as tests -/

/-- `Issues`, as a test. -/
def canIssue (i : Instr) (s : State) : Bool :=
  match s.thread? s.cur with
  | none => false
  | some x =>
    let th := (x.settle s.rot).landed
    decide (x.again = none) && decide ((x.settle s.rot).strayed = none) && chainOk th.chain i && !absentFor th.kind i &&
    (decide (th.kind ≠ .migrant) || decide (migReg i = none)) && (!th.sbc || decide (earlyAt th (s.cmds s.cur) (th.early i (th.touches (s.core (coreOf s.cur)) i)) s.rot =
      none)) &&
    !(s.busy s.cur (bankMask ((th.touches (s.core (coreOf s.cur)) i).1 ++ (th.touches (s.core (coreOf s.cur)) i).2))
      (tileMask (th.touches (s.core (coreOf s.cur)) i).2)) && !th.sparClash i

/-- The thread as the word finds it. -/
def found (s : State) : Thread := (((s.thread? s.cur).getD worker).settle s.rot).landed

theorem issues {i : Instr} {s : State} (h : canIssue i s = true) : Issues i s (found s) := by
  unfold canIssue at h
  cases hx : s.thread? s.cur with
  | none => rw [hx] at h; cases h
  | some x =>
    rw [hx] at h
    have hf : found s = (x.settle s.rot).landed := by unfold found; rw [hx]; rfl
    simp only [Bool.and_eq_true, Bool.or_eq_true, decide_eq_true_eq, Bool.not_eq_true'] at h
    obtain ⟨⟨⟨⟨⟨⟨⟨h1, h2⟩, h3⟩, h4⟩, h5⟩, h6⟩, h7⟩, h8⟩ := h
    rw [hf]
    exact ⟨⟨x, hx, h1, h2, rfl⟩, h3, h4, fun hm => h5.resolve_left (fun hn => hn hm),
      fun hs => h6.resolve_left (fun hn => by rw [hs] at hn; cases hn), h7, h8⟩

/-- The result of a check. -/
def placeOf : Except XFail Place → Place
  | .ok p => p
  | .error _ => ⟨0, 0, { base := 0, size := 0, size1 := 0, pa := 0, w := false, x := false, world := false, cm := false, sc := false, mx := false
                         rp := none, lab := 0, entry := 0, via := none, level := 0, entry2 := none, pa1 := 0, pa2 := 0, w1 := false, x1 := false
                         world1 := false, d1 := false, d2 := false }, .host 0, false, false⟩

/-- Whether a check passes. -/
def passes (x : State × Except XFail Place) : Bool := match x.2 with | .ok _ => true | .error _ => false

theorem passed {x : State × Except XFail Place} (h : passes x = true) : x = (x.1, .ok (placeOf x.2)) := by
  obtain ⟨s, r⟩ := x
  cases r with
  | ok p => rfl
  | error f => cases h

/-- An access checked. -/
def reach (s : State) (q : Want) (va : Word) : State × Except XFail Place := s.check (whoIs s.cur (found s)) q va

/-- The place that an access reaches. -/
def placeAt (s : State) (q : Want) (va : Word) : Place := placeOf (reach s q va).2

/-- `Local`, as a test. -/
def canReach (s : State) (q : Want) (va : Word) : Bool :=
  let p := placeAt s q va
  let t := (reach s q va).1
  passes (reach s q va) && p.here && decide (p.home = .core (coreOf s.cur)) && decide (spaceOf p.pa = 1) &&
  decide (areaOf (t.pdie (dieOf (coreOf s.cur)) (found s).part) (p.pa % 2 ^ 19) = .plain) && decide (p.leaf.rp = none) && !p.egress &&
  !t.homeBusy s.cur (found s) [p.home] && decide (t.waiters = [])

theorem stays {s : State} {q : Want} {va : Word} (h : canReach s q va = true) :
    Local s (found s) q va (placeAt s q va) (reach s q va).1 := by
  unfold canReach at h
  simp only [Bool.and_eq_true, decide_eq_true_eq, Bool.not_eq_true'] at h
  obtain ⟨⟨⟨⟨⟨⟨⟨⟨h1, h2⟩, h3⟩, h4⟩, h5⟩, h6⟩, h7⟩, h8⟩, h9⟩ := h
  exact ⟨passed h1, h2, h3, h4, h5, h6, h7, h8, h9⟩

/-- `Rules.Completes`, as a test. -/
def canComplete (s : State) (r : Rules.AccessRule) (p : Place) (t : State) : Bool :=
  (match r.scope with | none => true | some c => decide (scopeCode c ≤ (s.pp (found s).part).scopeCap.toNat)) &&
  (match r.release with | none => true | some c => !s.openIn s.cur (found s) c && decide ((found s).hostDirty = [])) &&
  (!r.waits || s.entryFree s.cur (found s).part) &&
  (match r.lv with | none => true | some lv => decide (lv &&& ~~~(t.blockLabel p.pa) = 0) || p.leaf.mx) &&
  (!t.isPoisoned p.pa r.q.size || r.clears) && r.ready t p.pa

theorem completes {s : State} {r : Rules.AccessRule} {p : Place} {t : State} (h : canComplete s r p t = true) :
    Rules.Completes s (found s) r p t := by
  unfold canComplete at h
  simp only [Bool.and_eq_true, Bool.or_eq_true] at h
  obtain ⟨⟨⟨⟨⟨h1, h2⟩, h3⟩, h4⟩, h5⟩, h6⟩ := h
  refine ⟨?_, ?_, ?_, ?_, ?_, h6⟩
  · intro c hc; rw [hc] at h1; exact of_decide_eq_true h1
  · intro c hc; rw [hc] at h2
    simp only [Bool.and_eq_true, decide_eq_true_eq, Bool.not_eq_true'] at h2
    exact ⟨h2.1, fun _ => h2.2⟩
  · intro hw; rw [hw] at h3; exact h3.resolve_left (by decide)
  · intro lv hl; rw [hl] at h4
    simp only [Bool.or_eq_true, decide_eq_true_eq] at h4
    exact h4
  · intro hp; rw [hp] at h5; exact h5.resolve_left (by decide)

/-! ### Ill-formed terms -/

/-- 03 R56, R70, R71, Tables 3.21 and 3.29; 05 R121; 14 R335: a word outside what its encoding admits, one for each check. -/
theorem test_ill_formed_words :
    Instr.wf (.mfcr 0 1 3) = false ∧ Instr.wf (.mtcr 0 1 3) = false ∧ Instr.wf (.mtcrs 0 1 3) = false ∧
    Instr.wf (.mtcrc 0 1 3) = false ∧ Instr.wf (.lda 0 1 2 .i64 .lane) = false ∧ Instr.wf (.stl 0 1 2 .w64 .lane) = false ∧
    Instr.wf (.sstore 0 1 61) = false ∧ Instr.wf (.vcvt 0 1 2 false 0 0) = false ∧ Instr.wf (.vcvt 0 1 2 false 0 15) = false ∧
    Instr.wf (.vld 0 1 2 15 0 0) = false ∧ Instr.wf (.mmaMxe4m3 0 0 1 (.tile 5) false) = false ∧
    Instr.wf (.mmaMxe5m2 0 0 7 (.tile 3) false) = false ∧ Instr.wf (.spawn 0 1 63) = false ∧ Instr.wf (.bar 0 4 .sys) = false ∧
    Instr.wf (.fence 0 .lane) = false ∧ Instr.wf (.bara 0 .lane) = false ∧ Instr.wf (.barw 0 4 .sys) = false ∧
    Instr.wf (.qput 0 1 2 4 .lane) = false ∧ Instr.wf (.qget 0 1 2 4 .lane) = false := by decide

/-- 11 R246, R247; 12 Table 12.1; 23: an event that names a core, a die, a partition, a row, a principal or a stack that is not there. -/
theorem test_ill_formed_events :
    Instr.wf (.migrantResident 2048 0) = false ∧ Instr.wf (.migrantResident 0 4) = false ∧ Instr.wf (.matrixCommandStart 2048) = false ∧
    Instr.wf (.matrixCommandComplete 2048) = false ∧ Instr.wf (.freeze 2048 0 1) = false ∧ Instr.wf (.groupDeal 2 0) = false ∧
    Instr.wf (.beadDeparture 2048 0 0) = false ∧ Instr.wf (.cswCtlReq 0 4) = false ∧ Instr.wf (.preemptTimeout 0 4) = false ∧
    Instr.wf (.drainLimit 0 4) = false ∧ Instr.wf (.switchedOut 2048 0) = false ∧ Instr.wf (.cswCtlRes 2048 0) = false ∧
    Instr.wf (.hang 2 0) = false ∧ Instr.wf (.intReq 4 0 0) = false ∧ Instr.wf (.intReqArrival 4) = false ∧ Instr.wf (.vfRun 4) = false ∧
    Instr.wf (.vfDeschedule 4) = false ∧ Instr.wf (.vfPause 4) = false ∧ Instr.wf (.vfReset 4) = false ∧ Instr.wf (.mbox 4 0) = false ∧
    Instr.wf (.inboundRead true 4 0 8) = false ∧ Instr.wf (.inboundWrite true 4 0 []) = false ∧ Instr.wf (.budgetEpoch 4) = false ∧
    Instr.wf (.linkNarrow 32) = false ∧ Instr.wf (.linkWiden 32) = false ∧ Instr.wf (.discoveryFlit 0 32 0) = false ∧
    Instr.wf (.cfgReq 0 4 0) = false ∧ Instr.wf (.coreKill 2048 0) = false ∧ Instr.wf (.coreSvc 2048) = false ∧
    Instr.wf (.rodFailSet 2048 0) = false ∧ Instr.wf (.principalRegister 16) = false ∧ Instr.wf (.principalDeregister 16) = false ∧
    Instr.wf (.scopeSet 4 0) = false ∧ Instr.wf (.xlatInvPage 4 0) = false ∧ Instr.wf (.xlatInvAll 4) = false ∧
    Instr.wf (.xlatInvStage2 4 0) = false ∧ Instr.wf (.depVal 2) = false ∧ Instr.wf (.registerWrite .firmware 2 0 0) = false ∧
    Instr.wf (.hbmScrub 8 0 []) = false := by decide

/-! ### Single steps -/

/-- What the current thread holds after its word. -/
def after {α : Type} (i : Instr) (s : State) (f : Thread → α) : Option α :=
  match exec i s with
  | .next t => (t.thread? s.cur).map fun th => f th.landed
  | _ => none

/-- A worker with two values. -/
def two (a b : Word) : State := on { worker with s := vset (vset worker.s 5 ⟨a, 1⟩) 6 ⟨b, 2⟩ }

/-- 04 R90, R91: a sum wraps modulo 2^64, under the union of the labels. -/
theorem test_add_wraps : after (.add 0 7 5 6) (two 0xFFFFFFFFFFFFFFFF 2) (fun th => (th.sv 7, th.sl 7)) = some (1, 3) := by decide

/-- 02 Table 2.2: register 0 reads zero and discards what is written. -/
theorem test_zero_register : after (.addi 0 0 5 3) (two 9 2) (fun th => (th.sv 0, th.pc)) = some (0, 0x20004) := by decide

/-- 04 R94: the most negative number divided by minus one waits with itself as its quotient. -/
theorem test_div_overflow : ∃ p, after (.divI64 0 7 5 6) (two 0x8000000000000000 0xFFFFFFFFFFFFFFFF) (fun th => th.park.map (·.cond)) =
    some (some p) ∧ ∃ a b, p = .divide a b 7 ⟨0x8000000000000000, 3⟩ := ⟨_, rfl, _, _, rfl⟩

/-- 04 Table 4.1: a shift takes its count modulo 64. -/
theorem test_sra_count : after (.sra 0 7 5 6) (two 0x8000000000000000 65) (fun th => th.sv 7) = some 0xC000000000000000 := by decide

/-- 04 R97: the worked example, a field of 4 bits at bit 4 of 0xF0, and of 64 at bit 60. -/
theorem test_bext_example : after (.bextI 0 7 5 6) (two 0xF0 0x404) (fun th => th.sv 7) = some 0xFFFFFFFFFFFFFFFF ∧
    after (.bextN 0 7 5 6) (two 0xF0 0x403C) (fun th => th.sv 7) = some 0 := by decide

/-- 03 R55: the word in the low bits, numbered as the table numbers them, is the one decoded. -/
theorem test_decode_table_word : decodeTableWord 32 0x04044080 = some (.add 0 1 4 2) ∧ decodeTableWord 32 0 = none := ⟨rfl, rfl⟩

/-- 02 R45; 03 R54: the word placed after reset is the one that the next step runs. -/
theorem test_step_after_reset :
    (match step (State.reset.withFetchWord 32 0x1108401F) with
     | .next t => (t.thread? t.cur).map fun th => (th.landed.sv 2).toNat
     | _ => none) = some 0x1F := by decide

/-- 03: words of the family written out from their encodings. -/
theorem test_decode_int :
    decode 0x056DB700#32 = .ok (.add 1 27 27 28) ∧
    decode 0x06083101#32 = .ok (.sub 2 2 3 4) ∧
    decode 0x07AABB02#32 = .ok (.mul 3 42 43 44) ∧
    decode 0x054934C3#32 = .ok (.mulhI64 1 18 19 19) ∧
    decode 0x06E7AEC4#32 = .ok (.mulhN64 2 57 58 59) ∧
    decode 0x078628C5#32 = .ok (.divI64 3 33 34 35) ∧
    decode 0x0524A286#32 = .ok (.divN64 1 9 10 10) ∧
    decode 0x06C31C87#32 = .ok (.remI64 2 48 49 50) ∧
    decode 0x07619688#32 = .ok (.remN64 3 24 25 26) ∧
    decode 0x05001089#32 = .ok (.and 1 0 1 2) ∧
    decode 0x069E8A4A#32 = .ok (.or 2 39 40 41) ∧
    decode 0x073D044B#32 = .ok (.xor 3 15 16 17) ∧
    decode 0x05DF8E4C#32 = .ok (.andn 1 55 56 57) ∧
    decode 0x0679F80D#32 = .ok (.orn 2 30 31 32) ∧
    decode 0x0718720E#32 = .ok (.xnor 3 6 7 8) ∧
    decode 0x05BAFC0F#32 = .ok (.sll 1 46 47 48) ∧
    decode 0x065565D0#32 = .ok (.srl 2 21 22 23) ∧
    decode 0x07F7EFD1#32 = .ok (.sra 3 61 62 63) ∧
    decode 0x059669D2#32 = .ok (.rol 1 37 38 39) ∧
    decode 0x0630D393#32 = .ok (.ror 2 12 13 14) ∧
    decode 0x07D35D94#32 = .ok (.minI64 3 52 53 54) ∧
    decode 0x0571D795#32 = .ok (.maxI64 1 28 29 30) ∧
    decode 0x06104156#32 = .ok (.minN64 2 4 4 5) ∧
    decode 0x07AECB57#32 = .ok (.maxN64 3 43 44 45) ∧
    decode 0x054D4018#32 = .ok (.popc 1 19 20) ∧
    decode 0x06EFB019#32 = .ok (.clz 2 59 59) ∧
    decode 0x078A301A#32 = .ok (.ctz 3 34 35) ∧
    decode 0x0528B31B#32 = .ok (.bextN 1 10 11 12) ∧
    decode 0x06CB3CDC#32 = .ok (.bextI 2 50 51 51) ∧
    decode 0x0765A6DD#32 = .ok (.bins 3 25 26 27) ∧
    decode 0x0504201E#32 = .ok (.rev8 1 1 2) ∧
    decode 0x06A6AA9F#32 = .ok (.clmul 2 41 42 42) ∧
    decode 0x074114A0#32 = .ok (.clmulh 3 16 17 18) ∧
    decode 0x05E39EA1#32 = .ok (.sh1add 1 56 57 58) ∧
    decode 0x068218A2#32 = .ok (.sh2add 2 32 33 34) ∧
    decode 0x071C8263#32 = .ok (.sh3add 3 7 8 9) ∧
    decode 0x05BF0C64#32 = .ok (.sh4add 1 47 48 49) :=
  ⟨rfl, rfl, rfl, rfl, rfl, rfl, rfl, rfl, rfl, rfl, rfl, rfl, rfl, rfl, rfl, rfl, rfl, rfl, rfl, rfl, rfl, rfl, rfl, rfl, rfl, rfl, rfl, rfl, rfl, rfl, rfl, rfl, rfl, rfl, rfl, rfl, rfl⟩

/-- 03: words of the family written out from their encodings. -/
theorem test_decode_cmp :
    decode 0x0A1D8657#32 = .ok (.cmp 2 7 24 25 .lt .n64) :=
  rfl

/-- 03: words of the family written out from their encodings. -/
theorem test_decode_imm :
    decode 0x275C08C1#32 = .ok (.cmpi 3 .lt 7 0 0x8C1) ∧
    decode 0x293E8969#32 = .ok (.cmpin 1 .ne 7 40 0x969) ∧
    decode 0x13924BE5#32 = .ok (.addi 3 36 36 0xBE5) ∧
    decode 0x152CCC8D#32 = .ok (.andi 1 11 12 0xC8D) ∧
    decode 0x1ACF4D35#32 = .ok (.ori 2 51 52 0xD35) ∧
    decode 0x1F6DBDDC#32 = .ok (.xori 3 27 27 0xDDC) ∧
    decode 0x21083004#32 = .ok (.slli 1 2 3 4) ∧
    decode 0x22AAB22C#32 = .ok (.srli 2 42 43 44) ∧
    decode 0x23493413#32 = .ok (.srai 3 18 19 19) ∧
    decode 0x21E7A63B#32 = .ok (.roli 1 57 58 59) ∧
    decode 0x22862823#32 = .ok (.rori 2 33 34 35) ∧
    decode 0x2F27870A#32 = .ok (.lea 3 9 0x3870A) ∧
    decode 0x31C28FB1#32 = .ok (.movi 1 48 0x28FB1) :=
  ⟨rfl, rfl, rfl, rfl, rfl, rfl, rfl, rfl, rfl, rfl, rfl, rfl, rfl⟩

/-- 03: words of the family written out from their encodings. -/
theorem test_decode_prd :
    decode 0x0E188240#32 = .ok (.pand 2 6 true 0 true 1) ∧
    decode 0x0F147041#32 = .ok (.por 3 5 false 7 false 1) ∧
    decode 0x0D14F242#32 = .ok (.pxor 1 5 true 7 true 1) ∧
    decode 0x0E147003#32 = .ok (.pmov 2 5 false 7) ∧
    decode 0x0FB00004#32 = .ok (.mfpw 3 44) ∧
    decode 0x0D014005#32 = .ok (.mtpw 1 20) ∧
    decode 0x36F3DF8F#32 = .ok (.sel 2 60 61 62 true 7) :=
  ⟨rfl, rfl, rfl, rfl, rfl, rfl, rfl⟩

/-- 03: words of the family written out from their encodings. -/
theorem test_decode_branch :
    decode 0x421FC31A#32 = .ok (.br 2 0 true 0xFC31A) ∧
    decode 0x470ECBC1#32 = .ok (.call 3 0 false 0xECBC1) ∧
    decode 0x499DA9A8#32 = .ok (.brnz 1 39 0x1A9A8) ∧
    decode 0x4A3FB250#32 = .ok (.brz 2 15 0x1B250) ∧
    decode 0x4F037000#32 = .ok (.jr 3 55) ∧
    decode 0x4D79F001#32 = .ok (.jalr 1 30 31) :=
  ⟨rfl, rfl, rfl, rfl, rfl, rfl⟩

/-- 03: words of the family written out from their encodings. -/
theorem test_decode_crm :
    decode 0x521918C0#32 = .ok (.mfcr 2 6 0x463) ∧
    decode 0x53B80041#32 = .ok (.mtcr 3 46 0x001) ∧
    decode 0x51548802#32 = .ok (.mtcrs 1 21 0x220) ∧
    decode 0x52F406C3#32 = .ok (.mtcrc 2 61 0x01B) :=
  ⟨rfl, rfl, rfl, rfl⟩

/-- 03: words of the family written out from their encodings. -/
theorem test_decode_mem :
    decode 0x63966968#32 = .ok (.ld 3 37 38 .n8 0x168) ∧
    decode 0x6530D30F#32 = .ok (.st 1 12 13 .w16 0x10F) ∧
    decode 0x76D351B7#32 = .ok (.pst 2 52 53 .w8 0x1B7) ∧
    decode 0x6B71D840#32 = .ok (.lda 3 28 29 .n8 .core) ∧
    decode 0x6D1044C0#32 = .ok (.stl 1 4 4 .w32 .die) :=
  ⟨rfl, rfl, rfl, rfl, rfl⟩

/-- 03: words of the family written out from their encodings. -/
theorem test_decode_fe :
    decode 0x72AEC168#32 = .ok (.ldfeTake 2 43 44 45) ∧
    decode 0x734D42A8#32 = .ok (.ldfePeek 3 19 20 21) ∧
    decode 0x71EFB5E0#32 = .ok (.stfeFill 1 59 59 60) ∧
    decode 0x728A3600#32 = .ok (.stfeForce 2 34 35) ∧
    decode 0x7300A800#32 = .ok (.feclr 3 10) ∧
    decode 0x71CB2A00#32 = .ok (.fetst 1 50 50) :=
  ⟨rfl, rfl, rfl, rfl, rfl, rfl⟩

/-- 03: words of the family written out from their encodings. -/
theorem test_decode_atom :
    decode 0x7A65A6C0#32 = .ok (.aadd 2 25 26 27 .w32) ∧
    decode 0x7B0420E1#32 = .ok (.aand 3 1 2 3 .w64) ∧
    decode 0x79A6AA82#32 = .ok (.aor 1 41 42 42 .w32) ∧
    decode 0x7A4114A3#32 = .ok (.axor 2 16 17 18 .w64) ∧
    decode 0x7BE39E84#32 = .ok (.aminI 3 56 57 58 .w32) ∧
    decode 0x79821865#32 = .ok (.amaxI 1 32 33 33 .w64) ∧
    decode 0x7A1C8246#32 = .ok (.aminN 2 7 8 9 .w32) ∧
    decode 0x7BBF0C67#32 = .ok (.amaxN 3 47 48 49 .w64) ∧
    decode 0x795D8648#32 = .ok (.aswap 1 23 24 25 .w32) ∧
    decode 0x7AFBF029#32 = .ok (.acas 2 62 63 0 .w64) ∧
    decode 0x7B9A7A10#32 = .ok (.saddF64 3 38 39 40) ∧
    decode 0x7938F411#32 = .ok (.saddF32 1 14 15 16) ∧
    decode 0x7AD76012#32 = .ok (.sreadF64 2 53 54) ∧
    decode 0x7B75E013#32 = .ok (.sreadF32 3 29 30) ∧
    decode 0x79005194#32 = .ok (.sstore 1 5 6) :=
  ⟨rfl, rfl, rfl, rfl, rfl, rfl, rfl, rfl, rfl, rfl, rfl, rfl, rfl, rfl, rfl⟩

/-- 03: words of the family written out from their encodings. -/
theorem test_decode_vi :
    decode 0x82635DF0#32 = .ok (.vaddI 2 12 13 14 7 .n32) ∧
    decode 0x83A56DE9#32 = .ok (.vsubI 3 20 21 22 7 .n16) ∧
    decode 0x81E77DE2#32 = .ok (.vmulI 1 28 29 30 7 .n8) ∧
    decode 0x82190B9B#32 = .ok (.vmulh 2 3 4 5 6 .i64) ∧
    decode 0x835B1B94#32 = .ok (.vminI 3 11 12 13 6 .i32) ∧
    decode 0x819D2B8D#32 = .ok (.vmaxI 1 19 20 21 6 .i16) ∧
    decode 0x82DEF946#32 = .ok (.vadds 2 27 27 28 5 .i8) ∧
    decode 0x8310C97F#32 = .ok (.vsubs 3 2 3 4 5 .n64) :=
  ⟨rfl, rfl, rfl, rfl, rfl, rfl, rfl, rfl⟩

/-- 03: words of the family written out from their encodings. -/
theorem test_decode_vl :
    decode 0x8552D960#32 = .ok (.vand 1 10 11 12 5 .w32) ∧
    decode 0x8694A711#32 = .ok (.vor 2 18 18 19 4 .w16) ∧
    decode 0x87CEB702#32 = .ok (.vxor 3 25 26 27 4 .w8) ∧
    decode 0x85088733#32 = .ok (.vandn 1 1 2 3 4 .w64) ∧
    decode 0x864A94E4#32 = .ok (.vsll 2 9 10 10 3 .w32) ∧
    decode 0x878464D5#32 = .ok (.vsrl 3 16 17 18 3 .w16) ∧
    decode 0x85C674C6#32 = .ok (.vsra 1 24 25 26 3 .w8) ∧
    decode 0x860042B7#32 = .ok (.vrol 2 0 1 1 2 .w64) ∧
    decode 0x873A12A8#32 = .ok (.vror 3 7 8 9 2 .w32) ∧
    decode 0x857C0049#32 = .ok (.vpopc 1 15 16 1 .w8) ∧
    decode 0x86BE007A#32 = .ok (.vclz 2 23 24 1 .w64) ∧
    decode 0x87F7C02B#32 = .ok (.vnegL 3 30 31 0 .w32) ∧
    decode 0x8531C01C#32 = .ok (.vabsL 1 6 7 0 .w16) :=
  ⟨rfl, rfl, rfl, rfl, rfl, rfl, rfl, rfl, rfl, rfl, rfl, rfl, rfl⟩

/-- 03: words of the family written out from their encodings. -/
theorem test_decode_vf :
    decode 0x8A73E010#32 = .ok (.vaddF 2 14 15 16 0 .f32) ∧
    decode 0x8BADAE01#32 = .ok (.vsubF 3 21 22 23 0 .f64) ∧
    decode 0x89EFBE32#32 = .ok (.vmulF 1 29 30 31 0 .bf16) ∧
    decode 0x8A298E23#32 = .ok (.vfma 2 5 6 7 0 .f16) ∧
    decode 0x8B635DD4#32 = .ok (.vfms 3 12 13 14 7 .f32) ∧
    decode 0x89A56DC5#32 = .ok (.vfnma 1 20 21 22 7 .f64) ∧
    decode 0x8AE77DF6#32 = .ok (.vminF 2 28 29 30 7 .bf16) ∧
    decode 0x8B190BA7#32 = .ok (.vmaxF 3 3 4 5 6 .f16) ∧
    decode 0x895B0148#32 = .ok (.vabsF 1 11 12 5 .f64) ∧
    decode 0x8A9D0179#32 = .ok (.vnegF 2 19 20 5 .bf16) ∧
    decode 0x8BDEF97A#32 = .ok (.vdiv 3 27 27 28 5 .bf16) ∧
    decode 0x8910C11B#32 = .ok (.vsqrt 1 2 3 4 .f32) :=
  ⟨rfl, rfl, rfl, rfl, rfl, rfl, rfl, rfl, rfl, rfl, rfl, rfl⟩

/-- 03: words of the family written out from their encodings. -/
theorem test_decode_vcmp :
    decode 0x8E12D96A#32 = .ok (.vcmpInt 2 2 11 12 5 .n16 .lt) ∧
    decode 0x9314A701#32 = .ok (.vcmpFloat 3 2 18 19 4 .f64 .ne) :=
  ⟨rfl, rfl⟩

/-- 03: words of the family written out from their encodings. -/
theorem test_decode_vx :
    decode 0x95CE8000#32 = .ok (.vmov 1 25 26) ∧
    decode 0x96088601#32 = .ok (.vperm32 2 1 2 3) ∧
    decode 0x974A9402#32 = .ok (.vperm64 3 9 10 10) ∧
    decode 0x958464C3#32 = .ok (.vsel 1 16 17 18 3) ∧
    decode 0x96004408#32 = .ok (.kand 2 0 1 2) ∧
    decode 0x97004209#32 = .ok (.kor 3 0 1 1) ∧
    decode 0x9538020A#32 = .ok (.kxor 1 7 0 1) ∧
    decode 0x9638000B#32 = .ok (.knot 2 7 0) ∧
    decode 0x9738000C#32 = .ok (.kmov 3 7 0) ∧
    decode 0x95F7C050#32 = .ok (.vclmulLo32 1 30 31 0 1) ∧
    decode 0x9631D051#32 = .ok (.vclmulHi32 2 6 7 8 1) ∧
    decode 0x9773E012#32 = .ok (.vclmulLo64 3 14 15 16 0) ∧
    decode 0x95ADAE13#32 = .ok (.vclmulHi64 1 21 22 23 0) :=
  ⟨rfl, rfl, rfl, rfl, rfl, rfl, rfl, rfl, rfl, rfl, rfl, rfl, rfl⟩

/-- 03: words of the family written out from their encodings. -/
theorem test_decode_vred :
    decode 0x9AEF81E4#32 = .ok (.vradd 2 29 30 7 (.flt .f32)) ∧
    decode 0x9B2981D1#32 = .ok (.vrmin 3 5 6 7 (.int .n8)) ∧
    decode 0x996341AE#32 = .ok (.vrmax 1 12 13 6 (.flt .bf16)) :=
  ⟨rfl, rfl, rfl⟩

/-- 03: words of the family written out from their encodings. -/
theorem test_decode_vsm :
    decode 0x9EA2A180#32 = .ok (.vbcast32 2 20 21 6) ∧
    decode 0x9FE7A181#32 = .ok (.vbcast64 3 28 61 6) ∧
    decode 0x9D1C8A02#32 = .ok (.vins32 1 3 36 5) ∧
    decode 0x9E598A03#32 = .ok (.vins64 2 11 12 5) ∧
    decode 0x9F9E8A04#32 = .ok (.vext32 3 19 52 5) ∧
    decode 0x9DDB6805#32 = .ok (.vext64 1 27 27 4) :=
  ⟨rfl, rfl, rfl, rfl, rfl, rfl⟩

/-- 03: words of the family written out from their encodings. -/
theorem test_decode_vcvt :
    decode 0xA210E141#32 = .ok (.vcvt 2 2 3 true 5 0x01) ∧
    decode 0xA752D940#32 = .ok (.vscale 3 10 11 12 5 .f64) ∧
    decode 0xA59480C2#32 = .ok (.vgexp 1 18 18 3 .f64) ∧
    decode 0xA6CEB704#32 = .ok (.vmxsc 2 25 26 27 4 .e4m3) ∧
    decode 0xA7088707#32 = .ok (.vmxq 3 1 2 3 4 .e5m2) ∧
    decode 0xA54A94C8#32 = .ok (.vmxdq 1 9 10 10 3 .e4m3) :=
  ⟨rfl, rfl, rfl, rfl, rfl, rfl⟩

/-- 03: words of the family written out from their encodings. -/
theorem test_decode_vmem :
    decode 0xAA8624B4#32 = .ok (.vld 2 16 49 0x09 3 4) ∧
    decode 0xAFC3202B#32 = .ok (.vst 3 24 25 2 11) :=
  ⟨rfl, rfl⟩

/-- 03: words of the family written out from their encodings. -/
theorem test_decode_tile :
    decode 0xB1001040#32 = .ok (.tld 1 0 1 1) ∧
    decode 0xB2E28A41#32 = .ok (.tst 2 7 40 41) ∧
    decode 0xB3E00002#32 = .ok (.tzero 3 7) ∧
    decode 0xB1E00003#32 = .ok (.tmov 1 7 0) ∧
    decode 0xB2C1F004#32 = .ok (.tshape 2 6 31) ∧
    decode 0xB3C07005#32 = .ok (.tgshape 3 6 7) :=
  ⟨rfl, rfl, rfl, rfl, rfl, rfl⟩

/-- 03: words of the family written out from their encodings. -/
theorem test_decode_mma :
    decode 0xB5BB8400#32 = .ok (.mmaF64 1 46 7 (.tile 1) false) ∧
    decode 0xB6577201#32 = .ok (.mmaF32 2 21 6 (.slot 12) true) ∧
    decode 0xB7F70402#32 = .ok (.mmaBf16 3 61 6 (.tile 1) false) ∧
    decode 0xB5976A03#32 = .ok (.mmaF16 1 37 6 (.slot 10) true) ∧
    decode 0xB6328404#32 = .ok (.mmaB8 2 12 5 (.tile 1) false) ∧
    decode 0xB7D10605#32 = .ok (.mmaMxe4m3 3 52 2 (.tile 1) true) ∧
    decode 0xB5710406#32 = .ok (.mmaMxe5m2 1 28 2 (.tile 1) false) ∧
    decode 0xB60E5A08#32 = .ok (.rmmaI8 2 3 4 (.slot 6) true) ∧
    decode 0xB7AE0409#32 = .ok (.rmmaI16 3 43 4 (.tile 1) false) :=
  ⟨rfl, rfl, rfl, rfl, rfl, rfl, rfl, rfl, rfl⟩

/-- 03: words of the family written out from their encodings. -/
theorem test_decode_acc :
    decode 0xB9013000#32 = .ok (.acqa 1 19) ∧
    decode 0xBA03B001#32 = .ok (.rela 2 59) ∧
    decode 0xBB880602#32 = .ok (.ardt 3 34 3) ∧
    decode 0xB9280003#32 = .ok (.azero 1 10) :=
  ⟨rfl, rfl, rfl, rfl⟩

/-- 03: words of the family written out from their encodings. -/
theorem test_decode_rns :
    decode 0xBEC80400#32 = .ok (.rfwd 2 50 2) ∧
    decode 0xBF640401#32 = .ok (.rrevI64 3 25 2) ∧
    decode 0xBD040402#32 = .ok (.rrevI32 1 1 2) ∧
    decode 0xBEA6A003#32 = .ok (.rchk 2 41 42) ∧
    decode 0xBF010004#32 = .ok (.rodrd 3 16) ∧
    decode 0xBD038005#32 = .ok (.roddeg 1 56) :=
  ⟨rfl, rfl, rfl, rfl, rfl, rfl⟩

/-- 03: words of the family written out from their encodings. -/
theorem test_decode_thr :
    decode 0xC2821000#32 = .ok (.spawn 2 32 33) ∧
    decode 0xC3000001#32 = .ok (.exit 3) ∧
    decode 0xC1BF0002#32 = .ok (.launch 1 47 48) ∧
    decode 0xC25D8003#32 = .ok (.migr 2 23 24) ∧
    decode 0xC3F80FC4#32 = .ok (.waitq 3 62 63) ∧
    decode 0xC1026005#32 = .ok (.tgstart 1 38) ∧
    decode 0xC2380006#32 = .ok (.tgclk 2 14) :=
  ⟨rfl, rfl, rfl, rfl, rfl, rfl, rfl⟩

/-- 03: words of the family written out from their encodings. -/
theorem test_decode_sync :
    decode 0xC7000D41#32 = .ok (.bar 3 53 .core) ∧
    decode 0xC500000B#32 = .ok (.fence 1 .die) ∧
    decode 0xC6000015#32 = .ok (.bara 2 .pod) ∧
    decode 0xC7000B1A#32 = .ok (.barw 3 44 .quad) ∧
    decode 0xC55155A4#32 = .ok (.qput 1 20 21 22 .pkg) ∧
    decode 0xC6F3DFA9#32 = .ok (.qget 2 60 61 62 .core) :=
  ⟨rfl, rfl, rfl, rfl, rfl, rfl⟩

/-- 03: words of the family written out from their encodings. -/
theorem test_decode_sys :
    decode 0x57000000#32 = .ok (.rten 3) ∧
    decode 0x55000001#32 = .ok (.tret 1) ∧
    decode 0x56033002#32 = .ok (.hsave 2 51) ∧
    decode 0x5701B003#32 = .ok (.hrest 3 27) ∧
    decode 0x55002004#32 = .ok (.csave 1 2) ∧
    decode 0x5602A005#32 = .ok (.crest 2 42) ∧
    decode 0x57012006#32 = .ok (.pcommit 3 18) ∧
    decode 0x55039007#32 = .ok (.pfree 1 57) ∧
    decode 0x56862008#32 = .ok (.palloc 2 33 34) ∧
    decode 0x57009009#32 = .ok (.swtrap 3 9) :=
  ⟨rfl, rfl, rfl, rfl, rfl, rfl, rfl, rfl, rfl, rfl⟩

/-- 03: words of the family written out from their encodings. -/
theorem test_decode_lbl :
    decode 0xC9C31000#32 = .ok (.lrd 1 48 49) ∧
    decode 0xCA601001#32 = .ok (.lrdp 2 24 1) ∧
    decode 0xCB001002#32 = .ok (.lrdv 3 0 1) ∧
    decode 0xC99C0003#32 = .ok (.lrdk 1 39 0) ∧
    decode 0xCA3C0004#32 = .ok (.lrdt 2 15 0) ∧
    decode 0xCBDF8005#32 = .ok (.lrdb 3 55 56) ∧
    decode 0xC979F006#32 = .ok (.lrdg 1 30 31) ∧
    decode 0xCA006007#32 = .ok (.ljoin 2 6) ∧
    decode 0xCBBAF008#32 = .ok (.gset 3 46 47) ∧
    decode 0xC95565C9#32 = .ok (.rel 1 21 22 23) :=
  ⟨rfl, rfl, rfl, rfl, rfl, rfl, rfl, rfl, rfl, rfl⟩

/-- 03: words of the family written out from their encodings. -/
theorem test_decode_eng :
    decode 0xD2F7EFC0#32 = .ok (.btour 2 61 62 63) ∧
    decode 0xD3940981#32 = .ok (.bwait 3 37 38) ∧
    decode 0xD1300002#32 = .ok (.bpass 1 12) ∧
    decode 0xD2D35003#32 = .ok (.btag 2 52 53) ∧
    decode 0xD371D784#32 = .ok (.copy 3 28 29 30) ∧
    decode 0xD10C4145#32 = .ok (.mcast 1 3 4 5) ∧
    decode 0xD2AC0B06#32 = .ok (.join 2 43 44) ∧
    decode 0xD34D4007#32 = .ok (.poll 3 19 20) ∧
    decode 0xD1EBB008#32 = .ok (.bbset 1 58 59) ∧
    decode 0xD28808C9#32 = .ok (.bbwait 2 34 35) :=
  ⟨rfl, rfl, rfl, rfl, rfl, rfl, rfl, rfl, rfl, rfl⟩

/-- 03: words of the family written out from their encodings. -/
theorem test_decode_hint :
    decode 0xFF000000#32 = .ok (.nop 3) ∧
    decode 0xFD04ACF2#32 = .ok (.sig 1 0xACF2) ∧
    decode 0xFE08B599#32 = .ok (.schedTrip 2 0xB599) ∧
    decode 0xFF090000#32 = .ok (.schedBias 3 false) ∧
    decode 0xFC1E1C28#32 = .ok (.limm 0xE1C28) ∧
    decode 0xFC200002#32 = .ok (.rnd .rup) ∧
    decode 0xFC240000#32 = .ok .sround ∧
    decode 0xFC28001D#32 = .ok (.spar 7 .of4) ∧
    decode 0xFC2C0000#32 = .ok (.itinOpts false) ∧
    decode 0xFFFF9CF0#32 = .ok (.reservedHint 3 15 0x39CF0) :=
  ⟨rfl, rfl, rfl, rfl, rfl, rfl, rfl, rfl, rfl, rfl⟩

/-! ### States that meet the hypotheses of the statements -/

theorem meets_ScalarResults :
    (∃ (i : Instr) (s : State) (th : Thread) (d : SReg) (x : Word) (l : Label), Issues i s th ∧ Rules.scalar th i = some (d, x, l)) ∧
    (∃ (i : Instr) (s : State) (th : Thread) (d : SReg) (x : Word) (l : Label),
      Issues i s th ∧ Rules.scalarLate th i = some (d, x, l)) :=
  ⟨⟨.add 0 1 2 3, on worker, _, _, _, _, issues rfl, rfl⟩, ⟨.mulhI64 0 1 2 3, on worker, _, _, _, _, issues rfl, rfl⟩⟩

theorem meets_DividesPark : ∃ (i : Instr) (s : State) (th : Thread) (d : SReg) (x : Word) (l : Label),
    Issues i s th ∧ Rules.divide th i = some (d, x, l) := ⟨.divI64 0 1 2 3, on worker, _, _, _, _, issues rfl, rfl⟩

theorem meets_PredicateResults :
    (∃ (i : Instr) (s : State) (th : Thread) (p : PReg) (x : Bool) (l : Label), Issues i s th ∧ Rules.predicate th i = some (p, x, l)) ∧
    (∃ (st : Stall) (a : SReg) (s : State) (th : Thread), Issues (.mtpw st a) s th) :=
  ⟨⟨.pand 0 1 false 2 false 3, on worker, _, _, _, _, issues rfl, rfl⟩, ⟨0, 1, on worker, _, issues rfl⟩⟩

theorem meets_ControlTransfers :
    (∃ (i : Instr) (s : State) (th : Thread) (taken : Bool) (l : Label) (off : Int),
      Issues i s th ∧ Rules.branch th i = some (taken, l, off)) ∧
    (∃ (st : Stall) (p : PReg) (n : Bool) (o : BitVec 20) (s : State) (th : Thread), Issues (.call st p n o) s th ∧
      (th.sbc = true → th.pv n p = true →
        (∀ w ∈ th.pend, w.dest = .s 63 → w.due ≤ s.rot) ∧ ∀ x ∈ th.sched, .s 63 ∈ x.dests → x.due ≤ s.rot)) ∧
    (∃ (st : Stall) (p : PReg) (n : Bool) (o : BitVec 20) (s : State) (th : Thread) (w : PendWrite), Issues (.call st p n o) s th ∧
      th.sbc = true ∧ th.pv n p = true ∧ th.pend = [w] ∧ w.dest = .s 63 ∧ s.rot < w.due) ∧
    (∃ (st : Stall) (p : PReg) (n : Bool) (o : BitVec 20) (s : State) (th : Thread) (x : Sched), Issues (.call st p n o) s th ∧
      th.sbc = true ∧ th.pv n p = true ∧ th.pend = [] ∧ th.sched = [x] ∧ .s 63 ∈ x.dests ∧ s.rot < x.due) ∧
    (∃ (st : Stall) (a : SReg) (s : State) (th : Thread), Issues (.jr st a) s th ∧ (th.sv a).toNat % 4 = 0 ∧ (th.sv a).toNat < 2 ^ 56) ∧
    (∃ (st : Stall) (d a : SReg) (s : State) (th : Thread),
      Issues (.jalr st d a) s th ∧ (th.sv a).toNat % 4 = 0 ∧ (th.sv a).toNat < 2 ^ 56) ∧
    (∃ (st : Stall) (d a : SReg) (s : State) (th : Thread),
      ((th.sv a).toNat % 4 ≠ 0 ∨ 2 ^ 56 ≤ (th.sv a).toNat) ∧ Issues (.jr st a) s th ∧ Issues (.jalr st d a) s th) :=
  ⟨⟨.brz 0 1 4, on worker, _, _, _, _, issues rfl, rfl⟩, ⟨0, 0, false, 8, on worker, _, issues rfl, fun h => nomatch h⟩,
    ⟨0, 0, false, 8, on { worker with sbc := true, pend := [⟨.s 63, .s ⟨1, 0⟩, 3, 0, 0, 0x1FFFC, 1⟩] }, _, _, issues rfl, rfl, rfl, rfl, rfl,
      by decide⟩,
    ⟨0, 0, false, 8, on { worker with sbc := true, sched := [⟨0, 3, ⟨0, [], none, [], [], [], .ack⟩, [.s 63], 0x1FFFC, 0x1FFFC, 1⟩] }, _, _,
      issues rfl, rfl, rfl, rfl, rfl, .head _, by decide⟩,
    ⟨0, 1, on (workerWith 1 0xFFFFFFFFFFFFFC), _, issues rfl, by decide, by decide⟩,
    ⟨0, 2, 1, on (workerWith 1 0), _, issues rfl, by decide, by decide⟩,
    ⟨0, 2, 1, on (workerWith 1 0x100000000000000), _, .inr (by decide), issues rfl, issues rfl⟩⟩

theorem meets_HintsDoNothing : ∃ (i : Instr) (s : State) (th : Thread), Issues i s th ∧
    ((∃ st, i = .nop st) ∨ (∃ st n, i = .schedTrip st n) ∨ (∃ st b, i = .schedBias st b) ∨ (∃ st k p, i = .reservedHint st k p)) :=
  ⟨.nop 0, on worker, _, issues rfl, .inl ⟨0, rfl⟩⟩

theorem meets_SignatureWords :
    (∃ (st : Stall) (g : BitVec 16) (s : State) (th : Thread), Issues (.sig st g) s th ∧ th.flint = g) ∧
    (∃ (st : Stall) (g : BitVec 16) (s : State) (th : Thread), Issues (.sig st g) s th ∧ th.flint ≠ g ∧ th.lastBad ≠ some th.pc) :=
  ⟨⟨0, 0xFFFF, on worker, _, issues rfl, rfl⟩, ⟨0, 0, on worker, _, issues rfl, by decide, by decide⟩⟩

theorem meets_PrefixesJoin :
    (∃ (i : Instr) (s : State) (th : Thread) (c c' : Chain), Issues i s th ∧
      c = th.chain.getD ⟨th.pc, [], none, none, false, none, none⟩ ∧
      (∃ l, i = .limm l ∧ c.limm = none ∧ c' = { c with limm := some l, words := c.words ++ [encode i] })) ∧
    (∃ (s : State) (x th : Thread), s.thread? s.cur = some x ∧ x.again = none ∧ (x.settle s.rot).strayed = none ∧
      th = (x.settle s.rot).landed ∧ (th.kind = .control ∨ th.kind = .migrant) ∧ (∀ c, th.chain = some c → c.spar = none)) :=
  ⟨⟨.limm 5, on worker, _, _, _, issues rfl, rfl, 5, rfl, rfl, rfl⟩,
    ⟨on { worker with kind := .control }, _, _, rfl, rfl, rfl, rfl, .inl rfl, fun _ h => nomatch h⟩⟩

/-- `calm`, as a test. -/
theorem calm {r : Rules.VectorResult} {th : Thread}
    (h : decide (∀ e, e < r.low → r.takes th e = true → (r.value e).2 &&& th.fpEnable = 0) = true) : r.calm th :=
  fun e h1 h2 => (of_decide_eq_true h : ∀ e, e < r.low → r.takes th e = true → (r.value e).2 &&& th.fpEnable = 0) e h1 h2

theorem meets_VectorResults :
    (∃ (i : Instr) (s : State) (th : Thread) (r : Rules.VectorResult),
      Issues i s th ∧ Rules.vector th i = some r ∧ (Rules.tags th i).all (·.2.1) = true ∧ r.calm th) ∧
    (∃ (i : Instr) (s : State) (th : Thread) (r : Rules.VectorResult),
      Issues i s th ∧ Rules.vector th i = some r ∧ (Rules.tags th i).all (·.2.1) = true ∧ ¬ r.calm th) ∧
    (∃ (q : Rnd) (n rem sh : Nat) (e : Int), q.mode = .rne ∧ q.draw 0 = none ∧ 2 ^ 23 ≤ n ∧ n < 2 ^ 24 ∧ rem < 2 ^ sh ∧ -149 ≤ e) ∧
    (∃ (a b : Nat) (g g' : Bool) (m m' : Nat) (e e' : Int), numOf fp32 a = .fin g m e ∧ numOf fp32 b = .fin g' m' e' ∧ m ≠ 0 ∧ m' ≠ 0) :=
  ⟨⟨.vaddI 0 1 2 3 0 .i32, on { worker with v := Vector.replicate 32 ⟨0, 0x03, 0⟩ }, _, _, issues rfl, rfl, rfl, calm rfl⟩,
    ⟨.vmaxF 0 1 2 3 0 .f32, on { worker with fpc := 0xF8, v := Vector.replicate 32 ⟨0x7F800001, 0x0A, 0⟩ }, _, _, issues rfl, rfl, rfl,
      fun h => absurd (h 0 (by decide) rfl) (by decide)⟩,
    ⟨⟨.rne, fun _ => none⟩, 2 ^ 23, 3, 2, -149, rfl, rfl, by decide, by decide, by decide, by decide⟩,
    ⟨0x3F800000, 0x3F800001, _, _, _, _, _, _, rfl, rfl, by decide, by decide⟩⟩

theorem meets_TagTraps : ∃ (i : Instr) (s : State) (th : Thread) (r : VReg) (req : Nat),
    Issues i s th ∧ (Rules.tags th i).find? (fun c => !c.2.1) = some (r, false, req) :=
  ⟨.vaddF 0 1 2 3 0 .f32, on { worker with v := Vector.replicate 32 ⟨0, 0x03, 0⟩ }, _, _, _, issues rfl, rfl⟩

theorem meets_VectorDividesPark : ∃ (i : Instr) (s : State) (th : Thread) (r : Rules.VectorResult),
    Issues i s th ∧ Rules.slowVector th i = some r ∧ (Rules.tags th i).all (·.2.1) = true :=
  ⟨.vsqrt 0 1 2 0 .f32, on { worker with v := Vector.replicate 32 ⟨0, 0x0A, 0⟩ }, _, _, issues rfl, rfl, rfl⟩

theorem meets_MaskWords :
    (∃ (i : Instr) (s : State) (th : Thread) (d : KReg) (x : BitVec 16) (l : Label), Issues i s th ∧ Rules.mask th i = some (d, x, l)) ∧
    (∃ (i : Instr) (s : State) (th : Thread) (r : Rules.CompareResult),
      Issues i s th ∧ Rules.compare th i = some r ∧ (Rules.tags th i).all (·.2.1) = true ∧ r.calm th) ∧
    (∃ (i : Instr) (s : State) (th : Thread) (r : Rules.CompareResult),
      Issues i s th ∧ Rules.compare th i = some r ∧ (Rules.tags th i).all (·.2.1) = true ∧ ¬ r.calm th) :=
  ⟨⟨.kxor 0 1 2 3, on worker, _, _, _, _, issues rfl, rfl⟩,
    ⟨.vcmpInt 0 1 2 3 0 .i32 .lt, on { worker with v := Vector.replicate 32 ⟨0, 0x03, 0⟩ }, _, _, issues rfl, rfl, rfl,
      fun _ _ _ => BitVec.zero_and⟩,
    ⟨.vcmpFloat 0 1 2 3 0 .f32 .lt, on { worker with fpc := 0xF8, v := Vector.replicate 32 ⟨0x7F800001, 0x0A, 0⟩ }, _, _, issues rfl,
      rfl, rfl, fun h => absurd (h 0 (by decide) rfl) (by decide)⟩⟩

/-- The machine with the scopes above .core capped, and demoted or not. -/
def capped (dem : Bool) (s : State) : State := s.modPP 0 fun p => { p with scopeCap := 1, scopeDem := dem }

theorem meets_LocalAccesses :
    (∃ (i : Instr) (s t : State) (th : Thread) (r : Rules.AccessRule) (p : Place),
      Issues i s th ∧ Rules.access th i = some r ∧ Local s th r.q r.va p t ∧ Rules.Completes s th r p t) ∧
    (∃ (i : Instr) (s : State) (th : Thread) (r : Rules.AccessRule) (c : Scope), Issues i s th ∧ Rules.access th i = some r ∧
      r.scope = some c ∧ (s.pp th.part).scopeCap.toNat < scopeCode c ∧ (s.pp th.part).scopeDem = false) ∧
    (∃ (i : Instr) (s u t : State) (th : Thread) (r r' : Rules.AccessRule) (p : Place) (c c' : Scope), Issues i s th ∧
      Rules.access th i = some r ∧ r.scope = some c ∧ (s.pp th.part).scopeCap.toNat < scopeCode c ∧ Rules.runsAt s th c c' u ∧
      r' = { r with scope := none, release := r.release.map fun _ => c' } ∧ Local u th r.q r.va p t ∧ Rules.Completes u th r' p t) :=
  ⟨⟨.stl 0 5 6 .w64 .sys, on (workerWith 6 0x1000), _, _, _, _, issues rfl, rfl, stays rfl, completes rfl⟩,
    ⟨.stl 0 5 6 .w64 .sys, capped false (on (workerWith 6 0x1000)), _, _, .sys, issues rfl, rfl, rfl, by decide, rfl⟩,
    ⟨.stl 0 5 6 .w64 .sys, capped true (on (workerWith 6 0x1000)), (capped true (on (workerWith 6 0x1000))).modPCore 0 0 fun p => { p with dmtd := true }, _, _, _, _,
      _, .sys, .core, issues rfl, rfl, rfl, by decide, .inr ⟨by decide, rfl, rfl, rfl⟩, rfl,
      stays (s := (capped true (on (workerWith 6 0x1000))).modPCore 0 0 fun p => { p with dmtd := true }) rfl,
      completes (s := (capped true (on (workerWith 6 0x1000))).modPCore 0 0 fun p => { p with dmtd := true }) rfl⟩⟩

/-- `Rules.Leaves`, as a test. -/
def canLeave (s : State) (r : Rules.AccessRule) : Bool :=
  let p := placeAt s r.q r.va
  let t := (reach s r.q r.va).1
  passes (reach s r.q r.va) && !p.here &&
  (match r.scope with | none => true | some c => decide (scopeCode c ≤ (s.pp (found s).part).scopeCap.toNat)) &&
  (match r.release with | none => true | some c => !s.openIn s.cur (found s) c && decide ((found s).hostDirty = [])) &&
  (!r.waits || s.entryFree s.cur (found s).part) &&
  (decide (r.q ≠ { kind := 2, size := 64 }) || (decide (r.va.toNat % 64 = 0) && decide (r.va.toNat < 2 ^ 56))) &&
  (match r.lv with
    | none => true
    | some lv => !p.egress && (decide (spaceOf p.pa = 1) || decide (lv &&& ~~~(t.labelAt p.pa p.leaf.lab) = 0)))

theorem leaves {s : State} {r : Rules.AccessRule} (h : canLeave s r = true) :
    Rules.Leaves s (found s) r (placeAt s r.q r.va) (reach s r.q r.va).1 := by
  unfold canLeave at h
  simp only [Bool.and_eq_true, Bool.or_eq_true, Bool.not_eq_true', decide_eq_true_eq] at h
  obtain ⟨⟨⟨⟨⟨⟨h1, h2⟩, h3⟩, h4⟩, h5⟩, h6⟩, h7⟩ := h
  refine ⟨passed h1, h2, ?_, ?_, ?_, fun hq => h6.resolve_left (fun hn => hn hq), ?_⟩
  · intro c hc; rw [hc] at h3; exact of_decide_eq_true h3
  · intro c hc; rw [hc] at h4
    simp only [Bool.and_eq_true, decide_eq_true_eq, Bool.not_eq_true'] at h4
    exact ⟨h4.1, fun _ => h4.2⟩
  · intro hw; rw [hw] at h5; exact h5.resolve_left (by decide)
  · intro lv hl; rw [hl] at h7
    simp only [Bool.and_eq_true, Bool.or_eq_true, Bool.not_eq_true', decide_eq_true_eq] at h7
    exact ⟨fun he => absurd (h7.1.symm.trans he) (by decide), fun hn => h7.2.resolve_left hn⟩

/-- What the second part of `PlacedAccesses` asks of every clause of it. -/
structure Sends (i : Instr) (s u t v : State) (th : Thread) (r : Rules.AccessRule) (p : Place) (a : Rules.Ask) : Prop where
  issues : Issues i s th
  rule : Rules.outward th i = some r
  asks : Rules.asks th (if s.away p.leaf = true then none else s.redFmt th.part p.pa p.leaf.sc) i = some a
  same : Rules.placed th i = none → u = s
  placed : ∀ x, Rules.placed th i = some x → ∃ q, s.check (whoIs s.cur th) r.q r.va = (u, .ok q) ∧
    (r.q.size = 1 → r.va.toNat % 64 = 0 ∧ spaceOf q.pa = 1) ∧ (r.q.size = 8 → q.leaf.rp = none → u.isPlain th.part q = true)
  leaves : Rules.Leaves u th r p t
  state : v = Rules.touched s th r p t

/-- A load from 0x8000 on HBM. -/
theorem sends_load {s : State} {r : Rules.AccessRule} {a : Rules.Ask} (h1 : canIssue (.ld 0 5 6 .i64 0) s = true)
    (h2 : Rules.outward (found s) (.ld 0 5 6 .i64 0) = some r)
    (h3 : Rules.asks (found s) (if s.away (placeAt s r.q r.va).leaf = true then none
      else s.redFmt (found s).part (placeAt s r.q r.va).pa (placeAt s r.q r.va).leaf.sc) (.ld 0 5 6 .i64 0) = some a)
    (h4 : canLeave s r = true) :
    Sends (.ld 0 5 6 .i64 0) s s (reach s r.q r.va).1 (Rules.touched s (found s) r (placeAt s r.q r.va) (reach s r.q r.va).1) (found s) r
      (placeAt s r.q r.va) a :=
  ⟨Tests.issues h1, h2, h3, fun _ => rfl, (fun _ h => nomatch h), leaves h4, rfl⟩

/-- A thread whose range entry maps VA 0 to 0x40000 on the local store of core 1. -/
def abroad (kind : Kind) : State :=
  { on { workerWith 6 0x8000 with kind := kind } with mem := [(0x100A, 4), (0x1014, 4), (0x1016, 4), (0x1018, 35)] }

/-- The worker with every entry that it may take open. -/
def journalFull : State :=
  (afar (workerWith 6 0x8000)).modCore 0 fun c => { c with journal := (nums 8).map fun n => opened n (.hbm 1) }

theorem meets_PlacedAccesses :
    (∃ (i : Instr) (s u t : State) (th : Thread) (r : Rules.AccessRule) (p : Place),
      Issues i s th ∧ Rules.placed th i = some r ∧ s.check (whoIs s.cur th) r.q r.va = (u, .ok p) ∧ Local u th r.q r.va p t ∧
      Rules.Completes u th r p t ∧ (r.q.size = 1 → r.va.toNat % 64 = 0)) ∧
    (∃ (i : Instr) (s u t v : State) (th : Thread) (r : Rules.AccessRule) (p : Place) (a : Rules.Ask) (c : Nat),
      Sends i s u t v th r p a ∧ Rules.ships s th p c) ∧
    (∃ (i : Instr) (s u t v : State) (th : Thread) (r : Rules.AccessRule) (p : Place) (a : Rules.Ask), Sends i s u t v th r p a ∧
      (∀ c, ¬ Rules.ships s th p c) ∧ t.homeBusy s.cur th [p.home] = true ∧ ∃ j ∈ t.openEntries s.cur th, j.home = p.home) ∧
    (∃ (i : Instr) (s u t v : State) (th : Thread) (r : Rules.AccessRule) (p : Place) (a : Rules.Ask), Sends i s u t v th r p a ∧
      (∀ c, ¬ Rules.ships s th p c) ∧ t.homeBusy s.cur th [p.home] = true ∧ ∀ j ∈ t.openEntries s.cur th, j.home ≠ p.home) ∧
    (∃ (i : Instr) (s u t v : State) (th : Thread) (r : Rules.AccessRule) (p : Place) (a : Rules.Ask), Sends i s u t v th r p a ∧
      (∀ c, ¬ Rules.ships s th p c) ∧ t.homeBusy s.cur th [p.home] = false ∧ v.isTimed s.cur th = false) ∧
    (∃ (i : Instr) (s u t v : State) (th : Thread) (r : Rules.AccessRule) (p : Place) (a : Rules.Ask), Sends i s u t v th r p a ∧
      (∀ c, ¬ Rules.ships s th p c) ∧ t.homeBusy s.cur th [p.home] = false ∧ a.wait.isSome = true) ∧
    (∃ (i : Instr) (s u t v : State) (th : Thread) (r : Rules.AccessRule) (p : Place) (a : Rules.Ask) (n : Nat) (g : TGroup),
      Sends i s u t v th r p a ∧ (∀ c, ¬ Rules.ships s th p c) ∧ t.homeBusy s.cur th [p.home] = false ∧ a.wait = none ∧
      v.isTimed s.cur th = true ∧ th.timed = some n ∧ nget s.tgroups n = some g ∧
      (∀ d ∈ Rules.answerDest a.cont, (∀ w ∈ th.pend, w.dest ≠ d) ∧ ∀ y ∈ th.sched, d ∉ y.dests)) ∧
    (∃ (st : Stall) (d a : SReg) (w : Wid) (o : BitVec 9) (s t : State) (th : Thread) (r : Rules.AccessRule) (p : Place),
      Issues (.pst st d a w o) s th ∧ r = Rules.store th d a w (th.sv a + BitVec.ofInt 64 (immS th.chain o)) ∧ Rules.Leaves s th r p t ∧
      ∃ y ∈ th.sched, y.acc.outstanding ≠ 0 ∧ p.home ∈ y.acc.homes) ∧
    (∃ (st : Stall) (d a : SReg) (w : Wid) (o : BitVec 9) (s t : State) (th : Thread) (r : Rules.AccessRule) (p : Place),
      Issues (.pst st d a w o) s th ∧ r = Rules.store th d a w (th.sv a + BitVec.ofInt 64 (immS th.chain o)) ∧ Rules.Leaves s th r p t ∧
      (∀ y ∈ th.sched, y.acc.outstanding ≠ 0 → p.home ∉ y.acc.homes) ∧
      ∀ n ∈ Rules.entries t th, ∃ j ∈ (t.core (coreOf s.cur)).journal, j.num = n) ∧
    (∃ (st : Stall) (d a : SReg) (w : Wid) (o : BitVec 9) (s t : State) (th : Thread) (r : Rules.AccessRule) (p : Place),
      Issues (.pst st d a w o) s th ∧ r = Rules.store th d a w (th.sv a + BitVec.ofInt 64 (immS th.chain o)) ∧ Rules.Leaves s th r p t ∧
      (∀ y ∈ th.sched, y.acc.outstanding ≠ 0 → p.home ∉ y.acc.homes) ∧
      ∃ n ∈ Rules.entries t th, ∀ j ∈ (t.core (coreOf s.cur)).journal, j.num ≠ n) :=
  ⟨⟨.join 0 5 9, on (workerWith 5 0x1000), _, _, _, _, _, issues rfl, rfl, passed rfl, stays (s := (reach _ _ _).1) rfl,
      completes (s := (reach _ _ _).1) rfl, fun _ => by decide⟩,
    ⟨_, abroad .migrant, _, _, _, _, _, _, _, 1, sends_load rfl rfl rfl rfl, rfl, rfl, by decide, rfl⟩,
    ⟨_, (afar (workerWith 6 0x8000)).modCore 0 fun c => { c with journal := [opened 0 (.hbm 128)] }, _, _, _, _, _, _, _,
      sends_load rfl rfl rfl rfl, (fun _ h => nomatch h.1), rfl, opened 0 (.hbm 128), .head _, rfl⟩,
    ⟨_, afar { workerWith 6 0x8000 with sched := [{ late with due := 9, acc := { late.acc with pas := [(.hbm 128, 0x8000, false)] } }] }, _, _, _, _,
      _, _, _, sends_load rfl rfl rfl rfl, (fun _ h => nomatch h.1), rfl, fun _ h => nomatch h⟩,
    ⟨_, afar (workerWith 6 0x8000), _, _, _, _, _, _, _, sends_load rfl rfl rfl rfl, (fun _ h => nomatch h.1), rfl, rfl⟩,
    ⟨.ldfePeek 0 5 6 9, abroad .compute, abroad .compute, _, _, _, _, _, _,
      ⟨issues rfl, rfl, rfl, fun _ => rfl, (fun _ h => nomatch h), leaves rfl, rfl⟩, (fun _ h => nomatch h.1), rfl, rfl⟩,
    ⟨_, { timed (workerWith 6 0x8000) group 17 with mem := (afar worker).mem }, _, _, _, _, _, _, _, 3, group, sends_load rfl rfl rfl rfl,
      (fun _ h => nomatch h.1), rfl, rfl, rfl, rfl, rfl, fun _ _ => ⟨(fun _ h => nomatch h), fun _ h => nomatch h⟩⟩,
    ⟨0, 5, 6, .w64, 0, afar { workerWith 6 0x8000 with sched := [{ late with acc := { late.acc with homes := [.hbm 128] } }] }, _, _, _, _,
      issues rfl, rfl, leaves rfl, _, .head _, by decide, .head _⟩,
    ⟨0, 5, 6, .w64, 0, journalFull, _, _, _, _, issues rfl, rfl, leaves rfl, (fun _ h => nomatch h), of_decide_eq_true rfl⟩,
    ⟨0, 5, 6, .w64, 0, afar (workerWith 6 0x8000), _, _, _, _, issues rfl, rfl, leaves rfl, (fun _ h => nomatch h), 0, .head _, fun _ h => nomatch h⟩⟩


/-! #### Lines, tiles, queues -/

theorem meets_LineAccesses :
    (∃ (st : Stall) (d : VReg) (a : SReg) (g : Tag) (k : KReg) (o : BitVec 4) (s t : State) (th : Thread) (p : Place),
      Issues (.vld st d a g k o) s th ∧ Local s th (Rules.lineWant 0 k) (Rules.lineAddr th a o) p t ∧ t.isPoisoned p.pa 64 = false) ∧
    (∃ (st : Stall) (d : VReg) (a : SReg) (k : KReg) (o : BitVec 4) (s t : State) (th : Thread) (p : Place),
      Issues (.vst st d a k o) s th ∧ Local s th (Rules.lineWant 1 k) (Rules.lineAddr th a o) p t ∧
      t.redFmt th.part p.pa p.leaf.sc = none ∧ Rules.Completes s th (Rules.lineStore th d a k o) p t) ∧
    (∃ (st : Stall) (d : VReg) (a : SReg) (k : KReg) (o : BitVec 4) (s t : State) (th : Thread) (p : Place) (f : Nat),
      Issues (.vst st d a k o) s th ∧ Local s th (Rules.lineWant 1 k) (Rules.lineAddr th a o) p t ∧
      t.redFmt th.part p.pa p.leaf.sc = some f ∧ Rules.Completes s th (Rules.lineReduce th d a o f) p t) :=
  ⟨⟨0, 1, 6, 0x0A, 1, 0, on (workerWith 6 0x1000), _, _, _, issues rfl, stays rfl, rfl⟩,
    ⟨0, 1, 6, 1, 7, on (workerWith 6 0x1000), _, _, _, issues rfl, stays rfl, rfl, completes rfl⟩,
    ⟨0, 1, 6, 0, 0, (on (workerWith 6 0x1000)).modPP 0 fun p => { p with redWin := vset p.redWin 0 0x4000000000102 }, _, _, _, 1,
      issues rfl, stays rfl, rfl, completes rfl⟩⟩

/-- The pieces of a tile access checked. -/
def reachAll (s : State) (q : Want) (l : List (Word × Nat × Nat)) : State × Except XFail (List Place) :=
  s.checkAll (whoIs s.cur (found s)) q (l.map fun x => (x.1, x.2.2))

/-- The places that they reach. -/
def placesOf : Except XFail (List Place) → List Place
  | .ok p => p
  | .error _ => []

/-- `Rules.TileHere`, as a test. -/
def canTile (s : State) (q : Want) (l : List (Word × Nat × Nat)) : Bool :=
  let x := reachAll s q l
  (match x.2 with | .ok _ => true | .error _ => false) &&
  decide (∀ p ∈ placesOf x.2, p.here = true ∧ p.home = .core (coreOf s.cur) ∧ spaceOf p.pa = 1 ∧ p.egress = false ∧ p.leaf.rp = none ∧
    areaOf (x.1.pdie (dieOf (coreOf s.cur)) (found s).part) (p.pa % 2 ^ 19) = .plain) &&
  decide (∀ y ∈ l.zip (placesOf x.2), x.1.isPoisoned y.2.pa y.1.2.2 = false) &&
  !x.1.homeBusy s.cur (found s) [.core (coreOf s.cur)] && decide (x.1.waiters = [])

theorem tiles {s : State} {q : Want} {l : List (Word × Nat × Nat)} (h : canTile s q l = true) :
    Rules.TileHere s (found s) q l (placesOf (reachAll s q l).2) (reachAll s q l).1 := by
  unfold canTile at h
  simp only [Bool.and_eq_true, decide_eq_true_eq, Bool.not_eq_true'] at h
  obtain ⟨⟨⟨⟨h1, h2⟩, h3⟩, h4⟩, h5⟩ := h
  refine ⟨?_, h2, h3, h4, h5⟩
  change reachAll s q l = _
  revert h1
  generalize reachAll s q l = x
  obtain ⟨t, r⟩ := x
  cases r with
  | ok p => intro _; rfl
  | error f => intro h; cases h

/-- A worker with a tile of one FP32 element in t1, at s6. -/
def tiler : Thread := { workerWith 6 0x1000 with ts := vset worker.ts 1 0xA0081#32 }

theorem meets_TileAccesses :
    (∃ (st : Stall) (d : TReg) (a b : SReg) (s t : State) (th : Thread) (ps : List Place), Issues (.tld st d a b) s th ∧
      tsRows (th.tsreg d) ≠ 0 ∧ tsCols (th.tsreg d) ≠ 0 ∧ Rules.tileLen (th.tsreg d) ≤ 2048 ∧
      (th.sv a).toNat % Rules.tileElem (th.tsreg d) = 0 ∧ (th.sv b).toNat % Rules.tileElem (th.tsreg d) = 0 ∧
      Rules.TileHere s th { kind := 0, size := 64, slotRead := true } (Rules.tileWhole (th.tsreg d) (th.sv a) (th.sv b)) ps t) ∧
    (∃ (st : Stall) (d : TReg) (a b : SReg) (s t : State) (th : Thread) (ps : List Place), Issues (.tst st d a b) s th ∧
      tsRows (th.tsreg d) ≠ 0 ∧ tsCols (th.tsreg d) ≠ 0 ∧
      (th.sv a).toNat % Rules.tileElem (th.tsreg d) = 0 ∧ (th.sv b).toNat % Rules.tileElem (th.tsreg d) = 0 ∧
      Rules.TileHere s th { kind := 1, size := 64 } (Rules.tileWhole (th.tsreg d) (th.sv a) (th.sv b)) ps t ∧
      (∀ p ∈ ps, p.leaf.mx = true ∨ ((th.treg d).lab ||| th.sl a ||| th.sl b ||| th.ctxl) &&& ~~~(t.blockLabel p.pa) = 0)) ∧
    (∃ (st : Stall) (d : TReg) (a b : SReg) (s t : State) (th : Thread) (ps : List Place), Issues (.tst st d a b) s th ∧
      tsRows (th.tsreg d) ≠ 0 ∧ tsCols (th.tsreg d) ≠ 0 ∧
      (th.sv a).toNat % Rules.tileElem (th.tsreg d) = 0 ∧ (th.sv b).toNat % Rules.tileElem (th.tsreg d) = 0 ∧
      Rules.TileHere s th { kind := 1, size := 64 } (Rules.tileWhole (th.tsreg d) (th.sv a) (th.sv b)) ps t ∧
      (∀ p ∈ ps, p.leaf.mx = false ∧ ((th.treg d).lab ||| th.sl a ||| th.sl b ||| th.ctxl) &&& ~~~(t.blockLabel p.pa) = 0)) :=
  ⟨⟨0, 1, 6, 7, on tiler, _, _, _, issues rfl, by decide, by decide, by decide, by decide, by decide, tiles rfl⟩,
    ⟨0, 1, 6, 7, on tiler, _, _, _, issues rfl, by decide, by decide, by decide, by decide, tiles rfl, of_decide_eq_true rfl⟩,
    ⟨0, 1, 6, 7, { base 3 with threads := [(1, tiler)] }, _, _, _, issues rfl, by decide, by decide, by decide, by decide, tiles rfl,
      of_decide_eq_true rfl⟩⟩

theorem meets_TileRegisters :
    (∃ (st : Stall) (d : TReg) (s : State) (th : Thread), Issues (.tzero st d) s th) ∧
    (∃ (st : Stall) (d a : TReg) (s : State) (th : Thread), Issues (.tmov st d a) s th ∧ d = a) ∧
    (∃ (st : Stall) (d a : TReg) (s : State) (th : Thread), Issues (.tmov st d a) s th ∧ d ≠ a) ∧
    (∃ (st : Stall) (d : TReg) (a : SReg) (s : State) (th : Thread) (x : BitVec 32), Issues (.tshape st d a) s th ∧
      x = (th.sv a).setWidth 32 ∧ tsRows x ≤ 64 ∧ tsCols x ≤ 64 ∧ tagAssigned (tsFmt x) = true ∧ Rules.tileLen x ≤ 2048) ∧
    (∃ (st : Stall) (d : TReg) (a : SReg) (s : State) (th : Thread) (x : BitVec 32), Issues (.tshape st d a) s th ∧
      x = (th.sv a).setWidth 32 ∧
      (64 < tsRows x ∨ 64 < tsCols x ∨ tagAssigned (tsFmt x) = false ∨ 2048 < Rules.tileLen x)) ∧
    (∃ (st : Stall) (d : TReg) (a : SReg) (s : State) (th : Thread), Issues (.tgshape st d a) s th ∧
      tsRows (th.tsreg d) ≠ 0 ∧ tsCols (th.tsreg d) ≠ 0) ∧
    (∃ (st : Stall) (d : TReg) (a : SReg) (s : State) (th : Thread), Issues (.tgshape st d a) s th ∧
      (tsRows (th.tsreg d) = 0 ∨ tsCols (th.tsreg d) = 0)) :=
  ⟨⟨0, 1, on worker, _, issues rfl⟩, ⟨0, 1, 1, on worker, _, issues rfl, rfl⟩, ⟨0, 1, 2, on worker, _, issues rfl, by decide⟩,
    ⟨0, 1, 6, on (workerWith 6 0xA0440), _, _, issues rfl, rfl, by decide, by decide, rfl, by decide⟩,
    ⟨0, 1, 6, on (workerWith 6 0xA0441), _, _, issues rfl, rfl, .inl (by decide)⟩,
    ⟨0, 1, 2, on tiler, _, issues rfl, by decide, by decide⟩, ⟨0, 1, 2, on worker, _, issues rfl, .inl (by decide)⟩⟩

/-- A ring of one element at 0x1000 of the local store, its buffer at 0x2000, with TAIL as given. -/
def ring (tail : Byte) : State :=
  { on (workerWith 6 0x1000) with
    mem := (on worker).mem ++ [(localPa 0 0x1001, 0x20)] ++ (if tail = 0 then [] else [(localPa 0 0x1018, tail)]) }

theorem meets_QueueWords :
    (∃ (i : Instr) (st : Stall) (x y : SReg) (e : BitVec 6) (c : Scope) (s : State) (th : Thread), Issues i s th ∧
      (i = .qput st x y e c ∨ i = .qget st x y e c) ∧ (s.pp th.part).scopeCap.toNat < scopeCode c ∧ (s.pp th.part).scopeDem = false) ∧
    (∃ (st : Stall) (x y : SReg) (e : BitVec 6) (c c' : Scope) (s v t w : State) (th : Thread) (p : Place) (r : Rules.AccessRule)
      (a : Rules.Ask), Issues (.qput st x y e c) s th ∧ Rules.runsAt s th c c' v ∧ v.entryFree s.cur th.part = true ∧
      (th.sv y).toNat % 64 = 0 ∧ (th.sv y).toNat < 2 ^ 56 ∧ Local v th Rules.ringWant (th.sv y) p t ∧ t.isPoisoned p.pa 64 = false ∧
      w = t.setDirty (whoIs s.cur th) p ∧ Rules.RingGood w p.pa ∧ s.openIn s.cur th c' = false ∧ (c' = .sys → th.hostDirty = []) ∧
      2 ^ w.num (p.pa + 8) 1 ≤ Rules.ringCount w p.pa ∧ Rules.outward th (.qput st x y e c) = some r ∧
      Rules.asks th none (.qput st x y e c) = some a) ∧
    (∃ (st : Stall) (x y : SReg) (e : BitVec 6) (c c' : Scope) (s v t w : State) (th : Thread) (p : Place) (r : Rules.AccessRule)
      (a : Rules.Ask), Issues (.qget st x y e c) s th ∧ Rules.runsAt s th c c' v ∧ v.entryFree s.cur th.part = true ∧
      (th.sv y).toNat % 64 = 0 ∧ (th.sv y).toNat < 2 ^ 56 ∧ Local v th Rules.ringWant (th.sv y) p t ∧ t.isPoisoned p.pa 64 = false ∧
      w = t.setDirty (whoIs s.cur th) p ∧ Rules.RingGood w p.pa ∧ Rules.ringCount w p.pa = 0 ∧
      Rules.outward th (.qget st x y e c) = some r ∧ Rules.asks th none (.qget st x y e c) = some a) ∧
    (∃ (st : Stall) (x y : SReg) (e : BitVec 6) (c c' : Scope) (s v t u : State) (th : Thread) (p q : Place),
      Rules.runsAt s th c c' v ∧ v.entryFree s.cur th.part = true ∧ (th.sv y).toNat % 64 = 0 ∧
      (th.sv y).toNat < 2 ^ 56 ∧ Local v th Rules.ringWant (th.sv y) p t ∧ t.isPoisoned p.pa 64 = false ∧
      Rules.RingGood (t.setDirty (whoIs s.cur th) p) p.pa ∧ q.egress = false ∧ q.leaf.rp = none ∧ Issues (.qput st x y e c) s th ∧
      s.openIn s.cur th c' = false ∧ (c' = .sys → th.hostDirty = []) ∧
      Rules.ringCount (t.setDirty (whoIs s.cur th) p) p.pa < 2 ^ (t.setDirty (whoIs s.cur th) p).num (p.pa + 8) 1 ∧
      (t.setDirty (whoIs s.cur th) p).check (Rules.ringWho s th) { kind := 1, size := 8 }
        (Rules.ringElem (t.setDirty (whoIs s.cur th) p) p.pa ((t.setDirty (whoIs s.cur th) p).num (p.pa + 0x18) 4)) = (u, .ok q) ∧
      Rules.storeLabel th x y &&& ~~~(u.labelAt q.pa q.leaf.lab) = 0 ∧ (u.isPoisoned q.pa 8 = true → spaceOf q.pa = 1)) ∧
    (∃ (st : Stall) (x y : SReg) (e : BitVec 6) (c c' : Scope) (s v t u : State) (th : Thread) (p q : Place),
      Rules.runsAt s th c c' v ∧ v.entryFree s.cur th.part = true ∧ (th.sv y).toNat % 64 = 0 ∧
      (th.sv y).toNat < 2 ^ 56 ∧ Local v th Rules.ringWant (th.sv y) p t ∧ t.isPoisoned p.pa 64 = false ∧
      Rules.RingGood (t.setDirty (whoIs s.cur th) p) p.pa ∧ q.egress = false ∧ q.leaf.rp = none ∧ Issues (.qget st x y e c) s th ∧
      0 < Rules.ringCount (t.setDirty (whoIs s.cur th) p) p.pa ∧
      (t.setDirty (whoIs s.cur th) p).check (Rules.ringWho s th) { kind := 0, size := 8 }
        (Rules.ringElem (t.setDirty (whoIs s.cur th) p) p.pa ((t.setDirty (whoIs s.cur th) p).num (p.pa + 0x10) 4)) = (u, .ok q) ∧ u.isPoisoned q.pa 8 = false) :=
  ⟨⟨_, 0, 5, 6, 9, .sys, capped false (ring 0), _, issues rfl, .inr rfl, by decide, rfl⟩,
    ⟨0, 5, 6, 9, .sys, .sys, ring 1, ring 1, _, _, _, _, _, _, issues rfl, .inl ⟨by decide, rfl, rfl⟩, rfl, by decide, by decide, stays rfl,
      rfl, rfl, ⟨by decide, ⟨by decide, by decide, by decide⟩, by decide, by decide⟩, rfl, fun _ => rfl, by decide, rfl, rfl⟩,
    ⟨0, 5, 6, 9, .core, .core, ring 0, ring 0, _, _, _, _, _, _, issues rfl, .inl ⟨by decide, rfl, rfl⟩, rfl, by decide, by decide, stays rfl,
      rfl, rfl, ⟨by decide, ⟨by decide, by decide, by decide⟩, by decide, by decide⟩, by decide, rfl, rfl⟩,
    ⟨0, 5, 6, 9, .sys, .core, capped true (ring 0), (capped true (ring 0)).modPCore 0 0 fun p => { p with dmtd := true }, _, _, _, _, _,
      .inr ⟨by decide, rfl, rfl, rfl⟩, rfl, by decide, by decide, stays (s := (capped true (ring 0)).modPCore 0 0 fun p => { p with dmtd := true }) rfl, rfl,
      ⟨by decide, ⟨by decide, by decide, by decide⟩, by decide, by decide⟩, rfl, rfl, issues rfl, rfl, fun _ => rfl, by decide, passed rfl, rfl, fun _ => by decide⟩,
    ⟨0, 5, 6, 9, .core, .core, ring 1, ring 1, _, _, _, _, _, .inl ⟨by decide, rfl, rfl⟩, rfl, by decide, by decide, stays rfl, rfl,
      ⟨by decide, ⟨by decide, by decide, by decide⟩, by decide, by decide⟩, rfl, rfl, issues rfl, by decide, passed rfl, rfl⟩⟩

/-! #### Control registers and fences -/

theorem meets_RegisterReads :
    (∃ (st : Stall) (x : SReg) (c : BitVec 12) (s : State) (th : Thread) (v : Word), Issues (.mfcr st x c) s th ∧ c ≠ 0x463 ∧
      (c = 1 ∨ c = 2 → th.pend = [] ∧ s.cmds s.cur = []) ∧ (c, v) ∈ Rules.threadRegs s th) ∧
    (∃ (st : Stall) (x : SReg) (c : BitVec 12) (s : State) (th : Thread) (v : Word), Issues (.mfcr st x c) s th ∧ c ≠ 0x463 ∧
      (c = 1 ∨ c = 2 → th.pend = [] ∧ s.cmds s.cur = []) ∧ (c, v) ∈ Rules.sharedRegs s th) ∧
    (∃ (st : Stall) (x : SReg) (c : BitVec 12) (s : State) (th : Thread) (v : Word), Issues (.mfcr st x c) s th ∧ c ≠ 0x463 ∧
      (c = 1 ∨ c = 2 → th.pend = [] ∧ s.cmds s.cur = []) ∧ (c, v) ∈ Rules.arrayRegs s th) ∧
    (∃ (st : Stall) (x : SReg) (c : BitVec 12) (s : State) (th : Thread) (i j v : Nat), Issues (.mfcr st x c) s th ∧ i < 32 ∧ j < 32 ∧
      (vget (s.die (dieOf (coreOf s.cur))).hmap j).getLsbD i = true ∧
      Rules.logicalAt s (dieOf (coreOf s.cur)) i j = coreOf s.cur % 1024 ∧
      ((c = 0x105 ∧ v = j * 256 + i) ∨ (c = 0x106 ∧ v = j / 2 * 16 + i / 2))) :=
  ⟨⟨0, 5, 0, on worker, _, _, issues rfl, by decide, fun _ => ⟨rfl, rfl⟩, List.Mem.head _⟩,
    ⟨0, 5, 0x200, on worker, _, _, issues rfl, by decide, fun _ => ⟨rfl, rfl⟩, List.Mem.head _⟩,
    ⟨0, 5, 0x400, on worker, _, _, issues rfl, by decide, fun _ => ⟨rfl, rfl⟩, List.Mem.head _⟩,
    ⟨0, 5, 0x105, on worker, _, 0, 0, 0, issues rfl, by decide, by decide, rfl, rfl, .inl ⟨rfl, rfl⟩⟩⟩

/-- What a control-register write to register `c` asks of the state. -/
def Writes (f : CrFn) (c : BitVec 12) (v : Word) : Prop :=
  ∃ (i : Instr) (x : SReg) (s : State) (th : Thread), Issues i s th ∧ Rules.crWord i = some (f, x, c) ∧
    (c = 1 ∨ c = 2 → th.pend = [] ∧ s.cmds s.cur = []) ∧ th.sv x = v

theorem writes (c : BitVec 12) (v : Word) (h : canIssue (.mtcr 0 5 c) (on (workerWith 5 v)) = true)
    (hv : (found (on (workerWith 5 v))).sv 5 = v) : Writes .write c v :=
  ⟨.mtcr 0 5 c, 5, on (workerWith 5 v), _, issues h, rfl, fun _ => ⟨rfl, rfl⟩, hv⟩

theorem meets_RegisterWrites :
    Writes .write 0x008 7 ∧ Writes .write 0x001 4 ∧ Writes .write 0x001 5 ∧ Writes .write 0x010 0xA0440 ∧ Writes .write 0x017 0xA0441 ∧
    Writes .write 0x405 0x10000 ∧ Writes .write 0x422 0 ∧ Writes .write 0x421 0 ∧ Writes .write 0x468 0 ∧ Writes .write 0x100 0 ∧ Writes .write 0x420 0x4 ∧
    shapeOk 0xA0440 = true ∧ shapeOk 0xA0441 = false :=
  ⟨writes _ _ rfl rfl, writes _ _ rfl rfl, writes _ _ rfl rfl, writes _ _ rfl rfl, writes _ _ rfl rfl, writes _ _ rfl rfl,
    writes _ _ rfl rfl, writes _ _ rfl rfl, writes _ _ rfl rfl, writes _ _ rfl rfl, writes _ _ rfl rfl, rfl, rfl⟩

theorem meets_RegisterWrites_switch : ∃ (i : Instr) (x : SReg) (s : State) (th : Thread), Issues i s th ∧
    Rules.crWord i = some (.write, x, 0x420) ∧ th.kind = .control ∧ th.world = true ∧ (th.sv x).getLsbD 2 = true ∧
    (th.sv x).getLsbD 3 = false :=
  ⟨.mtcr 0 5 0x420, 5, { base 35 with cur := 0, threads := [(0, { workerWith 5 4 with kind := .control })] }, _, issues rfl, rfl, rfl, rfl,
    rfl, rfl⟩

theorem meets_DependenceAccesses : ∃ (i : Instr) (x : SReg) (op : DepOp) (s : State) (th : Thread), Issues i s th ∧
    ((∃ st, i = .mfcr st x 0x463 ∧ op = .read) ∨ (∃ st, i = .mtcr st x 0x463 ∧ op = .write) ∨ (∃ st, i = .mtcrs st x 0x463 ∧ op = .set) ∨
      (∃ st, i = .mtcrc st x 0x463 ∧ op = .clear)) :=
  ⟨.mfcr 0 5 0x463, 5, .read, on worker, _, issues rfl, .inl ⟨0, rfl, rfl⟩⟩

/-- A store of the worker that is open at HBM. -/
def openStore : State :=
  (on worker).modCore 0 fun c => { c with journal := [⟨0, 0, 1, 5, .hbm 0, 0, 0, .w64, 0, .write [], false, false⟩] }

theorem meets_Fences :
    (∃ (st : Stall) (c : Scope) (s : State) (th : Thread), Issues (.fence st c) s th ∧ scopeCode c ≤ (s.pp th.part).scopeCap.toNat ∧
      s.openIn s.cur th c = false ∧ (c = .sys → th.hostDirty = [])) ∧
    (∃ (st : Stall) (c : Scope) (s : State) (th : Thread), Issues (.fence st c) s th ∧ scopeCode c ≤ (s.pp th.part).scopeCap.toNat ∧
      s.openIn s.cur th c = true) ∧
    (∃ (st : Stall) (c : Scope) (s : State) (th : Thread), Issues (.fence st c) s th ∧ (s.pp th.part).scopeCap.toNat < scopeCode c ∧
      (s.pp th.part).scopeDem = false) ∧
    (∃ (st : Stall) (c : Scope) (s : State) (th : Thread), Issues (.fence st c) s th ∧ (s.pp th.part).scopeCap.toNat < scopeCode c ∧
      (s.pp th.part).scopeDem = true ∧ s.openIn s.cur th (scopeOf (s.pp th.part).scopeCap.toNat) = false ∧
      scopeOf (s.pp th.part).scopeCap.toNat ≠ .sys) :=
  ⟨⟨0, .core, openStore, _, issues rfl, by decide, rfl, fun _ => rfl⟩, ⟨0, .sys, openStore, _, issues rfl, by decide, rfl⟩,
    ⟨0, .sys, (on worker).modPP 0 fun p => { p with scopeCap := 5 }, _, issues rfl, by decide, rfl⟩,
    ⟨0, .quad, (on worker).modPP 0 fun p => { p with scopeCap := 1, scopeDem := true }, _, issues rfl, by decide, rfl, rfl, by decide⟩⟩


/-! #### Threads, launches, clocks, barriers -/

/-- A control thread of the secure world in slot 0, alone. -/
def chief (n : Nat) (v : Word) : State :=
  { base 35 with cur := 0, threads := [(0, { workerWith n v with kind := .control })] }

theorem meets_ThreadsStartAndEnd :
    (∃ (st : Stall) (x y : SReg) (s : State) (th : Thread), Issues (.spawn st x y) s th ∧ th.kind ≠ .control) ∧
    (∃ (st : Stall) (x y : SReg) (s : State) (th : Thread), Issues (.spawn st x y) s th ∧ th.kind = .control ∧
      s.openIn s.cur th .sys = false ∧ th.hostDirty = [] ∧ Rules.spawnCode s th ((th.sv x).toNat % 8) (th.sv y) = 0) ∧
    (∃ (st : Stall) (x y : SReg) (s : State) (th : Thread), Issues (.spawn st x y) s th ∧ th.kind = .control ∧
      s.openIn s.cur th .sys = false ∧ th.hostDirty = [] ∧ Rules.spawnCode s th ((th.sv x).toNat % 8) (th.sv y) = 1) ∧
    (∃ (st : Stall) (s : State) (th : Thread), Issues (.exit st) s th ∧ th.kind = .control) ∧
    (∃ (st : Stall) (s : State) (th : Thread), Issues (.exit st) s th ∧ th.kind ≠ .control ∧ th.abown ≠ 0) ∧
    (∃ (st : Stall) (s : State) (th : Thread), Issues (.exit st) s th ∧ th.kind ≠ .control ∧ th.abown = 0 ∧ th.pend ≠ []) ∧
    (∃ (st : Stall) (s : State) (th : Thread), Issues (.exit st) s th ∧ th.kind ≠ .control ∧ th.abown = 0 ∧ th.pend = [] ∧
      s.openIn s.cur th .sys = false ∧ th.sched = []) :=
  ⟨⟨0, 5, 6, on worker, _, issues rfl, by decide⟩, ⟨0, 5, 6, chief 5 1, _, issues rfl, rfl, rfl, rfl, by decide⟩,
    ⟨0, 5, 6, chief 5 7, _, issues rfl, rfl, rfl, rfl, by decide⟩, ⟨0, chief 5 0, _, issues rfl, rfl⟩,
    ⟨0, on { worker with abown := 1 }, _, issues rfl, by decide, by decide⟩,
    ⟨0, on { worker with pend := [⟨.s 5, .s ⟨1, 0⟩, 3, 0, 0, 0x1FFFC, 1⟩] }, _, issues rfl, by decide, rfl, by decide⟩,
    ⟨0, on worker, _, issues rfl, by decide, rfl, rfl, rfl, rfl⟩⟩

/-- A worker whose word goes on. -/
def going (i : Instr) (phase : Nat) (data : List Byte) (lab : Label) : State :=
  on { workerWith 6 0x100000 with again := some ⟨i, 0, phase, data, lab, false⟩ }

theorem goes (i : Instr) (phase : Nat) (data : List Byte) (lab : Label) :
    GoesOn i (going i phase data lab) ({ workerWith 6 0x100000 with again := some ⟨i, 0, phase, data, lab, false⟩ } : Thread)
      ⟨i, 0, phase, data, lab, false⟩ := ⟨_, rfl, rfl, rfl, rfl⟩

theorem meets_Launches :
    (∃ (st : Stall) (x y : SReg) (s : State) (th : Thread), Issues (.launch st x y) s th ∧
      ((th.sv y).toNat % 64 ≠ 0 ∨ 2 ^ 56 ≤ (th.sv y).toNat)) ∧
    (∃ (st : Stall) (x y : SReg) (s t : State) (th : Thread) (p : Place), Issues (.launch st x y) s th ∧ (th.sv y).toNat % 64 = 0 ∧
      (th.sv y).toNat < 2 ^ 56 ∧ Local s th { kind := 0, size := 64 } (th.sv y) p t ∧ t.isPoisoned p.pa 64 = false) ∧
    (∃ (st : Stall) (x y : SReg) (s t : State) (th : Thread) (p : Place) (r : Rules.AccessRule), Issues (.launch st x y) s th ∧
      (th.sv y).toNat % 64 = 0 ∧ (th.sv y).toNat < 2 ^ 56 ∧ r = { q := { kind := 0, size := 64 }, va := th.sv y, thread := fun _ _ _ => th } ∧
      Rules.Leaves s th r p t ∧ (∀ c, ¬ Rules.ships s th p c) ∧ t.homeBusy s.cur th [p.home] = false) ∧
    (∃ (st : Stall) (x y : SReg) (s : State) (th : Thread) (a : Again), GoesOn (.launch st x y) s th a ∧ a.phase = 1 ∧
      s.openIn s.cur th (descOf a.data).cover = true) ∧
    (∃ (st : Stall) (x y : SReg) (s : State) (th : Thread) (a : Again), GoesOn (.launch st x y) s th a ∧ a.phase = 1 ∧
      s.openIn s.cur th (descOf a.data).cover = false) :=
  ⟨⟨0, 5, 6, on (workerWith 6 32), _, issues rfl, .inl (by decide)⟩,
    ⟨0, 5, 6, on (workerWith 6 0x1000), _, _, _, issues rfl, by decide, by decide, stays rfl, rfl⟩,
    ⟨0, 5, 6, afar (workerWith 6 0x8000), _, _, _, _, issues rfl, by decide, by decide, rfl, leaves rfl, (fun _ h => nomatch h.1), rfl⟩,
    ⟨0, 5, 6, (going (.launch 0 5 6) 1 (List.replicate 64 0) 0).modCore 0 fun c => { c with journal := [opened 0 (.core 0)] }, _,
      ⟨.launch 0 5 6, 0, 1, List.replicate 64 0, 0, false⟩, ⟨_, rfl, rfl, rfl, rfl⟩, rfl, rfl⟩,
    ⟨0, 5, 6, _, _, _, goes _ 1 (List.replicate 64 0) 0, rfl, rfl⟩⟩

theorem meets_Migrations :
    (∃ (st : Stall) (x y : SReg) (s : State) (th : Thread) (r : Nat), Issues (.migr st x y) s th ∧ s.openIn s.cur th .pkg = false ∧
      (s.pdie (dieOf (coreOf s.cur)) th.part).migh = false ∧ r = 1) ∧
    (∃ (st : Stall) (x y : SReg) (s : State) (th : Thread) (r : Nat), Issues (.migr st x y) s th ∧ s.openIn s.cur th .pkg = false ∧
      (s.pdie (dieOf (coreOf s.cur)) th.part).migh = true ∧ s.migrantCount th.part < Config.maxMigrants ∧
      ((th.sv y).toNat % 4 ≠ 0 ∨ 2 ^ 56 ≤ (th.sv y).toNat) ∧ r = 3) ∧
    (∃ (st : Stall) (x y : SReg) (s : State) (th : Thread), Issues (.migr st x y) s th ∧ s.openIn s.cur th .pkg = false ∧
      (s.pdie (dieOf (coreOf s.cur)) th.part).migh = true ∧ s.migrantCount th.part < Config.maxMigrants ∧ (th.sv y).toNat % 4 = 0 ∧
      (th.sv y).toNat < 2 ^ 56) :=
  ⟨⟨0, 5, 6, on worker, _, 1, issues rfl, rfl, rfl, rfl⟩,
    ⟨0, 5, 6, (on (workerWith 6 2)).modPDie 0 0 fun p => { p with migh := true }, _, 3, issues rfl, rfl, rfl, by decide,
      .inl (by decide), rfl⟩,
    ⟨0, 5, 6, (on (workerWith 6 4)).modPDie 0 0 fun p => { p with migh := true }, _, issues rfl, rfl, rfl, by decide, by decide,
      by decide⟩⟩

theorem meets_ClockWords :
    (∃ (st : Stall) (x : SReg) (e : BitVec 6) (s : State) (th : Thread) (n : Nat), Issues (.waitq st x e) s th ∧
      n = (if (s.groupOf th).isSome then s.vcc (coreOf s.cur) th else s.quartz.toNat) ∧ (th.sv x).toNat ≤ n) ∧
    (∃ (st : Stall) (x : SReg) (e : BitVec 6) (s : State) (th : Thread) (n : Nat), Issues (.waitq st x e) s th ∧
      n = (if (s.groupOf th).isSome then s.vcc (coreOf s.cur) th else s.quartz.toNat) ∧ n < (th.sv x).toNat ∧ e.toNat < 63 ∧
      n + 2 ^ e.toNat < (th.sv x).toNat) ∧
    (∃ (st : Stall) (x : SReg) (e : BitVec 6) (s : State) (th : Thread) (n : Nat), Issues (.waitq st x e) s th ∧
      n = (if (s.groupOf th).isSome then s.vcc (coreOf s.cur) th else s.quartz.toNat) ∧ n < (th.sv x).toNat ∧
      (e.toNat = 63 ∨ (th.sv x).toNat ≤ n + 2 ^ e.toNat)) ∧
    (∃ (st : Stall) (x : SReg) (e : BitVec 6) (s : State) (th : Thread) (a : Again), GoesOn (.waitq st x e) s th a) ∧
    (∃ (st : Stall) (x : SReg) (s : State) (th : Thread), Issues (.tgclk st x) s th ∧ th.kind = .migrant) ∧
    (∃ (st : Stall) (x : SReg) (s : State) (th : Thread), Issues (.tgclk st x) s th ∧ th.timed = none ∧ th.kind ≠ .migrant) ∧
    (∃ (st : Stall) (y : SReg) (s : State) (th : Thread), th.kind ≠ .migrant ∧ tgBad (th.sv y) = false ∧ Issues (.tgstart st y) s th) ∧
    (∃ (st : Stall) (y : SReg) (s : State) (th : Thread) (a : Again), th.kind ≠ .migrant ∧ tgBad (th.sv y) = false ∧
      GoesOn (.tgstart st y) s th a) :=
  ⟨⟨0, 6, 4, on (workerWith 6 17), _, _, issues rfl, rfl, by decide⟩, ⟨0, 6, 2, on (workerWith 6 22), _, _, issues rfl, rfl, by decide,
      by decide, by decide⟩, ⟨0, 6, 2, on (workerWith 6 21), _, _, issues rfl, rfl, by decide, .inr (by decide)⟩,
    ⟨0, 6, 2, _, _, _, goes _ 0 [] 0⟩, ⟨0, 6, on { worker with kind := .migrant }, _, issues rfl, rfl⟩,
    ⟨0, 6, on worker, _, issues rfl, rfl, by decide⟩, ⟨0, 6, on worker, _, by decide, rfl, issues rfl⟩,
    ⟨0, 6, _, _, _, by decide, rfl, goes _ 0 [] 0⟩⟩

/-- The barrier of the worker's partition on its core. -/
def meeting : BarKey := ⟨.core, 0, none, false, 0⟩

/-- A worker with a PEND mask, and the barriers given. -/
def meeter (pend : BitVec 5) (l : KMap BarKey Barrier) : State := { on { worker with barPend := pend } with barriers := l }

theorem meets_BarrierWords :
    (∃ (i : Instr) (st : Stall) (e : BitVec 6) (c : Scope) (s : State) (th : Thread) (k : BarKey), Issues i s th ∧
      (i = .bara st c ∨ i = .barw st e c ∨ i = .bar st e c) ∧ s.barKey? s.cur th c = some k ∧
      (s.pp th.part).scopeCap.toNat < scopeCode c) ∧
    (∃ (i : Instr) (st : Stall) (e : BitVec 6) (c : Scope) (s : State) (th : Thread), Issues i s th ∧
      (i = .bara st c ∨ i = .barw st e c ∨ i = .bar st e c) ∧ (th.kind = .migrant ∨ s.barKey? s.cur th c = none)) ∧
    (∃ (i : Instr) (st : Stall) (e : BitVec 6) (c : Scope) (s : State) (th : Thread) (k : BarKey) (a : Again), GoesOn i s th a ∧
      (i = .barw st e c ∨ i = .bar st e c) ∧ Rules.Arrives s th c k ∧ th.barPend &&& Rules.barBit c ≠ 0 ∧
      s.hasArrived k s.cur = false ∧ s.wakeOpen k (coreOf s.cur) = false) ∧
    (∃ (st : Stall) (e : BitVec 6) (c : Scope) (s : State) (th : Thread) (k : BarKey), Rules.Arrives s th c k ∧
      s.entryFree s.cur th.part = true ∧ Issues (.bara st c) s th ∧ Issues (.barw st e c) s th ∧ Issues (.bar st e c) s th ∧
      th.barPend &&& Rules.barBit c = 0) ∧
    (∃ (st : Stall) (e : BitVec 6) (c : Scope) (s : State) (th : Thread) (k : BarKey), Rules.Arrives s th c k ∧
      s.entryFree s.cur th.part = true ∧ Issues (.bara st c) s th ∧ Issues (.barw st e c) s th ∧ Issues (.bar st e c) s th ∧
      th.barPend &&& Rules.barBit c ≠ 0 ∧ s.hasArrived k s.cur = false ∧ s.wakeOpen k (coreOf s.cur) = false) ∧
    (∃ (st : Stall) (e : BitVec 6) (c : Scope) (s : State) (th : Thread) (k : BarKey), Rules.Arrives s th c k ∧
      s.entryFree s.cur th.part = true ∧ Issues (.barw st e c) s th ∧ Issues (.bar st e c) s th ∧
      th.barPend &&& Rules.barBit c ≠ 0 ∧ s.hasArrived k s.cur = true) :=
  ⟨⟨.bar 0 9 .core, 0, 9, .core, (meeter 0 []).modPP 0 fun p => { p with scopeCap := 0 }, _, meeting, issues rfl, .inr (.inr rfl), rfl,
      by decide⟩,
    ⟨.bar 0 9 .quad, 0, 9, .quad, on worker, _, issues rfl, .inr (.inr rfl), .inr rfl⟩,
    ⟨.barw 0 9 .core, 0, 9, .core, on { worker with barPend := 1, again := some ⟨.barw 0 9 .core, 0, 0, [], 0, true⟩ }, _, meeting, _,
      ⟨_, rfl, rfl, rfl, rfl⟩, .inl rfl, ⟨rfl, by decide, rfl, fun h => by cases h⟩, by decide, rfl, rfl⟩,
    ⟨0, 9, .core, meeter 0 [], _, meeting, ⟨rfl, by decide, rfl, fun h => by cases h⟩, rfl, issues rfl, issues rfl, issues rfl, by decide⟩,
    ⟨0, 9, .core, meeter 1 [], _, meeting, ⟨rfl, by decide, rfl, fun h => by cases h⟩, rfl, issues rfl, issues rfl, issues rfl, by decide, rfl,
      rfl⟩,
    ⟨0, 9, .core, meeter 1 [(meeting, ⟨0, [1]⟩)], _, meeting, ⟨rfl, by decide, rfl, fun h => by cases h⟩,
      rfl, issues rfl, issues rfl, by decide, rfl⟩⟩

/-! #### Traps, records, the pool, labels and the gate -/

theorem meets_TrapEntries :
    (∃ (s t : State) (th : Thread), t.cmds s.cur ≠ [] ∨ th.sched ≠ []) ∧
    (∃ (s t : State) (th : Thread), t.cmds s.cur = [] ∧ th.sched = [] ∧ th.te = true) ∧
    (∃ (s t : State) (th : Thread), t.cmds s.cur = [] ∧ th.sched = [] ∧ th.te = false) :=
  ⟨⟨on worker, on worker, { worker with sched := [⟨0, 9, ⟨1, [], none, [], [], [], .ack⟩, [], 0, 0, 0⟩] }, .inr (by decide)⟩,
    ⟨on worker, on worker, worker, rfl, rfl, rfl⟩, ⟨on worker, on worker, { worker with te := false }, rfl, rfl, rfl⟩⟩

theorem meets_TrapWords :
    (∃ (st : Stall) (s : State) (th : Thread), Issues (.rten st) s th) ∧
    (∃ (st : Stall) (s : State) (th : Thread), Issues (.tret st) s th ∧ th.tepc.toNat % 4 = 0 ∧ th.tepc.toNat < 2 ^ 56) ∧
    (∃ (st : Stall) (s : State) (th : Thread), Issues (.tret st) s th ∧ (th.tepc.toNat % 4 ≠ 0 ∨ 2 ^ 56 ≤ th.tepc.toNat)) ∧
    (∃ (st : Stall) (y : SReg) (s : State) (th : Thread), Issues (.swtrap st y) s th) :=
  ⟨⟨0, on worker, _, issues rfl⟩, ⟨0, on { worker with tepc := 0xFFFFFFFFFFFFFC }, _, issues rfl, by decide, by decide⟩,
    ⟨0, on { worker with tepc := 0x100000000000000 }, _, issues rfl, .inr (by decide)⟩, ⟨0, 5, on worker, _, issues rfl⟩⟩

/-- A thread with an address in s6, and a record of a compute thread there that names bank 3. -/
def recorded (a : Nat) (th : Thread) : State :=
  { on { th with s := (workerWith 6 (BitVec.ofNat 64 a)).s } with
    mem := (on worker).mem ++ [(localPa 0 a + 0x4A80 + 0x46, 1), (localPa 0 a + 0x4A80 + 0x70, 1), (localPa 0 a + 0x5200, 3)] }

/-- A worker in its handler, with its save area's first address in s6, bank 3 its own, and a record there. -/
def saver : State := recorded 0xC000 { worker with te := false, abown := 8 }

/-- The worker of `saver` without the bank, which another thread of the core holds. -/
def robbed : State :=
  let s := recorded 0xC000 { worker with te := false }
  { s with threads := (0, { worker with kind := .control, abown := 8 }) :: s.threads }

theorem saver_unlabelled (a : Nat) : saver.blockLabel a = 0 := rfl

theorem saves (n : Nat) (h : n ≤ 0x10000) : Rules.savesAt saver (found saver) 6 n :=
  ⟨by decide, by decide, Nat.le_trans (Nat.add_le_add_left h _) (by decide)⟩

theorem meets_SaveRecords :
    (∃ (st : Stall) (y : SReg) (s : State) (th : Thread), Issues (.hsave st y) s th ∧ th.te = false ∧ Rules.savesAt s th y 64) ∧
    (∃ (st : Stall) (y : SReg) (s : State) (th : Thread), Issues (.hsave st y) s th ∧ th.te = true) ∧
    (∃ (st : Stall) (y : SReg) (s : State) (th : Thread), Issues (.hsave st y) s th ∧ th.te = false ∧ ¬ Rules.savesAt s th y 64) ∧
    (∃ (st : Stall) (y : SReg) (s : State) (th : Thread), Issues (.hrest st y) s th ∧ Rules.savesAt s th y 64 ∧
      s.isPoisoned (Rules.savePa s th y) 64 = false) ∧
    (∃ (st : Stall) (y : SReg) (s : State) (th : Thread), th.te = false ∧ s.cmds s.cur = [] ∧ Issues (.csave st y) s th ∧
      Rules.savesAt s th y (Rules.recordBytes th (Rules.heldList th).length) ∧ s.openIn s.cur th .sys = false ∧ th.sched = [] ∧
      th.pendSet.length ≤ 64 ∧ (∀ b ∈ Rules.heldList th, (bankOf (s.core (coreOf s.cur)) b).poisoned = false) ∧ Rules.heldList th ≠ []) ∧
    (∃ (st : Stall) (y : SReg) (s : State) (th : Thread) (pa o n : Nat) (names : List Nat) (lab : Label), th.te = false ∧
      s.cmds s.cur = [] ∧ pa = Rules.savePa s th y ∧ Issues (.crest st y) s th ∧ o = pa + Rules.contextSize th - 1880 ∧
      n = Rules.banksAt s th pa ∧ names = Rules.namesAt s th pa ∧ names.Nodup ∧
      (∀ b ∈ names, b ∈ bankPool (s.pdie (dieOf (coreOf s.cur)) th.part) ∧
        (s.heldBanks (coreOf s.cur) &&& ~~~th.abown).getLsbD b = false) ∧
      Rules.savesAt s th y (Rules.recordBytes th n) ∧ s.isPoisoned pa (Rules.recordBytes th n) = false ∧
      s.num (o + 0x46) 1 = Rules.kindByte th ∧
      (∀ b, lab.getLsbD b = true ↔ ∃ a, pa ≤ a ∧ a < pa + Rules.recordBytes th n ∧ (s.blockLabel a).getLsbD b = true) ∧ names ≠ []) ∧
    (∃ (st : Stall) (y : SReg) (s : State) (th : Thread), Issues (.csave st y) s th ∧ Issues (.crest st y) s th ∧ th.te = true ∧
      ¬ Rules.savesAt s th y (Rules.contextSize th)) ∧
    (∃ (st : Stall) (y : SReg) (s : State) (th : Thread), Issues (.csave st y) s th ∧ th.te = false ∧
      ¬ Rules.savesAt s th y (Rules.recordBytes th (Rules.heldList th).length)) ∧
    (∃ (st : Stall) (y : SReg) (s : State) (th : Thread), Issues (.crest st y) s th ∧ th.te = true ∧
      s.num (Rules.savePa s th y + Rules.contextSize th - 1880 + 0x46) 1 = Rules.kindByte th) ∧
    (∃ (st : Stall) (y : SReg) (s : State) (th : Thread), Issues (.crest st y) s th ∧ th.te = true ∧
      Rules.savesAt s th y (Rules.contextSize th) ∧
      s.num (Rules.savePa s th y + Rules.contextSize th - 1880 + 0x46) 1 ≠ Rules.kindByte th) ∧
    (∃ (st : Stall) (y : SReg) (s : State) (th : Thread), Issues (.crest st y) s th ∧ th.te = false ∧
      ¬ Rules.savesAt s th y (Rules.contextSize th)) ∧
    (∃ (st : Stall) (y : SReg) (s : State) (th : Thread), Issues (.crest st y) s th ∧ th.te = false ∧
      Rules.savesAt s th y (Rules.contextSize th) ∧ s.cmds s.cur = [] ∧
      s.isPoisoned (Rules.savePa s th y) (Rules.contextSize th) = false ∧
      s.num (Rules.savePa s th y + Rules.contextSize th - 1880 + 0x46) 1 ≠ Rules.kindByte th) ∧
    (∃ (st : Stall) (y : SReg) (s : State) (th : Thread), Issues (.crest st y) s th ∧ th.te = false ∧
      Rules.savesAt s th y (Rules.contextSize th) ∧ s.cmds s.cur = [] ∧
      s.isPoisoned (Rules.savePa s th y) (Rules.contextSize th) = false ∧
      s.num (Rules.savePa s th y + Rules.contextSize th - 1880 + 0x46) 1 = Rules.kindByte th ∧
      ¬ Rules.savesAt s th y (Rules.recordBytes th (Rules.banksAt s th (Rules.savePa s th y)))) ∧
    (∃ (st : Stall) (y : SReg) (s : State) (th : Thread), Issues (.crest st y) s th ∧ th.te = false ∧
      Rules.savesAt s th y (Rules.contextSize th) ∧ s.cmds s.cur = [] ∧
      s.isPoisoned (Rules.savePa s th y) (Rules.contextSize th) = false ∧
      s.num (Rules.savePa s th y + Rules.contextSize th - 1880 + 0x46) 1 = Rules.kindByte th ∧
      Rules.savesAt s th y (Rules.recordBytes th (Rules.banksAt s th (Rules.savePa s th y))) ∧
      s.isPoisoned (Rules.savePa s th y) (Rules.recordBytes th (Rules.banksAt s th (Rules.savePa s th y))) = false ∧
      ∃ b ∈ Rules.namesAt s th (Rules.savePa s th y), b ∉ bankPool (s.pdie (dieOf (coreOf s.cur)) th.part) ∨
        (s.heldBanks (coreOf s.cur) &&& ~~~th.abown).getLsbD b = true) :=
  ⟨⟨0, 6, saver, _, issues rfl, rfl, saves _ (by decide)⟩, ⟨0, 6, on worker, _, issues rfl, rfl⟩,
    ⟨0, 5, saver, _, issues rfl, rfl, fun h => absurd h.2.1 (by decide)⟩, ⟨0, 6, saver, _, issues rfl, saves _ (by decide), rfl⟩,
    ⟨0, 6, saver, _, rfl, rfl, issues rfl, saves _ (by decide), rfl, rfl, by decide, of_decide_eq_true rfl, by decide⟩,
    ⟨0, 6, saver, _, _, _, 1, [3], 0, rfl, rfl, rfl, issues rfl, rfl, by decide, by decide, by decide, of_decide_eq_true rfl,
      saves _ (by decide), rfl, by decide, fun b => ⟨fun h => absurd h (by simp), fun ⟨a, _, _, h⟩ => by rwa [saver_unlabelled] at h⟩,
      by decide⟩,
    ⟨0, 5, on worker, _, issues rfl, issues rfl, rfl, fun h => absurd h.2.1 (by decide)⟩,
    ⟨0, 5, saver, _, issues rfl, rfl, fun h => absurd h.2.1 (by decide)⟩,
    ⟨0, 6, recorded 0xC000 worker, _, issues rfl, rfl, by decide⟩,
    ⟨0, 6, recorded 0xC000 { worker with kind := .migrant }, _, issues rfl, rfl, ⟨by decide, by decide, by decide⟩, by decide⟩,
    ⟨0, 5, saver, _, issues rfl, rfl, fun h => absurd h.2.1 (by decide)⟩,
    ⟨0, 6, recorded 0xC000 { worker with kind := .migrant, te := false }, _, issues rfl, rfl, ⟨by decide, by decide, by decide⟩, rfl, rfl,
      by decide⟩,
    ⟨0, 6, recorded 0x16C00 { worker with te := false }, _, issues rfl, rfl, ⟨by decide, by decide, by decide⟩, rfl, rfl, by decide,
      fun h => absurd h.2.2 (by decide)⟩,
    ⟨0, 6, robbed, _, issues rfl, rfl, ⟨by decide, by decide, by decide⟩, rfl, rfl, by decide, ⟨by decide, by decide, by decide⟩, rfl, 3,
      by decide, .inr (by decide)⟩⟩

/-- Page tables that map VA 0x100000 on the HBM page at 0x20000, writable (11 Table 11.7). -/
def paged (th : Thread) : State :=
  let s := (on th).modPP 0 fun p => { p with s1 := 0x10001 }
  { s with mem := s.mem ++ [(0x10000, 1), (0x10001, 0x20), (0x10002, 1), (0x12000, 1), (0x12001, 0x40), (0x12002, 1), (0x14000, 1),
      (0x14001, 0x60), (0x14002, 1), (0x16000, 1), (0x16001, 0x80), (0x16002, 1), (0x19000, 0x47), (0x19002, 2)] }

/-- The mapping of an address. -/
def leafOf (s : State) (va : Word) (kind : Nat) : State × Except XFail Leaf := s.translate (whoIs s.cur (found s)) va kind

/-- The leaf of a translation. -/
def leafIn (x : Except XFail Leaf) : Leaf := match x with | .ok l => l | .error _ => (placeOf (.error ⟨.memPa, 0, 0, 0⟩)).leaf

theorem mapped {x : State × Except XFail Leaf} (h : (match x.2 with | .ok _ => true | .error _ => false) = true) :
    x = (x.1, .ok (leafIn x.2)) := by
  obtain ⟨s, r⟩ := x
  cases r with
  | ok p => rfl
  | error f => cases h

theorem meets_PoolWords :
    (∃ (i : Instr) (y : SReg) (op : PoolOp) (s t : State) (th : Thread) (l : Leaf) (z : Nat), Issues i s th ∧
      ((∃ st, i = .pcommit st y ∧ op = .commit) ∨ (∃ st, i = .pfree st y ∧ op = .free 0)) ∧
      s.translate (whoIs s.cur th) (th.sv y) 1 = (t, .ok l) ∧ l.level ≠ 7 ∧ l.w = true ∧ (l.world = true → th.world = true) ∧
      poolSize (t.pdie (dieOf (coreOf s.cur)) th.part) = some z ∧ leafSize l.level (t.num l.entry 16) = z) ∧
    (∃ (st : Stall) (x y : SReg) (s : State) (th : Thread), Issues (.palloc st x y) s th) :=
  ⟨⟨.pcommit 0 6, 6, .commit, paged (workerWith 6 0x100000), _, _, _, _, issues rfl, .inl ⟨0, rfl, rfl⟩, mapped rfl, by decide, rfl,
      fun _ => rfl, rfl, by decide⟩, ⟨0, 5, 6, on worker, _, issues rfl⟩⟩

theorem meets_LabelWords :
    (∃ (i : Instr) (d : SReg) (l : Label) (g : Tag) (s : State) (th : Thread), Issues i s th ∧
      (∃ st a, i = .lrdv st d a ∧ l = (th.vreg a).lab ∧ g = (th.vreg a).tag)) ∧
    (∃ (st : Stall) (d a : SReg) (s t : State) (th : Thread) (l : Leaf), Issues (.lrdg st d a) s th ∧
      s.translate (whoIs s.cur th) (th.sv a) 0 = (t, .ok l)) ∧
    (∃ (st : Stall) (a : SReg) (s : State) (th : Thread), Issues (.ljoin st a) s th) :=
  ⟨⟨.lrdv 0 5 1, 5, _, _, on worker, _, issues rfl, 0, 1, rfl, rfl, rfl⟩, ⟨0, 5, 6, on (workerWith 6 0x100), _, _, _, issues rfl, mapped rfl⟩,
    ⟨0, 5, on worker, _, issues rfl⟩⟩

/-- A policy record of one principal, 0, with SEQ 1, and a signature that its key, the neutral point, verifies. -/
def record (version : Byte) : List Byte :=
  [version, 0, 1, 0, 0, 0, 0, 0] ++ List.replicate 16 0 ++ [1, 0, 0, 0, 0, 0, 0, 0] ++ List.replicate 8 0 ++ [1, 0, 0, 0, 0, 0, 0, 0] ++
  [1, 0, 0, 0, 0, 0, 0, 0] ++ [1, 0, 0, 0, 0, 0, 0, 0] ++ List.replicate 64 0 ++ [1] ++ List.replicate 63 0

/-- The gate's state for it: principal 0 registered, with the mark as given. -/
def gate (s : State) (mark : Nat) (full : Bool) : State :=
  { s with
    prinMap := 1, keys := vset s.keys 0 1
    ppkg := vset s.ppkg 0 { s.pp 0 with mark := mark, policies := if full then Vector.replicate 16 (some ⟨1, 0, 0, 0, 1, 1, 1, true⟩)
                                       else Vector.replicate 16 none } }

/-- A worker whose gset has read its record. -/
def gating (version : Byte) (mark : Nat) (full : Bool) : State := gate (going (.gset 0 5 6) 2 (record version) 0) mark full

theorem gating_goes (version : Byte) (mark : Nat) (full : Bool) : GoesOn (.gset 0 5 6) (gating version mark full)
    ({ workerWith 6 0x100000 with again := some ⟨.gset 0 5 6, 0, 2, record version, 0, false⟩ } : Thread)
    ⟨.gset 0 5 6, 0, 2, record version, 0, false⟩ := ⟨_, rfl, rfl, rfl, rfl⟩


/-- The host window, link 0, in place of the page that `paged` maps (11 R242). -/
def exporting (th : Thread) : State :=
  let s := paged th
  { s with mem := (s.mem.filter fun c => decide (c.1 ≠ 0x19002)) ++ [(0x19006, 0x0E)] }

/-- The same with a store of the worker open at the host link. -/
def waiting (th : Thread) : State :=
  (exporting th).modCore 0 fun c => { c with journal := [⟨0, 0, 1, 5, .host 0, 0, 0, .w64, 0, .write [], false, false⟩] }

/-- The same with a policy that lets label 0 out to link 0. -/
def letting (th : Thread) : State :=
  (exporting th).modPP 0 fun p => { p with policies := vset p.policies 0 (some ⟨1, 0, 0, 0, 2 ^ 48, 100, 2, true⟩) }

/-- A worker whose rel of eight bytes to 0x100000 has read its source, whose label is given. -/
def releasing (f : Thread → State) (l : Label) : State :=
  f { workerWith 6 0x100000 with again := some ⟨.rel 0 5 7 6, 0, 1, List.replicate 8 7, l, false⟩ }

theorem rel_goes (f : Thread → State) (l : Label)
    (h : (releasing f l).thread? (releasing f l).cur = some { workerWith 6 0x100000 with
      again := some ⟨.rel 0 5 7 6, 0, 1, List.replicate 8 7, l, false⟩ }) :
    GoesOn (.rel 0 5 7 6) (releasing f l) (Thread.settle { workerWith 6 0x100000 with
      again := some ⟨.rel 0 5 7 6, 0, 1, List.replicate 8 7, l, false⟩ } (releasing f l).rot)
      ⟨.rel 0 5 7 6, 0, 1, List.replicate 8 7, l, false⟩ := ⟨_, h, rfl, rfl, rfl⟩

/-- A worker with the operands of a rel of eight bytes from and to 0x100000. -/
def relArgs : Thread := { worker with s := vset (vset (vset worker.s 5 ⟨8, 0⟩) 6 ⟨0x100000, 0⟩) 7 ⟨0x100000, 0⟩ }

/-- A list of accesses checked. -/
theorem reached {x : State × Except XFail (List Place)} (h : (match x.2 with | .ok _ => true | .error _ => false) = true) :
    x = (x.1, .ok (placesOf x.2)) := by
  obtain ⟨s, r⟩ := x
  cases r with
  | ok p => rfl
  | error f => cases h

theorem ranges {p : Policy} {l : List (Place × Nat)} (h : decide (∀ x ∈ l, x.1.leaf.rp = none ∧ p.dclass = 0 ∧
    x.1.pa / 2 ^ 48 % 2 = p.dport.toNat % 2 ∧ p.dlo ≤ x.1.pa % 2 ^ 48 ∧ x.1.pa % 2 ^ 48 + x.2 ≤ p.dhi) = true) :
    ∀ x ∈ l, Rules.inRange p x.1 x.2 := by
  intro x hx
  obtain ⟨h1, h2⟩ := of_decide_eq_true h x hx
  unfold Rules.inRange
  rw [h1]
  exact h2

/-- A worker whose rel has an answer in its core's inbox, and the pieces that follow. -/
def answered (ok wrote : Bool) (rest : List Msg) : State :=
  { on { worker with park := some ⟨.rel 0 5 7 6, .access, 0, 63, false, some ⟨1, [], none, [], [], [], .rel 5 0 0 wrote rest⟩, none, none,
      0, 0, 0, 1, []⟩ } with inbox := [(.core 0, [.resp (.core 0) (.thread 1 5) 0 ⟨ok, [], 0, 0, .memPa, 0, false⟩])] }

theorem meets_ReleaseGate :
    (∃ (st : Stall) (d a : SReg) (s : State) (th : Thread) (b : Again) (r : Nat), GoesOn (.gset st d a) s th b ∧ b.phase = 2 ∧
      Rules.gateFail s th.part b.data = some r) ∧
    (∃ (st : Stall) (d a : SReg) (s : State) (th : Thread) (b : Again), GoesOn (.gset st d a) s th b ∧ b.phase = 2 ∧
      Rules.gateFail s th.part b.data = none ∧ byteField b.data 0x18 8 ≤ (s.pp th.part).mark) ∧
    (∃ (st : Stall) (d a : SReg) (s : State) (th : Thread) (b : Again), GoesOn (.gset st d a) s th b ∧ b.phase = 2 ∧
      Rules.gateFail s th.part b.data = none ∧ (s.pp th.part).mark < byteField b.data 0x18 8 ∧
      (∀ e, e < 16 → vget (s.pp th.part).policies e ≠ none)) ∧
    (∃ (st : Stall) (d a : SReg) (s : State) (th : Thread) (b : Again) (e : Nat), GoesOn (.gset st d a) s th b ∧ b.phase = 2 ∧
      Rules.gateFail s th.part b.data = none ∧ (s.pp th.part).mark < byteField b.data 0x18 8 ∧ e < 16 ∧
      vget (s.pp th.part).policies e = none ∧ (∀ k, k < e → vget (s.pp th.part).policies k ≠ none)) ∧
    (∃ (st : Stall) (d a b : SReg) (s : State) (th : Thread), Issues (.rel st d a b) s th ∧
      ((th.sv d).toNat < 8 ∨ 65536 < (th.sv d).toNat ∨ (th.sv d).toNat % 8 ≠ 0 ∨ (th.sv a).toNat % 8 ≠ 0 ∨ (th.sv b).toNat % 8 ≠ 0)) ∧
    (∃ (st : Stall) (d a b : SReg) (s : State) (th : Thread) (g : Again) (t : State) (ps : List Place), GoesOn (.rel st d a b) s th g ∧
      g.phase = 1 ∧ s.relDest s.cur th (th.sv b) g.data.length = (t, .ok ps) ∧ (∃ p ∈ ps, p.egress = false)) ∧
    (∃ (st : Stall) (d a b : SReg) (s : State) (th : Thread) (g : Again) (t : State) (ps : List Place), GoesOn (.rel st d a b) s th g ∧
      g.phase = 1 ∧ s.relDest s.cur th (th.sv b) g.data.length = (t, .ok ps) ∧ (∀ p ∈ ps, p.egress = true) ∧
      t.homeBusy s.cur th (ps.map (·.home)) = true) ∧
    (∃ (st : Stall) (d a b : SReg) (s : State) (th : Thread) (g : Again) (t : State) (ps : List Place) (lab : Label),
      GoesOn (.rel st d a b) s th g ∧ g.phase = 1 ∧ lab = g.lab ||| th.sl a ||| th.sl b ||| th.sl d ||| th.ctxl ∧
      s.relDest s.cur th (th.sv b) g.data.length = (t, .ok ps) ∧ (∀ p ∈ ps, p.egress = true) ∧
      t.homeBusy s.cur th (ps.map (·.home)) = false ∧ lab &&& ~~~(t.owner th.part) ≠ 0 ∧
      (∀ e x, e < 16 → vget (t.pp th.part).policies e = some x →
        ¬ Rules.servesAll x th.world lab g.data.length (ps.zip ((piecesOf (th.sv b) g.data.length).map (·.2))))) ∧
    (∃ (st : Stall) (d a b : SReg) (s : State) (th : Thread) (g : Again) (t : State) (ps : List Place) (lab : Label),
      GoesOn (.rel st d a b) s th g ∧ g.phase = 1 ∧ lab = g.lab ||| th.sl a ||| th.sl b ||| th.sl d ||| th.ctxl ∧
      s.relDest s.cur th (th.sv b) g.data.length = (t, .ok ps) ∧ (∀ p ∈ ps, p.egress = true) ∧ ps ≠ [] ∧
      t.homeBusy s.cur th (ps.map (·.home)) = false ∧ lab &&& ~~~(t.owner th.part) = 0) ∧
    (∃ (st : Stall) (d a b : SReg) (s : State) (th : Thread) (g : Again) (t : State) (ps : List Place) (lab : Label) (x : Policy),
      GoesOn (.rel st d a b) s th g ∧ g.phase = 1 ∧ lab = g.lab ||| th.sl a ||| th.sl b ||| th.sl d ||| th.ctxl ∧
      s.relDest s.cur th (th.sv b) g.data.length = (t, .ok ps) ∧ (∀ p ∈ ps, p.egress = true) ∧ ps ≠ [] ∧
      t.homeBusy s.cur th (ps.map (·.home)) = false ∧ lab &&& ~~~(t.owner th.part) ≠ 0 ∧ vget (t.pp th.part).policies 0 = some x ∧
      Rules.servesAll x th.world lab g.data.length (ps.zip ((piecesOf (th.sv b) g.data.length).map (·.2)))) ∧
    (∃ (st : Stall) (d a b : SReg) (s t u : State) (th : Thread) (sp dp : List Place), Issues (.rel st d a b) s th ∧
      8 ≤ (th.sv d).toNat ∧ (th.sv d).toNat ≤ 65536 ∧ (th.sv d).toNat % 8 = 0 ∧ (th.sv a).toNat % 8 = 0 ∧ (th.sv b).toNat % 8 = 0 ∧
      s.checkAll (whoIs s.cur th) { kind := 0, size := 8, word := true }
        ((piecesOf (th.sv a) (th.sv d).toNat).map fun x => (th.sv a + BitVec.ofNat 64 x.1, x.2)) = (t, .ok sp) ∧
      t.relDest s.cur th (th.sv b) (th.sv d).toNat = (u, .ok dp) ∧ (∃ p ∈ sp, spaceOf p.pa = 3)) ∧
    (∃ (st : Stall) (d a b : SReg) (s t u : State) (th : Thread) (sp dp : List Place), Issues (.rel st d a b) s th ∧
      8 ≤ (th.sv d).toNat ∧ (th.sv d).toNat ≤ 65536 ∧ (th.sv d).toNat % 8 = 0 ∧ (th.sv a).toNat % 8 = 0 ∧ (th.sv b).toNat % 8 = 0 ∧
      s.checkAll (whoIs s.cur th) { kind := 0, size := 8, word := true }
        ((piecesOf (th.sv a) (th.sv d).toNat).map fun x => (th.sv a + BitVec.ofNat 64 x.1, x.2)) = (t, .ok sp) ∧
      t.relDest s.cur th (th.sv b) (th.sv d).toNat = (u, .ok dp) ∧ (∀ p ∈ sp, spaceOf p.pa ≠ 3) ∧ (∃ p ∈ dp, p.egress = false)) ∧
    (∀ (ok wrote : Bool) (rest : List Msg), ∃ (n e : Node) (s v : State) (tid gen i : Nat) (r : Resp) (l : List Item) (th : Thread) (p : Park)
      (w : Access) (d : SReg) (x : Word) (lab : Label), klist s.inbox n = .resp e (.thread tid gen) i r :: l ∧ s.thread? tid = some th ∧
      th.gen = gen ∧ th.park = some p ∧ r.withdrawn = false ∧ p.acc = some w ∧ w.outstanding = 1 ∧ w.refused = none ∧
      w.cont = .rel d x lab wrote rest ∧ v = { s with inbox := kputList s.inbox n l } ∧ r.ok = ok) :=
  ⟨⟨0, 5, 6, _, _, _, 1, gating_goes 2 0 false, rfl, by decide⟩, ⟨0, 5, 6, _, _, _, gating_goes 1 1 false, rfl, by decide, by decide⟩,
    ⟨0, 5, 6, _, _, _, gating_goes 1 0 true, rfl, by decide, by decide, of_decide_eq_true rfl⟩,
    ⟨0, 5, 6, _, _, _, 0, gating_goes 1 0 false, rfl, by decide, by decide, by decide, rfl, fun _ h => absurd h (Nat.not_lt_zero _)⟩,
    ⟨0, 5, 6, 7, on worker, _, issues rfl, .inl (by decide)⟩,
    ⟨0, 5, 7, 6, releasing paged 0, _, _, _, _, rel_goes _ _ rfl, rfl, reached rfl, ⟨_, .head _, rfl⟩⟩,
    ⟨0, 5, 7, 6, releasing waiting 0, _, _, _, _, rel_goes _ _ rfl, rfl, reached rfl, of_decide_eq_true rfl, rfl⟩,
    ⟨0, 5, 7, 6, releasing exporting 1, _, _, _, _, _, rel_goes _ _ rfl, rfl, rfl, reached rfl, of_decide_eq_true rfl, rfl, by decide,
      fun e x h hx => absurd hx (by rw [(of_decide_eq_true rfl : ∀ e, e < 16 → vget _ e = none) e h]; exact fun h => nomatch h)⟩,
    ⟨0, 5, 7, 6, releasing exporting 0, _, _, _, _, _, rel_goes _ _ rfl, rfl, rfl, reached rfl, of_decide_eq_true rfl, by decide, rfl,
      by decide⟩,
    ⟨0, 5, 7, 6, releasing letting 1, _, _, _, _, _, _, rel_goes _ _ rfl, rfl, rfl, reached rfl, of_decide_eq_true rfl, by decide, rfl,
      by decide, rfl, ⟨rfl, by decide, by decide, by decide, ranges rfl⟩⟩,
    ⟨0, 5, 7, 6, exporting relArgs, _, _, _, _, _, issues rfl, by decide, by decide, by decide, by decide, by decide, reached rfl,
      reached rfl, ⟨_, .head _, rfl⟩⟩,
    ⟨0, 5, 7, 6, paged relArgs, _, _, _, _, _, issues rfl, by decide, by decide, by decide, by decide, by decide, reached rfl,
      reached rfl, of_decide_eq_true rfl, ⟨_, .head _, rfl⟩⟩,
    fun ok wrote rest => ⟨.core 0, .core 0, answered ok wrote rest, _, 1, 5, 0, _, [], _, _, _, 5, 0, 0, rfl, rfl, rfl, rfl, rfl, rfl, rfl, rfl, rfl,
      rfl, rfl⟩⟩

/-! #### The matrix unit -/

/-- A worker that holds the sixteen banks of its pool, with the shape given in t1 and that of 16 by 16 FP32 in t2. -/
def matrixer (shape : BitVec 32) : Thread := { worker with abown := 0xFFFF, ts := vset (vset worker.ts 1 shape) 2 0xA0810#32 }

/-- A command of slot 1 that multiplies t1 by t2 into bank 8. -/
def command (n : Nat) : MxCmd := ⟨n, 1, .mmaF32 0 8 1 (.tile 2) true, 0x20000, .rne, false, 0, none, 0, 0, 0, none, 0xFF, none, 0⟩

/-- The matrix unit of core 0 with the queue and the command under way given. -/
def unit (th : Thread) (l : List MxCmd) (r : Option MxRun) : State := (on th).modCore 0 fun c => { c with mxQueue := l, mxRun := r }

theorem ready_one : Rules.MatrixReady (unit (matrixer 0xA0820) [command 0] none) (found (unit (matrixer 0xA0820) [command 0] none))
    { bank := 0, a := 1, b := .tile 2, z := true, m := 32, k := 16, n := 16, tags := [0x0A], kinds := [2], chunk := 8, time := (16, 16, 16) } 2 none :=
  ⟨fun h => absurd h (by decide), ⟨rfl, rfl, List.Mem.head _⟩,
    ⟨rfl, rfl, (by decide : tsFmt 0xA0810#32 ∈ [(0x0A : Tag)])⟩, fun h => absurd h (by decide),
    fun
      | 0, _ => ⟨by decide, (by decide : (0xFFFF#64).getLsbD 0 = true), .inl rfl⟩
      | n + 1, hn => absurd (show n + 1 < 1 from hn) (by omega),
    fun _ _ h => absurd h (fun e => nomatch e)⟩

theorem ready_two : Rules.MatrixReady (unit (matrixer 0xA0820) [command 0, command 1] none) (found (unit (matrixer 0xA0820) [command 0, command 1] none))
    { bank := 0, a := 1, b := .tile 2, z := true, m := 32, k := 16, n := 16, tags := [0x0A], kinds := [2], chunk := 8, time := (16, 16, 16) } 2 none :=
  ⟨fun h => absurd h (by decide), ⟨rfl, rfl, List.Mem.head _⟩,
    ⟨rfl, rfl, (by decide : tsFmt 0xA0810#32 ∈ [(0x0A : Tag)])⟩, fun h => absurd h (by decide),
    fun
      | 0, _ => ⟨by decide, (by decide : (0xFFFF#64).getLsbD 0 = true), .inl rfl⟩
      | n + 1, hn => absurd (show n + 1 < 1 from hn) (by omega),
    fun _ _ h => absurd h (fun e => nomatch e)⟩

/-- A bead slot 0 of core 0 in the state given, with the tag of its bead and the threads that have compared it. -/
def beadSlot (state : BitVec 3) (tag : BitVec 16) (chk : BitVec 8) : BSlot := ⟨9, 1, true, false, state, tag, 0, chk, 0x0A, 0, none, false⟩

/-- The matrix unit of core 0 with that slot and the queue given. -/
def slotted (l : List MxCmd) (state : BitVec 3) (tag : BitVec 16) (chk : BitVec 8) : State :=
  (unit (matrixer 0xA0820) l none).modPCore 0 0 fun q => { q with bslots := vset q.bslots 0 (beadSlot state tag chk) }

/-- The row of a word that reads its B from slot 0. -/
def slotRow : Rules.MatrixRow :=
  { bank := 0, a := 1, b := .slot 0, z := true, m := 32, k := 16, n := 16, tags := [0x0A], kinds := [2], chunk := 8, time := (16, 16, 16) }

/-- What the second part of `MatrixCommands` asks of every clause of it. -/
structure SlotWord (i : Instr) (s : State) (th : Thread) (r : Rules.MatrixRow) (n : BitVec 4) (b : BSlot) (pa : Nat) : Prop where
  issues : Issues i s th
  row : Rules.matrixRow i = some r
  slot : r.b = .slot n
  ready : Rules.SlotReady s th r n.toNat (th.chain.bind (·.spar))
  bead : b = vget (s.pcore (coreOf s.cur) th.part).bslots n.toNat
  place : pa = s.slotPa (coreOf s.cur) th.part n.toNat

theorem slot_word {s : State} {x : BSlot} (h : canIssue (.mmaF32 0 0 1 (.slot 0) true) s = true)
    (hb : x = vget (s.pcore (coreOf s.cur) (found s).part).bslots 0)
    (ht : decide ((found s).chain = none) && decide (tsFmt ((found s).tsreg 1) = 0x0A) && decide (tsRows ((found s).tsreg 1) = 32) &&
      decide (tsCols ((found s).tsreg 1) = 8 * 2) && decide (x.fmt = 0x0A) && (found s).abown.getLsbD 0 &&
      decide (0 < (s.pdie (dieOf (coreOf s.cur)) (found s).part).bslots) = true) :
    SlotWord (.mmaF32 0 0 1 (.slot 0) true) s (found s) slotRow 0 x (s.slotPa (coreOf s.cur) (found s).part 0) := by
  simp only [Bool.and_eq_true, decide_eq_true_eq] at ht
  obtain ⟨⟨⟨⟨⟨⟨h0, h1⟩, h2⟩, h3⟩, h4⟩, h5⟩, h6⟩ := ht
  refine ⟨Tests.issues h, rfl, rfl, ?_, hb, rfl⟩
  rw [h0]
  exact ⟨fun h => absurd h (by decide), ⟨h2, h3, h1 ▸ .head _⟩, fun h => absurd h (by decide),
    fun
      | 0, _ => ⟨by decide, h5, .inl rfl⟩
      | n + 1, hn => absurd (show n + 1 < 1 from hn) (by omega),
    fun _ _ h => absurd h (fun e => nomatch e), h6, fun _ => by rw [show ((0 : BitVec 4).toNat) = 0 from rfl, ← hb, h4]; exact .head _⟩

theorem meets_MatrixCommands :
    (∃ (i : Instr) (s : State) (th : Thread) (r : Rules.MatrixRow) (t : TReg), Issues i s th ∧ Rules.matrixRow i = some r ∧
      r.b = .tile t ∧ Rules.MatrixReady s th r t (th.chain.bind (·.spar)) ∧
      (waitingCmds (s.core (coreOf s.cur)) (slotOf s.cur)).length < 2 ∧ s.isTimed s.cur th = false) ∧
    (∃ (i : Instr) (s : State) (th : Thread) (r : Rules.MatrixRow) (t : TReg), Issues i s th ∧ Rules.matrixRow i = some r ∧
      r.b = .tile t ∧ Rules.MatrixReady s th r t (th.chain.bind (·.spar)) ∧
      2 ≤ (waitingCmds (s.core (coreOf s.cur)) (slotOf s.cur)).length) ∧
    (∃ (i : Instr) (s : State) (th : Thread) (r : Rules.MatrixRow) (n : BitVec 4) (b : BSlot) (pa : Nat), SlotWord i s th r n b pa ∧
      b.state = 2 ∧ b.chk.getLsbD (s.cur % 8) = true ∧ Rules.slotSound s (coreOf s.cur) th.part r n.toNat ∧
      (waitingCmds (s.core (coreOf s.cur)) (slotOf s.cur)).length < 2 ∧ s.isTimed s.cur th = false) ∧
    (∃ (i : Instr) (s : State) (th : Thread) (r : Rules.MatrixRow) (n : BitVec 4) (b : BSlot) (pa : Nat), SlotWord i s th r n b pa ∧
      b.state = 2 ∧ b.chk.getLsbD (s.cur % 8) = false ∧ b.tag = b.etag ∧ Rules.slotSound s (coreOf s.cur) th.part r n.toNat ∧
      2 ≤ (waitingCmds (s.core (coreOf s.cur)) (slotOf s.cur)).length) ∧
    (∃ (i : Instr) (s : State) (th : Thread) (r : Rules.MatrixRow) (n : BitVec 4) (b : BSlot) (pa : Nat), SlotWord i s th r n b pa ∧
      b.state = 2 ∧ b.chk.getLsbD (s.cur % 8) = false ∧ b.tag ≠ b.etag) ∧
    (∃ (i : Instr) (s : State) (th : Thread) (r : Rules.MatrixRow) (n : BitVec 4) (b : BSlot) (pa : Nat), SlotWord i s th r n b pa ∧
      b.state = 1) ∧
    (∃ (i : Instr) (s : State) (th : Thread) (r : Rules.MatrixRow) (n : BitVec 4) (b : BSlot) (pa : Nat), SlotWord i s th r n b pa ∧
      b.state = 4) ∧
    (∃ (i : Instr) (s : State) (th : Thread) (r : Rules.MatrixRow) (n : BitVec 4) (b : BSlot) (pa : Nat), SlotWord i s th r n b pa ∧
      b.state = 3 ∧ s.entryFree s.cur th.part = true) :=
  ⟨⟨.mmaF32 0 0 1 (.tile 2) true, unit (matrixer 0xA0820) [command 0] none, _, _, 2, issues rfl, rfl, rfl, ready_one, by decide, rfl⟩,
    ⟨.mmaF32 0 0 1 (.tile 2) true, unit (matrixer 0xA0820) [command 0, command 1] none, _, _, 2, issues rfl, rfl, rfl, ready_two,
      by decide⟩,
    ⟨_, slotted [command 0] 2 0 2, _, _, _, _, _, slot_word rfl rfl rfl, rfl, rfl, ⟨rfl, fun h => absurd h (by decide)⟩, by decide, rfl⟩,
    ⟨_, slotted [command 0, command 1] 2 0 0, _, _, _, _, _, slot_word rfl rfl rfl, rfl, rfl, rfl, ⟨rfl, fun h => absurd h (by decide)⟩, by decide⟩,
    ⟨_, slotted [] 2 7 0, _, _, _, _, _, slot_word rfl rfl rfl, rfl, rfl, by decide⟩, ⟨_, slotted [] 1 0 0, _, _, _, _, _, slot_word rfl rfl rfl, rfl⟩,
    ⟨_, slotted [] 4 0 0, _, _, _, _, _, slot_word rfl rfl rfl, rfl⟩, ⟨_, slotted [] 3 0 0, _, _, _, _, _, slot_word rfl rfl rfl, rfl, rfl⟩⟩

/-- A command that is over. -/
def ended : MxRun := ⟨command 0, 0, 17, ⟨[(8, ⟨1, 2, 0, false⟩)], 1, false, 0, [], none, 0, 0, 0⟩⟩

/-- A worker with two tiles of zeros for a residue command on INT16. -/
def residuer : Thread := { worker with abown := 0xFFFF, ts := vset (vset worker.ts 1 0x21020#32) 2 0x21020#32 }

/-- A residue command of slot 1 into banks 0 to 5. -/
def resCommand : MxCmd := ⟨0, 1, .rmmaI16 0 0 1 (.tile 2) true, 0x20000, .rne, false, 0, none, 0, 0, 0, none, 0xFF, none, 0⟩

theorem idle_residue (q i j : Nat) : Rules.rmmaResidue (unit residuer [resCommand] none) 0 residuer
    { bank := 0, a := 1, b := .tile 2, z := true, m := 32, k := 32, n := 32, tags := [0x02, 0x06], kinds := [8, 9, 10, 11, 12, 13]
      chunk := 32, time := (36, 36, 36), rns := true } resCommand q i j = 0 := by
  have h : ∀ n w : Nat, (0#16384).toNat / n % w = 0 := fun n w => by simp
  have hA : ∀ k, Rules.logicalA residuer
      { bank := 0, a := 1, b := .tile 2, z := true, m := 32, k := 32, n := 32, tags := [0x02, 0x06], kinds := [8, 9, 10, 11, 12, 13]
        chunk := 32, time := (36, 36, 36), rns := true } none i k = 0 := fun k => h _ _
  have hf : ∀ (l : List Nat) (f : Nat → Int), l.foldl (fun z k => z + intOf true 16 0 % (rodMod q : Int) * f k) 0 = 0 := by
    intro l f
    have : intOf true 16 0 = 0 := by decide
    simp only [this, Int.zero_emod, Int.zero_mul, Int.add_zero]
    induction l with
    | nil => rfl
    | cons a l ih => exact ih
  show (((0 : Nat) + List.foldl (fun z k => z + intOf true 16 (Rules.logicalA residuer _ none i k) % (rodMod q : Int) *
    (intOf _ _ _ % (rodMod q : Int))) (0 : Int) (nums 32)) % (rodMod q : Int)).toNat = 0
  simp only [hA]
  rw [hf]
  simp

theorem idle_residues (i j : Nat) : checkRods (liveRods ((unit residuer [resCommand] none).core 0).rodFail)
    ((nums 6).map fun q => Rules.rmmaResidue (unit residuer [resCommand] none) 0 residuer
      { bank := 0, a := 1, b := .tile 2, z := true, m := 32, k := 32, n := 32, tags := [0x02, 0x06], kinds := [8, 9, 10, 11, 12, 13]
        chunk := 32, time := (36, 36, 36), rns := true } resCommand q i j) = if false = true then .over 0 else .ok 0 := by
  simp only [idle_residue]
  decide

theorem meets_MatrixUnit :
    (∃ (core n k : Nat) (c : MxCmd) (l : List MxCmd) (s : State) (th : Thread), (s.core core).mxRun = none ∧ n < 8 ∧
      k = ((s.core core).mxLast + 1 + n) % 8 ∧ waitingCmds (s.core core) k = c :: l ∧
      (∀ m, m < n → waitingCmds (s.core core) (((s.core core).mxLast + 1 + m) % 8) = []) ∧ s.thread? (tidOf core k) = some th ∧
      (∀ b, (bankOf (s.core core) b).poisoned = false) ∧
      ∃ row, Rules.matrixRow c.instr = some row ∧ tsFmt (th.tsreg row.a) ∈ row.tags ∧ Rules.tagOfB th row c ∈ row.tags ∧ row.rns = false) ∧
    (∃ (core n k : Nat) (c : MxCmd) (l : List MxCmd) (s : State) (th : Thread), (s.core core).mxRun = none ∧ n < 8 ∧
      k = ((s.core core).mxLast + 1 + n) % 8 ∧ waitingCmds (s.core core) k = c :: l ∧
      (∀ m, m < n → waitingCmds (s.core core) (((s.core core).mxLast + 1 + m) % 8) = []) ∧ s.thread? (tidOf core k) = some th ∧
      (∀ b, (bankOf (s.core core) b).poisoned = false) ∧
      ∃ (row : Rules.MatrixRow) (y : Nat → Nat → Int) (ovf : Nat → Nat → Bool), Rules.matrixRow c.instr = some row ∧
        tsFmt (th.tsreg row.a) ∈ row.tags ∧ Rules.tagOfB th row c ∈ row.tags ∧ row.rns = true ∧ (s.core core).rodOff = false ∧
        (s.core core).rodFaults = [] ∧ ∀ i j, i < 32 → j < 32 → checkRods (liveRods (s.core core).rodFail)
          ((nums 6).map fun q => Rules.rmmaResidue s core th row c q i j) = if ovf i j then .over (y i j) else .ok (y i j)) ∧
    (∃ (core : Nat) (r : MxRun) (s : State) (th : Thread), (s.core core).mxRun = some r ∧ r.finish ≤ s.cycle ∧ r.cmd.slot < 8 ∧
      r.cmd.due = none ∧ r.cmd.stoch = false ∧ s.thread? (tidOf core r.cmd.slot) = some th ∧ r.res.rnsf = false ∧ r.res.events = [] ∧
      r.res.mark = none ∧ r.res.trans = 0 ∧ r.res.unst = 0 ∧ r.res.unloc = 0 ∧ (r.res.banks.map (·.1)).Nodup ∧ r.cmd.lost = 0 ∧
      th.again = none ∧ (∀ p n b, th.park = some p → p.cond ≠ .posted n b)) :=
  ⟨⟨0, 0, 1, command 0, [], unit (matrixer 0xA0820) [command 0] none, _, rfl, by decide, rfl, rfl, fun _ h => absurd h (Nat.not_lt_zero _),
      rfl, fun _ => rfl, _, rfl, by decide, by decide, rfl⟩,
    ⟨0, 0, 1, resCommand, [], unit residuer [resCommand] none, _, rfl, by decide, rfl, rfl, fun _ h => absurd h (Nat.not_lt_zero _),
      rfl, fun _ => rfl, _, fun _ _ => 0, fun _ _ => false, rfl, by decide, by decide, rfl, rfl, rfl, fun i j _ _ => idle_residues i j⟩,
    ⟨0, ended, unit (matrixer 0xA0820) [] (some ended), _, rfl, by decide, by decide, rfl, rfl, rfl, rfl, rfl, rfl, rfl, rfl, rfl,
      by decide, rfl, rfl, fun _ _ _ h => nomatch h⟩⟩

/-- A second thread of the core, which holds every bank. -/
def crowded : State := { on (workerWith 5 1) with threads := [(0, { worker with kind := .control, abown := 0xFFFF }), (1, workerWith 5 1)] }

theorem meets_BankWords :
    (∃ (st : Stall) (x : SReg) (s : State) (th : Thread) (n : Nat), Issues (.acqa st x) s th ∧ n = (th.sv x).toNat % 32 ∧
      (n = 0 ∨ 16 < n)) ∧
    (∃ (st : Stall) (x : SReg) (s : State) (th : Thread) (n : Nat), Issues (.acqa st x) s th ∧ n = (th.sv x).toNat % 32 ∧ 0 < n ∧ n ≤ 16 ∧
      8 * th.slotsM < popcNat th.abown.toNat 64 + n) ∧
    (∃ (st : Stall) (x : SReg) (s : State) (th : Thread) (n : Nat), Issues (.acqa st x) s th ∧ n = (th.sv x).toNat % 32 ∧ 0 < n ∧ n ≤ 16 ∧
      popcNat th.abown.toNat 64 + n ≤ 8 * th.slotsM ∧
      (∀ b ∈ bankPool (s.pdie (dieOf (coreOf s.cur)) th.part), ¬ Rules.freeAt s th n b)) ∧
    (∃ (st : Stall) (x : SReg) (s : State) (th : Thread) (n b : Nat), Issues (.acqa st x) s th ∧ n = (th.sv x).toNat % 32 ∧ 0 < n ∧
      n ≤ 16 ∧ popcNat th.abown.toNat 64 + n ≤ 8 * th.slotsM ∧ Rules.freeAt s th n b ∧ (∀ d, d < b → ¬ Rules.freeAt s th n d)) ∧
    (∃ (st : Stall) (x : SReg) (s : State) (th : Thread), Issues (.rela st x) s th ∧ th.sv x &&& ~~~th.abown ≠ 0) ∧
    (∃ (st : Stall) (x : SReg) (s : State) (th : Thread), Issues (.rela st x) s th ∧ th.sv x &&& ~~~th.abown = 0 ∧ s.cmds s.cur = []) ∧
    (∃ (st : Stall) (n : Bank) (s : State) (th : Thread), Issues (.azero st n) s th ∧ th.abown.getLsbD n.toNat = true ∧
      s.cmds s.cur = []) :=
  ⟨⟨0, 5, on (workerWith 5 17), _, _, issues rfl, rfl, .inr (by decide)⟩,
    ⟨0, 5, on (workerWith 5 9), _, _, issues rfl, rfl, by decide, by decide, by decide⟩,
    ⟨0, 5, crowded, _, 1, issues rfl, rfl, by decide, by decide, by decide, fun b hb h =>
      absurd (h 0 (by decide)).2 ((by decide : ∀ b ∈ bankPool (slots2 PDie.reset), ¬ (crowded.heldBanks 0).getLsbD (b + 0) = false) b hb)⟩,
    ⟨0, 5, on (workerWith 5 8), _, 8, 0, issues rfl, rfl, by decide, by decide, by decide, fun i hi => by revert i; decide,
      fun _ h => absurd h (Nat.not_lt_zero _)⟩,
    ⟨0, 5, on (workerWith 5 1), _, issues rfl, by decide⟩, ⟨0, 5, on (matrixer 0), _, issues rfl, rfl, rfl⟩,
    ⟨0, 15, on (matrixer 0), _, issues rfl, rfl, rfl⟩⟩

/-- A worker whose bank 0 holds an FP32 accumulator; the window is its last row. -/
def reader : State := (on { matrixer 0xA0801 with accWin := 31 }).modCore 0 fun c => { c with banks := [(0, ⟨5, 2, 0, false⟩)] }

theorem reader_fits : Rules.banksFit reader (found reader) 0 [2] false := fun
  | 0, _ => ⟨by decide, rfl, .inr (.inr rfl)⟩
  | n + 1, hn => absurd (show n + 1 < 1 from hn) (Nat.not_lt_of_le (Nat.succ_le_succ (Nat.zero_le n)))

theorem meets_AccumulatorReads_zero : ∃ (st : Stall) (n : Bank) (d : TReg) (s : State) (th : Thread) (w : Nat), Issues (.ardt st n d) s th ∧
    s.cmds s.cur = [] ∧ (bankOf (s.core (coreOf s.cur)) n.toNat).kind.toNat = 0 ∧ th.abown.getLsbD n.toNat = true ∧
    (bankOf (s.core (coreOf s.cur)) n.toNat).poisoned = false ∧ tsRows (th.tsreg d) ≠ 0 ∧ tsCols (th.tsreg d) ≠ 0 ∧
    tagWidth (tsFmt (th.tsreg d)) = some w ∧ ardtTag (tsFmt (th.tsreg d)) = true ∧ tsRows (th.tsreg d) * tsCols (th.tsreg d) * w ≤ 16384 :=
  ⟨0, 1, 1, reader, _, 32, issues rfl, rfl, rfl, rfl, rfl, by decide, by decide, rfl, rfl, by decide⟩

theorem meets_AccumulatorReads : ∃ (st : Stall) (n : Bank) (d : TReg) (s : State) (th : Thread) (kind rows cols w : Nat) (kinds : List Nat),
    Issues (.ardt st n d) s th ∧ s.cmds s.cur = [] ∧
    (kind, cols, rows, kinds) ∈ [(1, 16, 16, [1]), (2, 16, 32, [2]), (3, 32, 32, [3, 4])] ∧
    (bankOf (s.core (coreOf s.cur)) n.toNat).kind.toNat = kind ∧ Rules.banksFit s th n.toNat kinds false ∧
    (∀ b, (bankOf (s.core (coreOf s.cur)) b).poisoned = false) ∧ tsCols (th.tsreg d) = cols ∧ tsRows (th.tsreg d) ≠ 0 ∧
    th.accWin.toNat + tsRows (th.tsreg d) ≤ rows ∧ tagWidth (tsFmt (th.tsreg d)) = some w ∧ ardtTag (tsFmt (th.tsreg d)) = true ∧
    tsRows (th.tsreg d) * cols * w ≤ 16384 :=
  ⟨0, 0, 1, reader, _, 2, 32, 16, 32, [2], issues rfl, rfl, .tail _ (.head _), rfl, reader_fits,
    fun b => match b with | 0 => rfl | _ + 1 => rfl, rfl, by decide, by decide, rfl, rfl, by decide⟩

theorem residues_ready (shape : BitVec 32) : Rules.ResidueReady (on (matrixer shape)) (found (on (matrixer shape))) 0 :=
  ⟨rfl, fun n hn => ⟨Nat.lt_of_lt_of_le (show 0 + n < 6 by rw [Nat.zero_add]; exact hn) (by decide),
      (by decide : ∀ n, n < 6 → (0xFFFF#64).getLsbD (0 + n) = true) n hn, .inr (.inl rfl)⟩, fun _ _ => rfl, rfl⟩

theorem residues_zero (shape : BitVec 32) (n r e : Nat) : Rules.residueAt (on (matrixer shape)) 0 n r e = 0 := by
  show (0#16384).toNat / 2 ^ (16 * e) % 2 ^ 16 = 0
  simp

/-- A worker whose tile t1 holds one element below the range in element 0 and zeros behind it. -/
def forwarder (ovt : Bool) : Thread :=
  let w := matrixer 0x41001
  { w with fpc := if ovt then w.fpc ||| 0x100 else w.fpc, t := vset w.t 1 ⟨0x8000000000000000, 0⟩ }

theorem residues_held (b : Bool) : Rules.ResidueReady (on (forwarder b)) (found (on (forwarder b))) 0 :=
  ⟨rfl, fun n hn => ⟨Nat.lt_of_lt_of_le (show 0 + n < 6 by rw [Nat.zero_add]; exact hn) (by decide),
      (by decide : ∀ n, n < 6 → (0xFFFF#64).getLsbD (0 + n) = true) n hn, .inr (.inl rfl)⟩, fun _ _ => rfl, rfl⟩

theorem meets_ResidueForward :
    (∃ (st : Stall) (n : Bank) (d : TReg) (s : State) (th : Thread) (sg : Bool) (w : Nat) (v : Nat → Int),
      Issues (.rfwd st n d) s th ∧ Rules.ResidueReady s th n.toNat ∧
      Rules.windowFits th d [0x01, 0x02, 0x03, 0x04, 0x05, 0x06, 0x07, 0x08] ∧ tagInt (tsFmt (th.tsreg d)) = some (sg, w) ∧
      (∀ e, v e = intOf sg w (Rules.tileNum (th.treg d).bits w e)) ∧ (∀ e, e < 32 * tsRows (th.tsreg d) → Rules.saturated (v e) = v e)) ∧
    (∃ (st : Stall) (n : Bank) (d : TReg) (s : State) (th : Thread) (sg : Bool) (w : Nat) (v : Nat → Int),
      Issues (.rfwd st n d) s th ∧ Rules.ResidueReady s th n.toNat ∧
      Rules.windowFits th d [0x01, 0x02, 0x03, 0x04, 0x05, 0x06, 0x07, 0x08] ∧ tagInt (tsFmt (th.tsreg d)) = some (sg, w) ∧
      (∀ e, v e = intOf sg w (Rules.tileNum (th.treg d).bits w e)) ∧ th.ovt = false ∧
      (∃ e, e < 32 * tsRows (th.tsreg d) ∧ Rules.saturated (v e) ≠ v e)) ∧
    (∃ (st : Stall) (n : Bank) (d : TReg) (s : State) (th : Thread) (sg : Bool) (w e : Nat) (v : Nat → Int),
      Issues (.rfwd st n d) s th ∧ Rules.ResidueReady s th n.toNat ∧
      Rules.windowFits th d [0x01, 0x02, 0x03, 0x04, 0x05, 0x06, 0x07, 0x08] ∧ tagInt (tsFmt (th.tsreg d)) = some (sg, w) ∧
      (∀ e, v e = intOf sg w (Rules.tileNum (th.treg d).bits w e)) ∧ th.ovt = true ∧ e < 32 * tsRows (th.tsreg d) ∧
      Rules.saturated (v e) ≠ v e ∧ (∀ k, k < e → Rules.saturated (v k) = v k)) :=
  ⟨⟨0, 0, 1, on (matrixer 0x11001), _, true, 8, _, issues rfl, residues_ready _, ⟨by decide, rfl, .head _, by decide⟩, rfl, fun _ => rfl,
      of_decide_eq_true rfl⟩,
    ⟨0, 0, 1, on (forwarder false), _, true, 64, _, issues rfl, residues_held _, ⟨by decide, rfl, by decide, by decide⟩, rfl, fun _ => rfl,
      rfl, 0, by decide, by decide⟩,
    ⟨0, 0, 1, on (forwarder true), _, true, 64, 0, _, issues rfl, residues_held _, ⟨by decide, rfl, by decide, by decide⟩, rfl, fun _ => rfl,
      rfl, by decide, by decide, fun _ h => absurd h (Nat.not_lt_zero _)⟩⟩

theorem meets_ResidueReads :
    (∃ (i : Instr) (n : Bank) (d : TReg) (w : Nat) (g : Tag) (s : State) (th : Thread) (v : Nat → Int), Issues i s th ∧
      ((∃ st, i = .rrevI64 st n d ∧ w = 64 ∧ g = 0x04) ∨ (∃ st, i = .rrevI32 st n d ∧ w = 32 ∧ g = 0x03)) ∧
      Rules.ResidueReady s th n.toNat ∧ Rules.windowFits th d [g] ∧ 32 * tsRows (th.tsreg d) * w ≤ 16384 ∧
      (∀ e, checkRods (liveRods (s.core (coreOf s.cur)).rodFail)
        ((nums 6).map fun r => Rules.residueAt s (coreOf s.cur) n.toNat r e) = .ok (v e))) ∧
    (∃ (st : Stall) (n : Bank) (x : SReg) (s : State) (th : Thread), Issues (.rchk st n x) s th ∧ Rules.ResidueReady s th n.toNat ∧
      (∀ e, e < 1024 → ∃ v, checkRods (liveRods (s.core (coreOf s.cur)).rodFail)
        ((nums 6).map fun r => Rules.residueAt s (coreOf s.cur) n.toNat r e) = .ok v)) ∧
    (∃ (st : Stall) (x : SReg) (s : State) (th : Thread), Issues (.rodrd st x) s th) ∧
    (∃ (st : Stall) (x : SReg) (s : State) (th : Thread), Issues (.roddeg st x) s th ∧ th.kind = .control ∧ th.world = true ∧
      (s.core (coreOf s.cur)).mxRun = none) ∧
    (∃ (st : Stall) (x : SReg) (s : State) (th : Thread), Issues (.roddeg st x) s th ∧ (th.kind ≠ .control ∨ th.world = false)) :=
  ⟨⟨.rrevI32 0 0 1, 0, 1, 32, 0x03, on (matrixer 0x31010), _, fun _ => 0, issues rfl, .inr ⟨0, rfl, rfl, rfl⟩, residues_ready _,
      ⟨by decide, rfl, .head _, by decide⟩, by decide, fun e => by
        show checkRods _ ((nums 6).map fun r => Rules.residueAt (on (matrixer 0x31010)) 0 0 r e) = .ok 0
        simp only [residues_zero]; decide⟩,
    ⟨0, 0, 5, on (matrixer 0), _, issues rfl, residues_ready _, fun e _ => ⟨0, by
        show checkRods _ ((nums 6).map fun r => Rules.residueAt (on (matrixer 0)) 0 0 r e) = .ok 0
        simp only [residues_zero]; decide⟩⟩,
    ⟨0, 5, on worker, _, issues rfl⟩, ⟨0, 5, chief 5 1, _, issues rfl, rfl, rfl, rfl⟩, ⟨0, 5, on worker, _, issues rfl, .inl (by decide)⟩⟩

theorem meets_ResidueCheck : ∃ v : Int, -(576302434976808960 : Int) ≤ v ∧ v < 576302434976808960 :=
  ⟨-576302434976808960, by decide, by decide⟩

/-! #### Engines and bead slots -/

/-- A worker whose engine word has read its records: its completion object is named by s5, its length by s7. -/
def forker (i : Instr) (phase : Nat) (data : List Byte) (n : Word) : Thread :=
  { worker with s := vset (vset (vset worker.s 5 ⟨0x1000, 0⟩) 6 ⟨0x2000, 0⟩) 7 ⟨n, 0⟩, again := some ⟨i, 0, phase, data, 0, false⟩ }

/-- What btour has read: a tensor of 1 by 1 INT8 (tag 1), a header of one stop, and the stop on core 0 in slot 1. -/
def tourBytes : List Byte :=
  List.replicate 16 0 ++ [1, 0, 0, 0, 1, 0, 0, 0] ++ [0, 0, 1, 1, 0, 0, 0, 0] ++ [1] ++ List.replicate 63 0 ++
  List.replicate 6 0 ++ [1] ++ List.replicate 9 0

/-- A copy's record: from VA 0x100 to the VA of those bytes, of the format given. -/
def copyTo (a b c fmt : Byte) : List Byte :=
  [a, b, c, 0, 0, 0, 0, 0] ++ [0, 1, 0, 0, 0, 0, 0, 0] ++ List.replicate 10 0 ++ [fmt] ++ List.replicate 37 0

/-- A copy's record to VA 0x100000, which no mapping holds. -/
def copyBytes : List Byte := copyTo 0 0 0x10 0

/-- The worker whose copy of 8 bytes to a VA goes on. -/
def copying (a b c fmt : Byte) : Thread := forker (.copy 0 5 6 7) 1 (copyTo a b c fmt) 8

/-- A multicast's record: from VA 0x100 to offset 0xBFF8 of receiver 0, no barrier. -/
def mcastBytes : List Byte := [0, 1, 0, 0, 0, 0, 0, 0] ++ [0xF8, 0xBF, 0, 0, 0xFF, 0xFF, 0xFF, 0xFF] ++ [15] ++ List.replicate 47 0

/-- The check of a completion object. -/
def object (s : State) (th : Thread) (va : Word) : State × Except XFail Place := s.check (whoIs s.cur th) { kind := 1, size := 64 } va

/-- `Rules.ObjReady`, as a test. -/
def canFork (s : State) (th : Thread) (va : Word) : Bool :=
  let p := placeOf (object s th va).2
  let t := (object s th va).1
  passes (object s th va) && p.here && decide (spaceOf p.pa = 1) &&
  decide (areaOf (t.pdie (dieOf (coreOfPa p.pa)) th.part) (p.pa % 2 ^ 19) = .plain) && !p.leaf.sc && !t.isPoisoned p.pa 1 &&
  decide (t.num p.pa 1 ≠ 1) &&
  decide ((t.engines.filter fun x => decide (x.2.core = coreOf s.cur) && decide (x.2.slot = slotOf s.cur)).length < 4) &&
  decide (t.waiters = [])

theorem forks {s : State} {th : Thread} {va : Word} (h : canFork s th va = true) :
    Rules.ObjReady s th va (placeOf (object s th va).2) (object s th va).1 := by
  unfold canFork at h
  simp only [Bool.and_eq_true, decide_eq_true_eq, Bool.not_eq_true'] at h
  obtain ⟨⟨⟨⟨⟨⟨⟨⟨h1, h2⟩, h3⟩, h4⟩, h5⟩, h6⟩, h7⟩, h8⟩, h9⟩ := h
  exact ⟨passed h1, h2, h3, h4, h5, h6, h7, h8, h9⟩

/-- A thread that waits for one of its slot's four commands. -/
def queueing : Thread := { worker with park := some ⟨.copy 0 5 6 7, .engineRoom, 3, 20, false, none, none, none, 0, 0, 0, 1, copyBytes⟩ }

theorem meets_EngineWords :
    (∃ (st : Stall) (x y z : SReg) (s t : State) (th : Thread) (p : Place) (a : Again), Rules.ObjReady s th (th.sv x) p t ∧
      GoesOn (.btour st x y z) s th a ∧ a.phase = 3 ∧ Rules.TourReady s th y z a.data ∧ Rules.tourFits a.data) ∧
    (∃ (st : Stall) (x y z : SReg) (s t : State) (th : Thread) (p : Place) (a : Again) (v : State) (r : Except XFail Leaf),
      Rules.ObjReady s th (th.sv x) p t ∧ GoesOn (.copy st x y z) s th a ∧ a.phase = 1 ∧ Rules.CopyReady th z a.data ∧
      t.translate (whoIs s.cur th) (wordAt a.data 0) 1 = (v, r) ∧ (∀ l, r = .ok l → spaceOf (leafPa l (wordAt a.data 0)) ≠ 1)) ∧
    (∃ (st : Stall) (x y z : SReg) (s t : State) (th : Thread) (p : Place) (a : Again) (v : State) (l : Leaf),
      Rules.ObjReady s th (th.sv x) p t ∧ GoesOn (.copy st x y z) s th a ∧ a.phase = 1 ∧ Rules.CopyReady th z a.data ∧
      t.translate (whoIs s.cur th) (wordAt a.data 0) 1 = (v, .ok l) ∧ l.rp = none ∧ spaceOf (leafPa l (wordAt a.data 0)) = 1 ∧
      areaOf (v.pdie (dieOf (coreOfPa (leafPa l (wordAt a.data 0)))) th.part) (leafPa l (wordAt a.data 0) % 2 ^ 19) = .plain) ∧
    (∃ (st : Stall) (x y z : SReg) (s t : State) (th : Thread) (p : Place) (a : Again) (v : State) (l : Leaf) (pa c n : Nat) (d : PDie),
      Rules.ObjReady s th (th.sv x) p t ∧ GoesOn (.copy st x y z) s th a ∧ a.phase = 1 ∧ Rules.CopyReady th z a.data ∧
      t.translate (whoIs s.cur th) (wordAt a.data 0) 1 = (v, .ok l) ∧ l.w = true ∧ l.cm = true ∧ (l.world = true → th.world = true) ∧
      l.rp = none ∧ pa = leafPa l (wordAt a.data 0) ∧ spaceOf pa = 1 ∧ v.home pa = some (.core c) ∧ d = v.pdie (dieOf c) th.part ∧
      d.v = true ∧ lsBase d ≤ pa % 2 ^ 19 ∧ pa % 2 ^ 19 < lsTop d ∧ areaOf d (pa % 2 ^ 19) = .bead n ∧ c = coreOf s.cur ∧
      pa % 2 ^ 19 = slotOff d n ∧ (th.sv z).toNat ≤ 8192 ∧ byteField a.data 0x1A 1 ≠ 0 ∧ byteField a.data 0x1A 1 < 64 ∧
      tagAssigned (BitVec.ofNat 6 (byteField a.data 0x1A 1)) = true ∧ byteField a.data 0x10 4 = 0) ∧
    (∃ (st : Stall) (x y z : SReg) (s t : State) (th : Thread) (p : Place) (a : Again) (v : State) (l : Leaf) (pa c : Nat) (d : PDie),
      Rules.ObjReady s th (th.sv x) p t ∧ GoesOn (.copy st x y z) s th a ∧ a.phase = 1 ∧ Rules.CopyReady th z a.data ∧
      t.translate (whoIs s.cur th) (wordAt a.data 0) 1 = (v, .ok l) ∧ l.w = true ∧ l.cm = true ∧ (l.world = true → th.world = true) ∧
      l.rp = none ∧ pa = leafPa l (wordAt a.data 0) ∧ spaceOf pa = 1 ∧ v.home pa = some (.core c) ∧ d = v.pdie (dieOf c) th.part ∧
      d.v = true ∧ lsBase d ≤ pa % 2 ^ 19 ∧ pa % 2 ^ 19 < lsTop d ∧ areaOf d (pa % 2 ^ 19) = .save) ∧
    (∃ (st : Stall) (x y z : SReg) (s t : State) (th : Thread) (p : Place) (a : Again) (v : State) (l : Leaf) (pa c n : Nat) (d : PDie),
      Rules.ObjReady s th (th.sv x) p t ∧ GoesOn (.copy st x y z) s th a ∧ a.phase = 1 ∧ Rules.CopyReady th z a.data ∧
      t.translate (whoIs s.cur th) (wordAt a.data 0) 1 = (v, .ok l) ∧ l.w = true ∧ l.cm = true ∧ (l.world = true → th.world = true) ∧
      l.rp = none ∧ pa = leafPa l (wordAt a.data 0) ∧ spaceOf pa = 1 ∧ v.home pa = some (.core c) ∧ d = v.pdie (dieOf c) th.part ∧
      d.v = true ∧ lsBase d ≤ pa % 2 ^ 19 ∧ pa % 2 ^ 19 < lsTop d ∧ areaOf d (pa % 2 ^ 19) = .bead n ∧
      byteField a.data 0x1A 1 = 0) ∧
    (∃ (st : Stall) (x y z : SReg) (s t : State) (th : Thread) (p : Place) (a : Again), Rules.ObjReady s th (th.sv x) p t ∧
      GoesOn (.mcast st x y z) s th a ∧ a.phase = 1 ∧ Rules.McastReady s th z a.data) ∧
    (∃ (st : Stall) (x y z : SReg) (i : Instr) (tid : Nat) (s : State) (th : Thread) (p : Park), s.thread? tid = some th ∧
      th.park = some p ∧ p.cond = .engineRoom ∧ p.instr = i ∧ (i = .btour st x y z ∨ i = .copy st x y z ∨ i = .mcast st x y z) ∧
      (s.engines.filter fun e => decide (e.2.core = coreOf tid) && decide (e.2.slot = slotOf tid)).length < 4) :=
  ⟨⟨0, 5, 6, 7, on (forker (.btour 0 5 6 7) 3 tourBytes 0), _, forker (.btour 0 5 6 7) 3 tourBytes 0, _, ⟨_, 0, 3, tourBytes, 0, false⟩,
      forks rfl, ⟨_, rfl, rfl, rfl, rfl⟩, rfl,
      ⟨rfl, rfl, by decide, rfl, by decide, by decide, rfl, rfl, by decide, by decide, fun
        | 0, _ => by decide
        | k + 1, h => absurd (show k + 1 < 1 from h) (by omega)⟩, by unfold Rules.tourFits; decide⟩,
    ⟨0, 5, 6, 7, on (forker (.copy 0 5 6 7) 1 copyBytes 8), _, forker (.copy 0 5 6 7) 1 copyBytes 8, _, ⟨_, 0, 1, copyBytes, 0, false⟩, _, _,
      forks rfl, ⟨_, rfl, rfl, rfl, rfl⟩, rfl,
      ⟨rfl, by decide, .inl (by decide), .inl rfl⟩, rfl, fun l h => nomatch h⟩,
    ⟨0, 5, 6, 7, on (copying 0 0x30 0 0), _, copying 0 0x30 0 0, _, ⟨_, 0, 1, copyTo 0 0x30 0 0, 0, false⟩, _, _,
      forks rfl, ⟨_, rfl, rfl, rfl, rfl⟩, rfl, ⟨rfl, by decide, .inl (by decide), .inl rfl⟩, mapped rfl, rfl, rfl, rfl⟩,
    ⟨0, 5, 6, 7, on (copying 0 0xC0 1 0x0A), _, copying 0 0xC0 1 0x0A, _, ⟨_, 0, 1, copyTo 0 0xC0 1 0x0A, 0, false⟩, _, _, _, _, 0, _,
      forks rfl, ⟨_, rfl, rfl, rfl, rfl⟩, rfl, ⟨rfl, by decide, .inl (by decide), .inl rfl⟩, mapped rfl, rfl, rfl, fun _ => rfl, rfl, rfl, rfl, rfl, rfl, rfl, by decide, by decide, rfl, rfl, rfl, by decide, by decide, by decide, rfl, rfl⟩,
    ⟨0, 5, 6, 7, on (copying 0 0xC0 0 0), _, copying 0 0xC0 0 0, _, ⟨_, 0, 1, copyTo 0 0xC0 0 0, 0, false⟩, _, _, _, _, _,
      forks rfl, ⟨_, rfl, rfl, rfl, rfl⟩, rfl, ⟨rfl, by decide, .inl (by decide), .inl rfl⟩, mapped rfl, rfl, rfl, fun _ => rfl, rfl, rfl, rfl, rfl, rfl, rfl, by decide, by decide, rfl⟩,
    ⟨0, 5, 6, 7, on (copying 0 0xC0 1 0), _, copying 0 0xC0 1 0, _, ⟨_, 0, 1, copyTo 0 0xC0 1 0, 0, false⟩, _, _, _, _, 0, _,
      forks rfl, ⟨_, rfl, rfl, rfl, rfl⟩, rfl, ⟨rfl, by decide, .inl (by decide), .inl rfl⟩, mapped rfl, rfl, rfl, fun _ => rfl, rfl, rfl, rfl, rfl, rfl, rfl, by decide, by decide, rfl, rfl⟩,
    ⟨0, 5, 6, 7, on (forker (.mcast 0 5 6 7) 1 mcastBytes 8), _, forker (.mcast 0 5 6 7) 1 mcastBytes 8, _, ⟨_, 0, 1, mcastBytes, 0, false⟩,
      forks rfl, ⟨_, rfl, rfl, rfl, rfl⟩, rfl,
      ⟨by decide, by decide, by decide, by decide, .inl rfl⟩⟩,
    ⟨0, 5, 6, 7, .copy 0 5 6 7, 1, on queueing, _, _, rfl, rfl, rfl, rfl, .inr (.inl rfl), by decide⟩⟩

/-- A slot of core 0 in the state given, bound to slot 1 when `bound`, with a bead of tag 7 and the tag 7 or 8 expected. -/
def slotIn (state : BitVec 3) (bound : Bool) (etag : BitVec 16) : BSlot :=
  { BSlot.reset with state := state, bound := bound, holder := 1, tag := 7, etag := etag }

/-- The worker with the bead slot of its core that s5 names, 1 by default. -/
def beads (b : BSlot) (n : Word) : State := (on (workerWith 5 n)).modPCore 0 0 fun q => { q with bslots := vset q.bslots 1 b }

theorem meets_BeadWords :
    (∃ (st : Stall) (x y : SReg) (s : State) (th : Thread) (n : Nat), n = (th.sv x).toNat % 16 ∧ Issues (.btag st x y) s th ∧
      n < (s.pdie (dieOf (coreOf s.cur)) th.part).bslots) ∧
    (∃ (st : Stall) (x y : SReg) (s : State) (th : Thread) (n : Nat), n = (th.sv x).toNat % 16 ∧ Issues (.btag st x y) s th ∧
      (s.pdie (dieOf (coreOf s.cur)) th.part).bslots ≤ n) ∧
    (∃ (st : Stall) (x : SReg) (e : BitVec 6) (s : State) (th : Thread) (n : Nat) (b : BSlot), n = (th.sv x).toNat % 16 ∧
      b = vget (s.pcore (coreOf s.cur) th.part).bslots n ∧ Issues (.bwait st x e) s th ∧
      n < (s.pdie (dieOf (coreOf s.cur)) th.part).bslots ∧ s.entryFree s.cur th.part = true ∧ b.state = 2 ∧ b.tag = b.etag) ∧
    (∃ (st : Stall) (x : SReg) (e : BitVec 6) (s : State) (th : Thread) (n : Nat) (b : BSlot), n = (th.sv x).toNat % 16 ∧
      b = vget (s.pcore (coreOf s.cur) th.part).bslots n ∧ Issues (.bwait st x e) s th ∧
      n < (s.pdie (dieOf (coreOf s.cur)) th.part).bslots ∧ s.entryFree s.cur th.part = true ∧ b.state = 2 ∧ b.tag ≠ b.etag) ∧
    (∃ (st : Stall) (x : SReg) (e : BitVec 6) (s : State) (th : Thread) (n : Nat) (b : BSlot), n = (th.sv x).toNat % 16 ∧
      b = vget (s.pcore (coreOf s.cur) th.part).bslots n ∧ Issues (.bwait st x e) s th ∧
      n < (s.pdie (dieOf (coreOf s.cur)) th.part).bslots ∧ s.entryFree s.cur th.part = true ∧ b.state = 4) ∧
    (∃ (st : Stall) (x : SReg) (e : BitVec 6) (s : State) (th : Thread) (n : Nat) (b : BSlot), n = (th.sv x).toNat % 16 ∧
      b = vget (s.pcore (coreOf s.cur) th.part).bslots n ∧ Issues (.bwait st x e) s th ∧
      n < (s.pdie (dieOf (coreOf s.cur)) th.part).bslots ∧ s.entryFree s.cur th.part = true ∧ b.state ≠ 2 ∧ b.state ≠ 4) ∧
    (∃ (st : Stall) (x : SReg) (s : State) (th : Thread) (n : Nat) (b : BSlot), n = (th.sv x).toNat % 16 ∧
      b = vget (s.pcore (coreOf s.cur) th.part).bslots n ∧ Issues (.bpass st x) s th ∧
      n < (s.pdie (dieOf (coreOf s.cur)) th.part).bslots ∧ b.state = 2 ∧ b.bound = true ∧ b.holder.toNat = s.cur % 8) ∧
    (∃ (st : Stall) (x : SReg) (s : State) (th : Thread) (n : Nat) (b : BSlot), n = (th.sv x).toNat % 16 ∧
      b = vget (s.pcore (coreOf s.cur) th.part).bslots n ∧ Issues (.bpass st x) s th ∧
      n < (s.pdie (dieOf (coreOf s.cur)) th.part).bslots ∧ (b.state ≠ 2 ∨ b.bound = false ∨ b.holder.toNat ≠ s.cur % 8)) :=
  ⟨⟨0, 5, 6, beads (slotIn 4 true 7) 1, _, _, rfl, issues rfl, by decide⟩,
    ⟨0, 5, 6, beads (slotIn 0 true 7) 2, _, _, rfl, issues rfl, by decide⟩,
    ⟨0, 5, 9, beads (slotIn 2 true 7) 1, _, _, _, rfl, rfl, issues rfl, by decide, rfl, rfl, rfl⟩,
    ⟨0, 5, 9, beads (slotIn 2 true 8) 1, _, _, _, rfl, rfl, issues rfl, by decide, rfl, rfl, by decide⟩,
    ⟨0, 5, 9, beads (slotIn 4 true 7) 1, _, _, _, rfl, rfl, issues rfl, by decide, rfl, rfl⟩,
    ⟨0, 5, 9, beads (slotIn 3 true 7) 1, _, _, _, rfl, rfl, issues rfl, by decide, rfl, by decide, by decide⟩,
    ⟨0, 5, beads (slotIn 2 true 7) 1, _, _, _, rfl, rfl, issues rfl, by decide, rfl, rfl, rfl⟩,
    ⟨0, 5, beads (slotIn 2 false 7) 1, _, _, _, rfl, rfl, issues rfl, by decide, .inr (.inl rfl)⟩⟩

/-! #### Moves of threads and messages -/

/-- A worker parked at a word. -/
def parkedAt (i : Instr) (c : Cond) (lim : BitVec 6) (i0 : Word) : Thread :=
  { worker with park := some ⟨i, c, 0, lim, true, none, none, none, i0, 0, 0, 1, []⟩ }

/-- The events of a synchronous failure and of a notice. -/
def failure : PendEvent := ⟨0x0302, 1, 0, 0, 0⟩
/-- A notice. -/
def notice : PendEvent := ⟨0x0605, 2, 0, 0, 0⟩

/-- Slot 1 is to take a migrant. -/
def hosting : State :=
  ({ base 35 with threads := [] }.modPDie 0 0 fun p => { p with migh := true }).modPCore 0 0 fun q => { q with migQ := [worker] }

theorem worker_idle : ∀ a, worker.again = some a → a.firm = false := by intro a h; cases h

theorem meets_ThreadRows :
    (∃ (tid : Nat) (s : State) (th : Thread), s.thread? tid = some th ∧ th.sched = [] ∧ th.pend ≠ [] ∧ (∀ w ∈ th.pend, w.due ≤ s.rot)) ∧
    (∃ (tid : Nat) (s : State) (th : Thread) (x : Sched) (d : SReg) (t : LdTy) (lab : Label) (g : Got), s.thread? tid = some th ∧
      th.sched = [x] ∧ x.acc.outstanding = 0 ∧ x.due ≤ s.rot ∧ x.acc.refused = none ∧ x.dests = [.s d] ∧ x.acc.cont = .load d t lab ∧ x.acc.got = [g] ∧
      g.bytes.length = Rules.loadBytes t) ∧
    (∃ (tid : Nat) (s : State) (th : Thread) (p : Park) (a b : Nat) (d : SReg) (x : SVal), s.thread? tid = some th ∧
      th.park = some p ∧ p.cond = .divide a b d x ∧ b ≤ s.cycle) ∧
    (∃ (tid : Nat) (s : State) (th : Thread) (p : Park) (a b : Nat) (d : VReg) (x : VVal) (fl : Flags), s.thread? tid = some th ∧
      th.park = some p ∧ p.cond = .vdivide a b d x fl none ∧ b ≤ s.cycle) ∧
    (∃ (tid : Nat) (s : State) (th : Thread) (p : Park) (a b : Nat) (d : VReg) (x : VVal) (fl : Flags) (i0 i1 : Word),
      s.thread? tid = some th ∧ th.park = some p ∧ p.cond = .vdivide a b d x fl (some (i0, i1)) ∧ b ≤ s.cycle ∧
      s.mayAct (tid, th) = true) ∧
    (∃ (tid : Nat) (s : State) (th : Thread) (p : Park) (n : Nat), s.thread? tid = some th ∧ th.park = some p ∧
      p.cond = .clock false n ∧ n ≤ s.rotQuartz.toNat) ∧
    (∃ (tid : Nat) (s : State) (th : Thread) (p : Park) (c : Scope), s.thread? tid = some th ∧ th.park = some p ∧
      p.cond = .scopeClosed c ∧ s.openIn tid th c = false) ∧
    (∃ (tid : Nat) (s : State) (th : Thread) (p : Park) (k : BarKey), s.thread? tid = some th ∧ th.park = some p ∧
      p.cond = .barrier k ∧ s.hasArrived k tid = false ∧ s.wakeOpen k (coreOf tid) = false) ∧
    (∃ (tid : Nat) (s : State) (th : Thread) (p : Park) (n : Nat), s.thread? tid = some th ∧ th.park = some p ∧
      p.cond = .time n ∧ n ≤ s.cycle) ∧
    (∃ (tid : Nat) (s : State) (th : Thread) (p : Park) (l : List Node), s.thread? tid = some th ∧ th.park = some p ∧
      p.cond = .homesClosed l ∧ s.homeBusy tid th l = false) ∧
    (∃ (tid : Nat) (s : State) (th : Thread) (p : Park) (l : List Node), s.thread? tid = some th ∧ th.park = some p ∧
      p.cond = .held l ∧ s.homeBusy tid th l = false) ∧
    (∃ (tid : Nat) (s : State) (th : Thread) (p : Park) (code : BitVec 16) (cls : BitVec 8) (i0 i1 : Word) (lab : Label) (pc : Word),
      s.thread? tid = some th ∧ th.park = some p ∧ p.cond = .trapEntry code cls i0 i1 lab pc ∧ s.cmds tid = [] ∧ th.sched = []) ∧
    (∃ (tid : Nat) (s : State) (th : Thread) (p : Park) (n : Nat), s.thread? tid = some th ∧ th.park = some p ∧ p.entry = true ∧
      p.lim.toNat < 63 ∧ p.first + 2 ^ p.lim.toNat < s.cycle ∧ p.cond = .clock false n ∧ s.rotQuartz.toNat < n) ∧
    (∃ (tid : Nat) (s : State) (th : Thread) (p : Park) (k : BarKey), s.thread? tid = some th ∧ th.park = some p ∧ p.entry = true ∧
      p.lim.toNat < 63 ∧ p.first + 2 ^ p.lim.toNat < s.cycle ∧ p.cond = .barrier k ∧ s.hasArrived k tid = true) ∧
    (∃ (tid : Nat) (s : State) (th : Thread) (p : Park) (k : BarKey), s.thread? tid = some th ∧ th.park = some p ∧ p.entry = true ∧
      p.lim.toNat < 63 ∧ p.first + 2 ^ p.lim.toNat < s.cycle ∧ p.cond = .barrier k ∧ s.wakeOpen k (coreOf tid) = true) ∧
    (∃ (tid : Nat) (s : State) (th : Thread) (e : PendEvent), s.thread? tid = some th ∧ th.te = true ∧ th.chain = none ∧
      (∀ a, th.again = some a → a.firm = false) ∧ th.park = none ∧ th.pendSet.find? (fun x => decide (x.cls = 1)) = some e) ∧
    (∃ (tid : Nat) (s : State) (th : Thread) (e : PendEvent), s.thread? tid = some th ∧ th.te = true ∧ th.chain = none ∧
      (∀ a, th.again = some a → a.firm = false) ∧ th.park = none ∧ (∀ x ∈ th.pendSet, x.cls ≠ 1) ∧ th.pendSet.head? = some e) ∧
    (∃ (tid : Nat) (s : State) (th : Thread) (p : Park) (k pa : Nat) (va : Word), s.thread? tid = some th ∧
      th.park = some p ∧ p.cond = .ship k va pa ∧
      s.openEntries tid th = []) ∧
    (∃ (core part : Nat) (s : State) (m : Thread) (l : List Thread) (d : PDie) (tid : Nat), d = s.pdie (dieOf core) part ∧
      tid = core * 8 + topSlot d ∧ d.v = true ∧ d.migh = true ∧ (s.pcore core part).phase = 0 ∧ (s.pcore core part).migQ = m :: l ∧
      s.thread? tid = none ∧ (∀ x ∈ (s.core core).scrubs, x.1 ≠ topSlot d) ∧
      (∀ x ∈ (s.pcore core part).vacated, x.1 ≠ topSlot d) ∧ s.justFreed core (topSlot d) = false ∧ (s.core core).outOfSvc = false) :=
  ⟨⟨1, on { worker with pend := [⟨.s 5, .s ⟨1, 0⟩, 2, 0, 0, 0x20000, 1⟩] }, _, rfl, rfl, by decide, by decide⟩,
    ⟨1, on { worker with sched := [loaded] }, _, _, 5, .i64, 0, _, rfl, rfl, rfl, by decide, rfl, rfl, rfl, rfl, rfl⟩,
    ⟨1, on (parkedAt (.divI64 0 5 6 7) (.divide 0 17 5 ⟨1, 0⟩) 63 0), _, _, 0, 17, 5, _, rfl, rfl, rfl, by decide⟩,
    ⟨1, on (parkedAt (.vsqrt 0 1 2 0 .f32) (.vdivide 0 17 1 ⟨0, 0x0A, 0⟩ 0 none) 63 0), _, _, 0, 17, 1, _, 0, rfl, rfl, rfl, by decide⟩,
    ⟨1, on (parkedAt (.vsqrt 0 1 2 0 .f32) (.vdivide 0 17 1 ⟨0, 0x0A, 0⟩ 0 (some (1, 2))) 63 0), _, _, 0, 17, 1, _, 0, 1, 2, rfl, rfl, rfl,
      by decide, rfl⟩,
    ⟨1, on (parkedAt (.waitq 0 5 4) (.clock false 0) 4 4), _, _, 0, rfl, rfl, rfl, by decide⟩,
    ⟨1, on (parkedAt (.fence 0 .pkg) (.scopeClosed .pkg) 63 0), _, _, .pkg, rfl, rfl, rfl, rfl⟩,
    ⟨1, on (parkedAt (.bar 0 4 .core) (.barrier meeting) 4 1), _, _, meeting, rfl, rfl, rfl, rfl, rfl⟩,
    ⟨1, on (parkedAt (.gset 0 5 6) (.time 17) 63 0), _, _, 17, rfl, rfl, rfl, by decide⟩,
    ⟨1, on (parkedAt (.ld 0 5 6 .i64 0) (.homesClosed [.core 0]) 63 0), _, _, [.core 0], rfl, rfl, rfl, rfl⟩,
    ⟨1, on (parkedAt (.ld 0 5 6 .i64 0) (.held [.core 0]) 63 0), _, _, [.core 0], rfl, rfl, rfl, rfl⟩,
    ⟨1, on (parkedAt (.nop 0) (.trapEntry 0x0101 0 0 0 0 0x20000) 63 0), _, _, 0x0101, 0, 0, 0, 0, 0x20000, rfl, rfl, rfl, rfl, rfl⟩,
    ⟨1, on (parkedAt (.waitq 0 5 4) (.clock false 17) 4 4), _, _, 17, rfl, rfl, rfl, by decide, by decide, rfl, by decide⟩,
    ⟨1, { on (parkedAt (.bar 0 4 .core) (.barrier meeting) 4 1) with barriers := [(meeting, ⟨0, [1]⟩)] }, _, _, meeting, rfl, rfl, rfl,
      by decide, by decide, rfl, rfl⟩,
    ⟨1, { on (parkedAt (.bar 0 4 .core) (.barrier meeting) 4 1) with channels := [((barNode meeting, .core 0, .k), [.notice meeting])] }, _, _,
      meeting, rfl, rfl, rfl, by decide, by decide, rfl, rfl⟩,
    ⟨1, on { worker with pendSet := [notice, failure] }, _, failure, rfl, rfl, rfl, worker_idle, rfl, rfl⟩,
    ⟨1, on { worker with pendSet := [notice] }, _, notice, rfl, rfl, rfl, worker_idle, rfl, by decide, rfl⟩,
    ⟨1, on (parkedAt (.migr 0 5 6) (.ship 3 0 0) 63 0), _, _, 3, 0, 0, rfl, rfl, rfl, rfl⟩,
    ⟨0, 0, hosting, worker, [], _, 1, rfl, rfl, rfl, rfl, rfl, rfl, rfl, by decide, by decide, rfl, rfl⟩⟩

/-- A message of worker 1 to a home. -/
def msg (dst : Node) (pl : Plane) (pa : Nat) (req : Req) : Msg :=
  ⟨.core 0, dst, pl, .thread 1 5, 0, pa, 0, 0, false, true, 0, false, false, 0, req, []⟩

/-- The last plain word of the local store of core 0. -/
def localWord : Nat := localPa 0 0xBFF8

/-- A worker whose load waits for one answer. -/
def loading : Thread :=
  { worker with park := some ⟨.ld 0 5 6 .i64 0, .access, 0, 63, false, some ⟨1, [], none, [.hbm 0], [], [], .load 5 .i64 0⟩, none, none, 0, 0, 0, 1, []⟩ }

/-- An answer to it. -/
def reply (ok : Bool) (l : List Byte) : Resp := ⟨ok, l, 0, 0, .memPa, 0, false⟩

/-- A free of a pool page by worker 1, whose entry stands in the HBM at 0x12000; it waits for its drain. -/
def freeing : Msg := msg (.pool 0) .q 0x12000 (.pool (.free 0x123) 0x100000 true)

/-- A sum message of one core that another core's has joined. -/
def joinedMsg (a b : Nat) : Msg :=
  { msg (.hbm 0) .p 0x20000 (.sumAdd 2 0) with src := .core a, others := [(.core b, .thread (8 * b) 1, 0, 0)] }

theorem meets_MessageRows :
    (∃ (src dst : Node) (pl : Plane) (s : State) (l : List Item) (m : Msg), klist s.channels (src, dst, pl) = .req m :: l ∧
      m.others = []) ∧
    (∃ (src dst n : Node) (pl : Plane) (s : State) (l k : List Item) (m : Msg), klist s.channels (src, dst, pl) = .req m :: l ∧ m.src = src ∧
      m.dst = dst ∧ src ∉ m.others.map (·.1) ∧ (m.others.map (·.1)).Nodup ∧ n ∈ m.others.map (·.1) ∧
      klist s.channels (n, dst, pl) = .joined src :: k) ∧
    (∃ (src dst : Node) (pl : Plane) (s : State) (l : List Item) (o : Owner) (pa : Nat),
      klist s.channels (src, dst, pl) = .withdraw o pa :: l) ∧
    (∃ (src dst : Node) (pl : Plane) (s : State) (l : List Item) (n : Node) (o : Owner) (i : Nat) (r : Resp),
      klist s.channels (src, dst, pl) = .resp n o i r :: l) ∧
    (∃ (a b dst n z : Node) (s : State) (x y : Msg) (d e : BitVec 248) (f g : BitVec 5) (l k j : List Item), a ≠ b ∧
      klist s.channels (a, dst, .p) = .req x :: l ∧ klist s.channels (b, dst, .p) = .req y :: k ∧ x.req = .sumAdd d f ∧
      y.req = .sumAdd e g ∧ x.pa = y.pa ∧ x.part = y.part ∧ x.lv = y.lv ∧ x.inbound = y.inbound ∧ x.mx = y.mx ∧
      n ∈ y.others.map (·.1) ∧ n ≠ a ∧ n ≠ b ∧ klist s.channels (n, dst, .p) = .joined z :: j) ∧
    (∃ (c : Nat) (s : State) (m : Msg) (l : List Item) (n : Nat), klist s.arrivals (.core c) = .req m :: l ∧ m.dst = .core c ∧
      m.others = [] ∧ m.inbound = false ∧ spaceOf m.pa = 1 ∧ s.spills c m = none ∧ s.waiters = [] ∧ m.req = .read n ∧
      s.isPoisoned m.pa n = false) ∧
    (∃ (c : Nat) (s : State) (m : Msg) (l : List Item) (b : List (Option Byte)), klist s.arrivals (.core c) = .req m :: l ∧
      m.dst = .core c ∧ m.others = [] ∧ m.inbound = false ∧ spaceOf m.pa = 1 ∧ s.spills c m = none ∧ s.waiters = [] ∧ m.req = .write b ∧
      s.isPoisoned m.pa b.length = false ∧ m.lv &&& ~~~(s.blockLabel m.pa) = 0 ∧ clears m.pa m.req = false) ∧
    (∃ (h : Nat) (s : State) (w : Msg) (o : Owner) (pa : Nat) (l : List Item), klist s.arrivals (.hbm h) = .withdraw o pa :: l ∧
      s.waiters = [w] ∧ w.owner = o ∧ w.dst = .hbm h) ∧
    (∃ (n e : Node) (s : State) (tid gen i : Nat) (r : Resp) (l : List Item) (th : Thread) (p : Park) (hs : List Node)
      (ps : List (Node × Nat × Bool)) (d : SReg) (ty : LdTy) (lab : Label), klist s.inbox n = .resp e (.thread tid gen) i r :: l ∧ s.thread? tid = some th ∧ th.gen = gen ∧
      th.park = some p ∧ r.withdrawn = false ∧ p.acc = some ⟨1, [], none, hs, [], ps, .load d ty lab⟩ ∧ r.ok = true ∧
      r.bytes.length = Rules.loadBytes ty) ∧
    (∃ (n e : Node) (s : State) (tid gen i : Nat) (r : Resp) (l : List Item) (th : Thread) (p : Park) (hs : List Node)
      (ps : List (Node × Nat × Bool)) (d : SReg) (ty : LdTy) (lab : Label), klist s.inbox n = .resp e (.thread tid gen) i r :: l ∧ s.thread? tid = some th ∧ th.gen = gen ∧
      th.park = some p ∧ r.withdrawn = false ∧ p.acc = some ⟨1, [], none, hs, [], ps, .load d ty lab⟩ ∧ r.ok = false) ∧
    (∃ (d : Nat) (s : State) (m : Msg) (ctr : Nat) (x : Word) (l : List Item), klist s.arrivals (.disp d) = .req m :: l ∧
      m.dst = .disp d ∧ m.req = .dep .write ctr x ∧ isDevReg m.pa = false ∧ isHostWin m.pa = false ∧ m.others = []) ∧
    (∃ (tid gen d page a : Nat) (s : State) (m : Msg) (va : Word) (big : Bool) (q : PDie), s.waiters = [m] ∧
      m.req = .pool (.free page) va big ∧
      m.owner = .thread tid gen ∧ m.dst = .pool d ∧ m.others = [] ∧ s.freeDrained m.part va big = true ∧
      q = s.pdie d m.part ∧
      a = q.poolRing.toNat / 2 ^ 12 % 2 ^ 40 * 4096 + 8 * (q.poolTail.toNat % 2 ^ min (q.poolRing.toNat % 64) 20) ∧
      s.isPoisoned a 8 = false) :=
  ⟨⟨.core 0, .hbm 0, .q, { on worker with channels := [((.core 0, .hbm 0, .q), [.req (msg (.hbm 0) .q 0x20000 (.read 8))])] }, [], _, rfl, rfl⟩,
    ⟨.core 0, .hbm 0, .core 1, .p, { on worker with channels := [
        ((.core 0, .hbm 0, .p), [.req (joinedMsg 0 1)]), ((.core 1, .hbm 0, .p), [.joined (.core 0)])] }, [], [], _, rfl, rfl, rfl, by decide,
      by decide, by decide, rfl⟩,
    ⟨.core 0, .hbm 0, .q, { on worker with channels := [((.core 0, .hbm 0, .q), [.withdraw (.thread 1 5) 0x20000])] }, [], _, _, rfl⟩,
    ⟨.hbm 0, .core 0, .p, { on worker with channels := [((.hbm 0, .core 0, .p), [.resp (.core 0) (.thread 1 5) 0 (reply true [])])] }, [], _, _,
      _, _, rfl⟩,
    ⟨.core 2, .core 0, .hbm 0, .core 1, .core 0, { on worker with channels := [
        ((.core 2, .hbm 0, .p), [.req { msg (.hbm 0) .p 0x20000 (.sumAdd 1 0) with src := .core 2 }]),
        ((.core 0, .hbm 0, .p), [.req (joinedMsg 0 1)]), ((.core 1, .hbm 0, .p), [.joined (.core 0)])] },
      _, _, 1, 2, 0, 0, [], [], [], by decide, rfl, rfl, rfl, rfl, rfl, rfl, rfl, rfl, rfl, by decide, by decide, by decide, rfl⟩,
    ⟨0, { on worker with arrivals := [(.core 0, [.req (msg (.core 0) .q localWord (.read 8))])] }, _, [], 8, rfl, rfl, rfl, rfl, rfl, rfl, rfl,
      rfl, rfl⟩,
    ⟨0, { on worker with arrivals := [(.core 0, [.req (msg (.core 0) .q localWord (.write [some 1]))])] }, _, [], [some 1], rfl, rfl, rfl,
      rfl, rfl, rfl, rfl, rfl, rfl, by decide, rfl⟩,
    ⟨0, { on worker with
          arrivals := [(.hbm 0, [.withdraw (.thread 1 5) 0x20000])], waiters := [msg (.hbm 0) .q 0x20000 (.fe .take 0)] },
      _, _, _, [], rfl, rfl, rfl, rfl⟩,
    ⟨.core 0, .core 0, { on loading with inbox := [(.core 0, [.resp (.core 0) (.thread 1 5) 0 (reply true (List.replicate 8 1))])] }, 1, 5, 0, _,
      [], _, _, _, _, 5, .i64, 0, rfl, rfl, rfl, rfl, rfl, rfl, rfl, rfl⟩,
    ⟨.core 0, .core 0, { on loading with inbox := [(.core 0, [.resp (.core 0) (.thread 1 5) 0 (reply false [])])] }, 1, 5, 0, _, [], _, _, _, _, 5,
      .i64, 0, rfl, rfl, rfl, rfl, rfl, rfl, rfl⟩,
    ⟨0, { on worker with arrivals := [(.disp 0, [.req (msg (.disp 0) .q 0 (.dep .write 255 1))])] }, _, 255, 1, [], rfl, rfl, rfl, by decide,
      by decide, rfl⟩,
    ⟨1, 5, 0, 0x123, _, { on worker with waiters := [freeing] }, _, _, _, _, rfl, rfl, rfl, rfl, rfl, rfl, rfl, rfl, rfl⟩⟩

/-! #### Moves of engines -/

/-- An engine thread of worker 1 on core 0, its completion object at the first plain word. -/
def engine (kind : EngKind) : Engine :=
  ⟨kind, 1, 5, 0, 1, 0, false, true, none, 0, localPa 0 0x1000, 0x1000, [], [], none, [], 0, [], [], 0, 1, 7, 1, 0, 0, 0, none, false, 0, false,
    false, 0, 0, 0, none, [], [], false, .none, 0, false, none, 0, 0, 0, 0, 0, 0xFF, 0, 0, 0, 0, false⟩

/-- The worker with that engine. -/
def driving (g : Engine) : State := { on worker with engines := [(0, g)], serial := 9 }

/-- A tour whose pieces are still to read, from VA 0x100. -/
def readingTour : Engine := { engine .tour with todo := [(0, 0x100, 16)] }

/-- A tour on its way to the stop given, and what it has read. -/
def touring (pos : BeadPos) (rev : Bool) (hold clock : Nat) (follow : InstrWord) : Engine :=
  { engine .tour with stops := [⟨follow, 0, 1, hold⟩], todoStops := [(0, rev)], pos := pos, clock := clock }

/-- The machine with a tour and its slot. -/
def stop (g : Engine) (b : BSlot) : State := (driving g).modPCore 0 0 fun q => { q with bslots := vset q.bslots 1 b }

theorem meets_EngineRows :
    (∃ (e : Nat) (s : State) (g : Engine) (k off n : Nat) (x : TGroup), nget s.engines e = some g ∧ g.offset = some (k, off) ∧
      nget s.tgroups k = some x ∧ nget x.vcc g.core = some n ∧ off ≤ n) ∧
    (∃ (e : Nat) (s : State) (g : Engine) (off len k : Nat) (a : Word) (l : List (Nat × Word × Nat)) (t : State) (p : Place),
      nget s.engines e = some g ∧ g.kind = .tour ∧ g.preds = [] ∧ g.predSched = [] ∧ g.offset = none ∧ g.stopped = false ∧
      (s.pcore g.core g.part).frozenTo ≤ s.rot ∧ g.todo = (off, a, len) :: l ∧ k = pieceSize a.toNat a.toNat len ∧
      s.check ⟨g.core, g.part, g.world, true, false⟩ { kind := 0, size := k } a = (t, .ok p)) ∧
    (∃ (e : Nat) (s : State) (g : Engine), nget s.engines e = some g ∧ g.outstanding = 0 ∧ g.todo = [] ∧ g.ready = [] ∧ s.waiters = [] ∧
      (g.kind = .mcast ∨ (g.kind = .copy ∧ g.cause ≠ 0) ∨
        (g.kind = .tour ∧ ((g.pos = .none ∧ g.cause ≠ 0) ∨ ((g.pos = .flying ∨ g.pos = .come) ∧ g.todoStops = []))))) :=
  ⟨⟨0, { driving { engine .tour with offset := some (3, 8) } with tgroups := [(3, group)] }, _, 3, 8, 8, group, rfl, rfl, rfl, rfl,
      by decide⟩,
    ⟨0, driving readingTour, _, 0, 16, _, 0x100, [], _, _, rfl, rfl, rfl, rfl, rfl, rfl, by decide, rfl, rfl, passed rfl⟩,
    ⟨0, driving { engine .copy with cause := 0x0402 }, _, rfl, rfl, rfl, rfl, rfl, .inr (.inl ⟨rfl, by decide⟩)⟩⟩

theorem meets_BeadRows :
    (∃ (e i : Nat) (rev : Bool) (l : List (Nat × Bool)) (s : State) (g : Engine) (x : Stop) (b : BSlot), nget s.engines e = some g ∧
      g.todoStops = (i, rev) :: l ∧ g.stops[i]? = some x ∧ b = vget (s.pcore x.core g.part).bslots x.slot ∧ g.pos = .come ∧
      g.ended = none ∧ (s.core x.core).outOfSvc = false ∧ (s.pcore x.core g.part).phase.toNat < 2 ∧ b.dead = false ∧ b.leaving = false ∧
      b.state = 0 ∧ (∀ y ∈ s.engines, y.2.pos ≠ .waiting)) ∧
    (∃ (e i : Nat) (rev : Bool) (l : List (Nat × Bool)) (s : State) (g : Engine) (x : Stop) (b : BSlot), nget s.engines e = some g ∧
      g.todoStops = (i, rev) :: l ∧ g.stops[i]? = some x ∧ b = vget (s.pcore x.core g.part).bslots x.slot ∧ g.pos = .come ∧
      g.ended = none ∧ (s.core x.core).outOfSvc = false ∧ (s.pcore x.core g.part).phase.toNat < 2 ∧ b.dead = false ∧ b.state = 2) ∧
    (∃ (e i : Nat) (rev : Bool) (l : List (Nat × Bool)) (s : State) (g : Engine) (x : Stop) (b : BSlot), nget s.engines e = some g ∧
      g.todoStops = (i, rev) :: l ∧ g.stops[i]? = some x ∧ b = vget (s.pcore x.core g.part).bslots x.slot ∧ g.pos = .come ∧
      g.ended = none ∧ (s.core x.core).outOfSvc = false ∧ (s.pcore x.core g.part).phase.toNat < 2 ∧ b.dead = true ∧ rev = false) ∧
    (∃ (e i : Nat) (rev : Bool) (l : List (Nat × Bool)) (s : State) (g : Engine) (x : Stop) (b : BSlot), nget s.engines e = some g ∧
      g.todoStops = (i, rev) :: l ∧ g.stops[i]? = some x ∧ b = vget (s.pcore x.core g.part).bslots x.slot ∧ g.kind = .tour ∧
      g.pos = .landing ∧ g.ended = none ∧ b.state = 1 ∧ b.eng = some e ∧ b.leaving = false) ∧
    (∃ (e i : Nat) (rev : Bool) (l : List (Nat × Bool)) (s : State) (g : Engine) (x : Stop), nget s.engines e = some g ∧
      g.todoStops = (i, rev) :: l ∧ g.stops[i]? = some x ∧ g.kind = .tour ∧ g.ended = none ∧ x.hold ≠ 0 ∧ x.hold < g.clock ∧
      g.pos = .waiting ∧ rev = false ∧ g.norev = false) ∧
    (∃ (e i : Nat) (rev : Bool) (l : List (Nat × Bool)) (s : State) (g : Engine) (x : Stop), nget s.engines e = some g ∧
      g.todoStops = (i, rev) :: l ∧ g.stops[i]? = some x ∧ g.kind = .tour ∧ g.ended = none ∧ x.hold ≠ 0 ∧ x.hold < g.clock ∧
      g.pos = .waiting ∧ rev = true) ∧
    (∃ (e i : Nat) (rev : Bool) (l : List (Nat × Bool)) (s : State) (g : Engine) (x : Stop), nget s.engines e = some g ∧
      g.todoStops = (i, rev) :: l ∧ g.stops[i]? = some x ∧ g.kind = .tour ∧ g.ended = none ∧ x.hold ≠ 0 ∧ x.hold < g.clock ∧
      g.pos = .held) ∧
    (∃ (e i : Nat) (rev : Bool) (l : List (Nat × Bool)) (s : State) (g : Engine) (x : Stop) (core part n : Nat) (c : BSlot),
      nget s.engines e = some g ∧ g.todoStops = (i, rev) :: l ∧ g.stops[i]? = some x ∧ c = vget (s.pcore core part).bslots n ∧
      c.leaving = true ∧ s.slotNamed core part n = false ∧ c.state = 0 ∧ c.eng = some e ∧ g.ended = some 0) ∧
    (∃ (e n : Nat) (s : State) (g : Engine) (b : BSlot), nget s.engines e = some g ∧ g.dslot = some n ∧
      b = vget (s.pcore g.core g.part).bslots n ∧ g.todo = [] ∧ g.outstanding = 0 ∧ g.cause = 0 ∧ g.slotReady = false ∧
      g.stopped = false ∧ g.bytes = g.len ∧ (b.state = 0 ∨ b.state = 4) ∧ b.leaving = false) :=
  ⟨⟨0, 0, false, [], stop (touring .come false 9 0 0) (slotIn 0 true 7), _, _, _, rfl, rfl, rfl, rfl, rfl, rfl, rfl, by decide, rfl, rfl,
      rfl, by decide⟩,
    ⟨0, 0, false, [], stop (touring .come false 9 0 0) (slotIn 2 true 7), _, _, _, rfl, rfl, rfl, rfl, rfl, rfl, rfl, by decide, rfl, rfl⟩,
    ⟨0, 0, false, [], stop (touring .come false 9 0 0) { slotIn 0 true 7 with dead := true }, _, _, _, rfl, rfl, rfl, rfl, rfl, rfl, rfl,
      by decide, rfl, rfl⟩,
    ⟨0, 0, false, [], stop (touring .landing false 9 0 0) { slotIn 1 true 7 with eng := some 0 }, _, _, _, rfl, rfl, rfl, rfl, rfl, rfl, rfl,
      rfl, rfl, rfl⟩,
    ⟨0, 0, false, [], stop (touring .waiting false 9 10 0) (slotIn 2 true 7), _, _, rfl, rfl, rfl, rfl, rfl, by decide, by decide, rfl, rfl, rfl⟩,
    ⟨0, 0, true, [], stop (touring .waiting true 9 10 0) (slotIn 2 true 7), _, _, rfl, rfl, rfl, rfl, rfl, by decide, by decide, rfl, rfl⟩,
    ⟨0, 0, false, [], stop (touring .held false 9 10 0) { slotIn 2 true 7 with eng := some 0 }, _, _, rfl, rfl, rfl, rfl, rfl, by decide,
      by decide, rfl⟩,
    ⟨0, 0, false, [], stop { touring .held false 9 3 0 with ended := some 0 } { slotIn 0 true 7 with eng := some 0, leaving := true }, _, _,
      0, 0, 1, _, rfl, rfl, rfl, rfl, rfl, rfl, rfl, rfl, rfl⟩,
    ⟨0, 1, stop { engine .copy with dslot := some 1, bytes := 1 } (slotIn 4 true 7), _, _, rfl, rfl, rfl, rfl, rfl, rfl, rfl, rfl, rfl,
      .inr rfl, rfl⟩⟩

/-- The follow-on word: mma.f32 acc[0], t1, slot 1. -/
def followOn : Instr := .mmaF32 0 0 1 (.slot 1) true

/-- A worker of slot 1 that may run it; the bead in slot 1 is of the format of its tile. -/
def led : Thread := matrixer 0xA0820

/-- A tour that holds the worker's slot, with the follow-on given. -/
def holdingTour (w : InstrWord) (etag : BitVec 16) : State :=
  let s := { on led with engines := [(0, touring .held false 9 0 w)], serial := 9 }
  s.modPCore 0 0 fun q => { q with bslots := vset q.bslots 1 { slotIn 2 true etag with eng := some 0, fmt := 0x0A } }

theorem meets_FollowOns :
    (∃ (e i tid : Nat) (rev : Bool) (l : List (Nat × Bool)) (s : State) (g : Engine) (x : Stop) (b : BSlot) (th : Thread),
      nget s.engines e = some g ∧ g.kind = .tour ∧ g.pos = .held ∧ g.ended = none ∧ g.offered = false ∧ g.todoStops = (i, rev) :: l ∧
      g.stops[i]? = some x ∧ x.follow ≠ 0 ∧ b = vget (s.pcore x.core g.part).bslots x.slot ∧ b.bound = true ∧
      (s.pcore x.core g.part).phase = 0 ∧ tid = x.core * 8 + b.holder.toNat ∧ (waitingCmds (s.core x.core) b.holder.toNat).length < 2 ∧
      s.thread? tid = some th ∧ th.preempt = false ∧ th.part = g.part ∧ b.tag ≠ b.etag ∧ g.cause = 0) ∧
    (∃ (e i tid : Nat) (rev : Bool) (l : List (Nat × Bool)) (s t : State) (g : Engine) (x : Stop) (b : BSlot) (th : Thread) (w : Instr)
      (m : MxWord), nget s.engines e = some g ∧ g.kind = .tour ∧ g.pos = .held ∧ g.ended = none ∧ g.offered = false ∧
      g.todoStops = (i, rev) :: l ∧ g.stops[i]? = some x ∧ x.follow ≠ 0 ∧ b = vget (s.pcore x.core g.part).bslots x.slot ∧
      b.bound = true ∧ (s.pcore x.core g.part).phase = 0 ∧ tid = x.core * 8 + b.holder.toNat ∧
      (waitingCmds (s.core x.core) b.holder.toNat).length < 2 ∧ s.thread? tid = some th ∧ th.preempt = false ∧ th.part = g.part ∧
      t = { s with engines := nset s.engines e { g with offered := true } } ∧ b.tag = b.etag ∧ decode? x.follow = some w ∧
      mxWord w = some m ∧ th.kind ≠ .control ∧ mxFail w x.core { th with chain := none } t m none = none ∧
      t.slotBad x.core g.part m = false) ∧
    (∃ (e : Nat) (s : State) (g : Engine), nget s.engines e = some g ∧ g.kind = .copy ∧ g.dslot = none ∧ g.outstanding = 0 ∧
      g.written = g.len ∧ g.followDone = false ∧ g.stopped = false ∧ g.follow ≠ 0 ∧ g.cause = 0 ∧
      (∀ x ∈ (s.pcore g.core g.part).vacated, x.2.gen ≠ g.gen) ∧ s.thread? g.tid = none) ∧
    (∃ (e : Nat) (s : State) (g : Engine) (th : Thread) (w : Instr) (m : MxWord) (d : TReg), nget s.engines e = some g ∧ g.kind = .copy ∧
      g.dslot = none ∧ g.outstanding = 0 ∧ g.written = g.len ∧ g.followDone = false ∧ g.stopped = false ∧ g.follow ≠ 0 ∧ g.cause = 0 ∧
      (∀ x ∈ (s.pcore g.core g.part).vacated, x.2.gen ≠ g.gen) ∧ s.thread? g.tid = some th ∧ th.gen = g.gen ∧ th.part = g.part ∧
      coreOf g.tid = g.core ∧ (waitingCmds (s.core g.core) (slotOf g.tid)).length < 2 ∧ decode? g.follow = some w ∧ mxWord w = some m ∧
      m.b = .tile d ∧ th.kind ≠ .control ∧ mxFail w g.core { th with chain := none } s m none = none) :=
  ⟨⟨0, 0, 1, false, [], holdingTour (encode followOn) 8, _, _, _, _, rfl, rfl, rfl, rfl, rfl, rfl, rfl, by decide, rfl, rfl, rfl, rfl,
      by decide, rfl, rfl, rfl, by decide, rfl⟩,
    ⟨0, 0, 1, false, [], holdingTour (encode followOn) 7, _, _, _, _, _, followOn, _, rfl, rfl, rfl, rfl, rfl, rfl, rfl, by decide, rfl, rfl,
      rfl, rfl, by decide, rfl, rfl, rfl, rfl, rfl, rfl, rfl, by decide, rfl, rfl⟩,
    ⟨0, { on worker with threads := [], engines := [(0, { engine .copy with follow := 1, written := 1 })] }, _, rfl, rfl, rfl, rfl, rfl, rfl, rfl,
      by decide, rfl, by decide, rfl⟩,
    ⟨0, { on (matrixer 0xA0820) with engines := [(0, { engine .copy with follow := encode (.mmaF32 0 0 1 (.tile 2) true), written := 1 })] },
      _, _, .mmaF32 0 0 1 (.tile 2) true, _, 2, rfl, rfl, rfl, rfl, rfl, rfl, rfl, by decide, rfl, by decide, rfl, rfl, rfl, rfl, by decide,
      rfl, rfl, rfl, by decide, rfl⟩⟩

/-! #### Timed groups, dispatchers, the switch -/

/-- A group whose start is fixed, with one arrival or none. -/
def starting (l : List (Nat × Word)) (t0 : Option Nat) : TGroup := { group with started := false, t0 := none, nextT0 := t0, arrived := l }

theorem meets_TimedRows :
    (∃ (core part n : Nat) (s : State), s.cycle % 8 = 0 ∧ 0 < n ∧ (s.pcore core part).frozenTo ≤ s.rot ∧ nwf s.threads = true) ∧
    (∃ (gid : Nat) (s : State) (g : TGroup) (tid : Nat) (th : Thread) (x : Sched), nget s.tgroups gid = some g ∧ g.started = true ∧
      g.pausedFrom = none ∧ g.tids = [tid] ∧ s.thread? tid = some th ∧ th.timed = some gid ∧ th.sched = [x] ∧ x.acc.outstanding ≠ 0 ∧
      8 * x.due ≤ s.cycle + 4 ∧ s.rot < x.due) ∧
    (∃ (gid : Nat) (s : State) (g : TGroup) (tid n : Nat) (th : Thread) (x : Sched), nget s.tgroups gid = some g ∧
      g.pausedFrom = some n ∧ g.resumeAt = none ∧ g.late = some (tid, x.id) ∧ s.thread? tid = some th ∧ th.sched = [x] ∧
      x.acc.outstanding = 0) ∧
    (∃ (gid : Nat) (s : State) (g : TGroup) (core tid lag : Nat) (th : Thread), nget s.tgroups gid = some g ∧ g.started = true ∧
      g.budget ≠ 0 ∧ core ∈ g.cores ∧ g.tids = [tid] ∧ s.thread? tid = some th ∧ th.timed = some gid ∧ th.pendSet.length < 64 ∧
      lag = s.quartz.toNat - (g.t0.getD 0 + (nget g.vcc core).getD 0) ∧ g.budget < lag) ∧
    (∃ (gid : Nat) (s : State) (g : TGroup) (n tid : Nat) (th : Thread) (p : Park), nget s.tgroups gid = some g ∧ g.nextT0 = some n ∧
      s.cycle % 8 = 0 ∧ n ≤ s.quartz.toNat ∧ g.tids = [tid] ∧ s.thread? tid = some th ∧ th.park = some p ∧ p.cond = .tgstart gid ∧
      g.arrived = [] ∧ p.instr = .nop 0) ∧
    (∃ (gid : Nat) (s : State) (g : TGroup) (n tid : Nat) (th : Thread) (p : Park) (st : Stall) (y : SReg) (v : Word),
      nget s.tgroups gid = some g ∧ g.nextT0 = some n ∧ s.cycle % 8 = 0 ∧ n ≤ s.quartz.toNat ∧ g.tids = [tid] ∧
      s.thread? tid = some th ∧ th.park = some p ∧ p.cond = .tgstart gid ∧ g.arrived = [(tid, v)] ∧ p.instr = .tgstart st y ∧
      th.strId = 0) ∧
    (∃ (gid : Nat) (s : State) (g : TGroup) (tid : Nat) (v : Word) (th : Thread), nget s.tgroups gid = some g ∧ g.arrived = [(tid, v)] ∧
      g.nextT0 = none ∧ g.firstAt + 2 ^ 20 < s.cycle ∧ s.thread? tid = some th) :=
  ⟨⟨0, 0, 1, { on worker with cycle := 16 }, rfl, by decide, by decide, rfl⟩,
    ⟨3, timed { worker with sched := [late] } group 20, _, 1, _, _, rfl, rfl, rfl, rfl, rfl, rfl, rfl, by decide, by decide, by decide⟩,
    ⟨3, timed { worker with sched := [loaded] } { group with pausedFrom := some 2, late := some (1, 0) } 20, _, 1, 2, _, _, rfl, rfl, rfl, rfl,
      rfl, rfl, rfl⟩,
    ⟨3, timed worker group 14, _, 0, 1, _, _, rfl, rfl, by decide, List.mem_cons_self, rfl, rfl, rfl, by decide, rfl, by decide⟩,
    ⟨3, timed (parkedAt (.nop 0) (.tgstart 3) 63 0) (starting [] (some 24)) 24, _, 24, 1, _, _, rfl, rfl, rfl, by decide, rfl, rfl, rfl, rfl,
      rfl, rfl⟩,
    ⟨3, timed (parkedAt (.tgstart 0 5) (.tgstart 3) 63 0) (starting [(1, 7)] (some 24)) 24, _, 24, 1, _, _, 0, 5, 7, rfl, rfl, rfl, by decide,
      rfl, rfl, rfl, rfl, rfl, rfl, rfl⟩,
    ⟨3, timed (parkedAt (.tgstart 0 5) (.tgstart 3) 20 0) (starting [(1, 7)] none) 1048577, _, 1, 7, _, rfl, rfl, rfl, by decide, rfl⟩⟩

/-- A launch of two groups of one core, on the quad of core 0, at 0x20000. -/
def plan : Desc := ⟨0x20000, 7, 0x1000, 2, 0x00010004#32, 0, 0, 0, 0x8001, 0, [0, 0, 0, 0], 0⟩

/-- It, as its dispatcher holds it. -/
def planned : Launch := ⟨0, 0, 0, plan, 0, 0, 0, false, [], 0, [], [], 0, false, [], false, false, false, 0, 0⟩

/-- It, with a counter to wait on. -/
def dependent : Launch := { planned with desc := { plan with waits := [0x8002, 0, 0, 0] }, checked := true }

/-- The machine with it alone. -/
def launching (x : Launch) : State := { base 35 with launches := [(4, x)], serial := 9, cycle := 70000 }

theorem meets_DispatchRows :
    (∃ (die part lid : Nat) (s : State) (x : Launch), s.launches = [(lid, x)] ∧ x.die = die ∧ x.part = part ∧ x.queued = true ∧
      s.launchReady x = true ∧ x.checked = false ∧ s.launchFail x (s.unitsOf part x.desc) = 0) ∧
    (∃ (die part lid : Nat) (s : State) (x : Launch) (c : DepCtr), s.launches = [(lid, x)] ∧ x.die = die ∧ x.part = part ∧ x.queued = true ∧
      s.launchReady x = true ∧ x.checked = true ∧ s.depPoison x = true ∧ x.dealt = 0 ∧ x.desc.donedep.getLsbD 15 = true ∧
      nget (s.pdie x.die x.part).deps (x.desc.donedep.toNat % 256) = some c) ∧
    (∃ (die part lid : Nat) (s : State) (x : Launch) (v : Nat) (u : List Nat) (k : Nat), s.launches = [(lid, x)] ∧ x.die = die ∧ x.part = part ∧
      x.queued = true ∧ s.launchReady x = true ∧ x.checked = true ∧
      s.depPoison x = false ∧ s.cycle % 8 = 0 ∧ x.desc.cores = false ∧ x.desc.timed = false ∧
      v < x.units.length ∧ u = x.units.getD v [] ∧ u.Nodup ∧ nextGroup x v < x.desc.groups ∧ s.groupSlot lid x u = some k ∧ k < 8 ∧
      ∀ w, w < x.units.length → nextGroup x w < nextGroup x v → s.groupSlot lid x (x.units.getD w []) = none) ∧
    (∃ (lid : Nat) (s : State) (x : Launch), nget s.launches lid = some x ∧ x.queued = true ∧ x.level < 7 ∧
      x.since + (s.pdie x.die x.part).ageLim.toNat < s.cycle) ∧
    (∃ (lid : Nat) (s : State) (x : Launch), nget s.launches lid = some x ∧ x.queued = false ∧
      (∀ g ∈ x.running, g.tids = []) ∧ x.migrants = 0 ∧ (∀ e ∈ s.engines, e.2.launch ≠ some lid) ∧
      s.goneOpen x.part x.gone = false) ∧
    (∃ (lid : Nat) (s : State) (x : Launch) (c : DepCtr), nget s.launches lid = some x ∧ x.queued = false ∧
      (∀ g ∈ x.running, g.tids = []) ∧ x.migrants = 0 ∧ (∀ e ∈ s.engines, e.2.launch ≠ some lid) ∧
      s.goneOpen x.part x.gone = false ∧ x.poisoned = false ∧ x.desc.donedep.getLsbD 15 = true ∧
      nget (s.pdie x.die x.part).deps (x.desc.donedep.toNat % 256) = some c) ∧
    (∃ (k : BarKey) (s : State) (b : Barrier), kget s.barriers k = some b ∧ b.arrived ≠ [] ∧ s.waitedFor k = 0 ∧ s.arrivalOpen k = false) :=
  ⟨⟨0, 0, 4, launching planned, _, rfl, rfl, rfl, rfl, rfl, rfl, of_decide_eq_true rfl⟩,
    ⟨0, 0, 4, (launching dependent).modPDie 0 0 fun p => { p with deps := [(1, ⟨3, false, 0⟩), (2, ⟨0, true, 0⟩)] }, _, _, rfl, rfl, rfl, rfl,
      rfl, rfl, rfl, rfl, rfl, rfl⟩,
    ⟨0, 0, 4, launching { planned with checked := true, units := [[0], [1]], dealt := 1, given := [(0, 1)] }, _, 1, [1], 1, rfl, rfl,
      rfl, rfl, rfl, rfl, rfl, rfl, rfl, rfl, by decide, rfl, by decide, by decide, rfl, by decide, by decide⟩,
    ⟨4, launching { planned with since := 4463 }, _, rfl, rfl, by decide, by decide⟩,
    ⟨4, launching { planned with checked := true, units := [[0], [1]], dealt := 2, running := [⟨1, 1, [], [], false⟩] }, _, rfl, rfl,
      by decide, rfl, by decide, rfl⟩,
    ⟨4, (launching { planned with checked := true, units := [[0], [1]], dealt := 2 }).modPDie 0 0 fun p => { p with
        deps := [(1, ⟨3, false, 0⟩)] }, _, _, rfl, rfl, by decide, rfl, by decide, rfl, rfl, rfl, rfl⟩,
    ⟨meeting, meeter 0 [(meeting, ⟨0, [1]⟩)], _, rfl, by decide, rfl, rfl⟩⟩

/-- The worker's partition on core 0 in the phase given. -/
def switching (s : State) (phase : BitVec 2) : State := s.modPCore 0 0 fun p => { p with phase := phase, drain := 4 }

theorem meets_SwitchRows :
    (∃ (core part : Nat) (s : State) (p : PCore), p = s.pcore core part ∧ p.phase ≠ 0) ∧
    (∃ (core part : Nat) (s : State) (p : PCore) (j : Nat) (w : Thread), p = s.pcore core part ∧ p.phase = 0 ∧ j < 8 ∧
      s.thread? (core * 8 + j) = some w ∧ w.part = part ∧ w.kind ≠ .control) ∧
    (∃ (core part : Nat) (s : State) (p : PCore), p = s.pcore core part ∧ p.phase = 0 ∧
      (∀ x ∈ s.threads, coreOf x.1 = core → x.2.part = part → x.2.kind = .control)) ∧
    (∃ (core part : Nat) (s : State) (p : PCore) (tid : Nat), p = s.pcore core part ∧ p.phase = 1 ∧ p.reqAt + 2 ^ 20 ≤ s.cycle ∧
      (s.threads.filter fun x => decide (coreOf x.1 = core) && decide (x.2.part = part) && decide (x.2.kind ≠ .control) && x.2.preempt).map (·.1) =
        [tid]) ∧
    (∃ (core part : Nat) (s : State) (p : PCore) (e : Nat) (g : Engine), p = s.pcore core part ∧ p.phase = 2 ∧
      p.phase2At + p.drain.toNat ≤ s.cycle ∧ s.engines = [(e, g)] ∧ g.core = core ∧ g.part = part ∧ g.ctrl = false ∧ g.kind = .copy ∧
      g.stopped = false ∧ g.finished = false) ∧
    (∃ (core part : Nat) (s : State) (p : PCore), p = s.pcore core part ∧ p.phase = 2 ∧
      (∀ x ∈ s.engines, x.2.core = core → x.2.part = part → x.2.ctrl = true)) ∧
    (∃ (core part : Nat) (s : State) (p : PCore), p = s.pcore core part ∧ p.phase ≠ 3) ∧
    (∃ (core part : Nat) (s : State) (p : PCore) (k : Nat) (old : Thread), p = s.pcore core part ∧ p.phase = 3 ∧ p.spill = [] ∧
      p.vacated = [(k, old)]) :=
  ⟨⟨0, 0, switching (on worker) 1, _, rfl, by decide⟩, ⟨0, 0, on worker, _, 1, _, rfl, rfl, by decide, rfl, rfl, by decide⟩,
    ⟨0, 0, chief 5 0, _, rfl, rfl, by decide⟩, ⟨0, 0, switching { on { worker with preempt := true } with cycle := 1048576 } 1, _, 1, rfl, rfl, by decide, rfl⟩,
    ⟨0, 0, switching (driving (engine .copy)) 2, _, 0, engine .copy, rfl, rfl, by decide, rfl, rfl, rfl, rfl, rfl, rfl, rfl⟩,
    ⟨0, 0, switching (on worker) 2, _, rfl, rfl, by decide⟩, ⟨0, 0, switching (on worker) 2, _, rfl, by decide⟩,
    ⟨0, 0, (switching { base 35 with threads := [] } 3).modPCore 0 0 fun p => { p with vacated := [(1, worker)] }, _, 1, worker, rfl, rfl, rfl,
      rfl⟩⟩

/-! #### What comes from outside -/

/-- Partition 0 with the function's state given and one request sent. -/
def asked (state : BitVec 2) (gen : BitVec 12) : State :=
  (on worker).modPP 0 fun p => { p with vfState := state, vfPir := 0x5000, intReqs := [(9, gen)] }

theorem meets_ErrorRows :
    (∃ (s : State) (tid : Nat) (th : Thread) (p : Park), s.thread? tid = some th ∧ th.park = some p ∧ p.entry = true) ∧
    (∃ (s : State) (pa : Nat), (s.home pa).isSome = true ∧ spaceOf pa ≠ 3) ∧ (∃ b : Nat, b < 64) ∧
    (∃ (s : State) (tid n : Nat), (s.core (coreOf tid)).scrubs = [(slotOf tid, n)]) ∧
    (∃ (s : State) (die part c : Nat) (th : Thread) (p : PDie), p = s.pdie die part ∧ p.wdLim ≠ 0 ∧ p.wdLim ≤ p.wdCnt ∧
      p.hangSent = false ∧ s.lowCore die = some c ∧ s.thread? (c * 8 + ctrlSlot (s.pdie (dieOf c) part)) = some th ∧
      th.pendSet.length < 64) ∧
    (∃ (s : State) (part : Nat) (lab : Label), lab &&& ~~~(s.owner part) = 0) ∧
    (∃ (s : State) (part : Nat) (lab : Label), lab &&& ~~~(s.owner part) ≠ 0) ∧
    (∃ (s : State) (part : Nat) (vec : BitVec 8) (gen : BitVec 12) (l : List (BitVec 8 × BitVec 12)), s.fixed.form = .m ∧
      (s.pp part).intReqs = (vec, gen) :: l ∧ gen = (s.pp part).vfGen ∧ (s.pp part).vfState = 0) ∧
    (∃ (s : State) (part : Nat) (vec : BitVec 8) (gen : BitVec 12) (l : List (BitVec 8 × BitVec 12)), s.fixed.form = .m ∧
      (s.pp part).intReqs = (vec, gen) :: l ∧ gen = (s.pp part).vfGen ∧ ((s.pp part).vfState = 1 ∨ (s.pp part).vfState = 2)) ∧
    (∃ (s : State) (part : Nat) (vec : BitVec 8) (gen : BitVec 12) (l : List (BitVec 8 × BitVec 12)), s.fixed.form = .m ∧
      (s.pp part).intReqs = (vec, gen) :: l ∧ (gen ≠ (s.pp part).vfGen ∨ (s.pp part).vfState = 3)) ∧
    (∃ (s : State) (part : Nat), s.fixed.form = .m ∧ (s.pp part).vfState ≠ 3 ∧ (s.pp part).vfState = 0) ∧
    (∃ (s : State) (part : Nat), s.fixed.form = .m ∧ (s.pp part).vfState ≠ 3 ∧ (s.pp part).vfState ≠ 0) :=
  ⟨⟨on (parkedAt (.waitq 0 5 4) (.clock false 16) 4 4), 1, _, _, rfl, rfl, rfl⟩, ⟨on worker, localWord, rfl, by decide⟩, ⟨63, by decide⟩,
    ⟨(on worker).modCore 0 fun c => { c with scrubs := [(2, 9)] }, 2, 9, rfl⟩,
    ⟨(chief 5 0).modPDie 0 0 fun p => { p with wdLim := 8, wdCnt := 8 }, 0, 0, 0, _, _, rfl, by decide, by decide, rfl, rfl, rfl, by decide⟩,
    ⟨on worker, 0, 0, by decide⟩, ⟨on worker, 0, 1, by decide⟩, ⟨asked 0 0, 0, 9, 0, [], rfl, rfl, rfl, rfl⟩,
    ⟨asked 2 0, 0, 9, 0, [], rfl, rfl, rfl, .inr rfl⟩, ⟨asked 0 1, 0, 9, 1, [], rfl, rfl, .inl (by decide)⟩,
    ⟨asked 0 0, 0, rfl, by decide, rfl⟩, ⟨asked 1 0, 0, rfl, by decide, by decide⟩⟩

/-- A location of the partition's local store under a label. -/
def labelled (lab : Label) : State := { on worker with blab := [(localWord / 256, lab)] }

theorem no_phase_three {s : State} {c : Nat} (h : ∀ i : Fin 4, ((s.core c).parts.get i).phase ≠ 3) (p : Nat) :
    (s.pcore c p).phase ≠ 3 := h (Fin.ofNat 4 p)

/-- The worker's partition with a mailbox at the last plain word. -/
def boxed : State := (on worker).modPP 0 fun p => { p with mboxAddr := BitVec.ofNat 64 localWord }

/-- A running machine whose function 0 is of a secure world. -/
def served (s : State) : State := { s with bootMode := 1, worlds := [(4096, true)] }

theorem meets_HostRows :
    (∃ (s : State) (fab : Bool) (part pa c : Nat), s.fixed.form = .m ∧ s.bootMode = 1 ∧
      (fab = true ∨ ∃ d, d < 2 ∧ (s.pdie d part).v = true) ∧ pa % 8 = 0 ∧ spaceOf pa = 1 ∧ isVfPage pa = false ∧
      s.inboundHome fab part pa { kind := 0, size := 8 } = some (.core c) ∧ s.inboundBarred fab part = false ∧
      (∀ p, (s.pcore c p).phase ≠ 3) ∧ s.waiters = [] ∧ s.isPoisoned pa 8 = false ∧ s.blockLabel pa &&& ~~~(s.owner part) = 0) ∧
    (∃ (s : State) (fab : Bool) (part pa c : Nat), s.fixed.form = .m ∧ s.bootMode = 1 ∧
      (fab = true ∨ ∃ d, d < 2 ∧ (s.pdie d part).v = true) ∧ pa % 8 = 0 ∧ spaceOf pa = 1 ∧ isVfPage pa = false ∧
      s.inboundHome fab part pa { kind := 0, size := 8 } = some (.core c) ∧ s.inboundBarred fab part = false ∧
      (∀ p, (s.pcore c p).phase ≠ 3) ∧ s.waiters = [] ∧ s.isPoisoned pa 8 = false ∧ s.blockLabel pa &&& ~~~(s.owner part) ≠ 0) ∧
    (∃ (s : State) (fab : Bool) (part pa c : Nat) (l : List Byte), s.fixed.form = .m ∧ s.bootMode = 1 ∧
      (fab = true ∨ ∃ d, d < 2 ∧ (s.pdie d part).v = true) ∧ pa % 8 = 0 ∧ spaceOf pa = 1 ∧
      isVfPage pa = false ∧ l.length = 8 ∧ s.inboundHome fab part pa { kind := 1, size := 8 } = some (.core c) ∧
      s.inboundBarred fab part = false ∧ (∀ p, (s.pcore c p).phase ≠ 3) ∧ s.waiters = [] ∧ s.owner part &&& ~~~(s.blockLabel pa) = 0) ∧
    (∃ (s : State) (part : Nat), ∀ d, d < 2 → (s.pdie d part).v = false) ∧
    (∃ (s : State) (part pa c : Nat), s.fixed.form = .m ∧ s.bootMode = 1 ∧ (∃ d, d < 2 ∧ (s.pdie d part).v = true) ∧ pa = (s.pp part).mboxAddr.toNat ∧ pa % 8 = 0 ∧ spaceOf pa = 1 ∧
      s.inboundHome false part pa { kind := 1, size := 8, fe := true } = some (.core c) ∧ s.inboundBarred false part = false ∧
      (∀ p, (s.pcore c p).phase ≠ 3) ∧ s.waiters = [] ∧ s.owner part &&& ~~~(s.blockLabel pa) = 0) ∧
    (∃ (s : State) (part : Nat), (s.pp part).epochAt + Config.epochLen ≤ s.cycle) :=
  ⟨⟨served (on worker), false, 0, localWord, 0, rfl, rfl, .inr ⟨0, by decide, rfl⟩, by decide, by decide, by decide, rfl, rfl, no_phase_three (by decide), rfl, rfl,
      by decide⟩,
    ⟨served (labelled 1), true, 0, localWord, 0, rfl, rfl, .inl rfl, by decide, by decide, by decide, rfl, rfl, no_phase_three (by decide), rfl, rfl,
      by decide⟩,
    ⟨served (on worker), false, 0, localWord, 0, List.replicate 8 1, rfl, rfl, .inr ⟨0, by decide, rfl⟩, by decide, by decide, by decide, rfl, rfl, rfl,
      no_phase_three (by decide), rfl, by decide⟩,
    ⟨State.reset, 0, by decide⟩,
    ⟨served boxed, 0, localWord, 0, rfl, rfl, ⟨0, by decide, rfl⟩, by decide, by decide, by decide, rfl, rfl, no_phase_three (by decide), rfl, by decide⟩,
    ⟨{ on worker with cycle := Config.epochLen }, 0, by decide⟩⟩

/-- A sealed image of this device: one byte of HBM. -/
def image : Sealed := ⟨State.reset.fixed.serial, [(5, 1)], []⟩

theorem meets_PowerRows :
    (∃ (s : State) (row : Nat), s.fixed.form ≠ .d ∧ (vget (s.die 0).links row).toNat < 2) ∧ (∃ (s : State) (row : Nat), s.fixed.form ≠ .d ∧ vget (s.die 0).links row ≠ 0) ∧
    (∃ (s : State), s.fixed.form = .m ∧ (∃ p, p < 4 ∧ (s.pp p).podCfg.extractLsb' 0 16 ≠ 0 ∧ (s.pp p).podCfg.getLsbD 40 = false) ∧
      (∀ c, s.slewAt = some c → c + 1024 ≤ s.cycle)) ∧
    (∃ (s : State), s.bootMode = 1 ∧ s.fixed.form = .m) ∧
    (∃ (s : State) (x : Sealed), s.bootMode = 1 ∧ s.fixed.form = .m ∧ s.sealedImage = some x ∧ x.serial = s.fixed.serial ∧ Memory.wf x.mem = true ∧
      (∀ c ∈ x.mem, spaceOf c.1 = 0 ∨ spaceOf c.1 = 2)) ∧
    (∃ (s : State), s.sag = false) ∧ (∃ (s : State), s.sag = true) ∧ (∃ (s : State), s.cycle % 8 = 0 ∧ s.throttled = false) ∧
    (∃ (s : State), s.cycle % 8 = 0 ∧ s.throttled = true) ∧
    (∃ (s : State) (stack pa n : Nat), stack < 8 ∧ s.fixed.form ≠ .d ∧
      vget (s.die (stack / 4)).scrubbed (stack % 4) < s.cycle / 2 ^ 24 ∧ s.home pa = some (.hbm n) ∧ n / 32 = stack) ∧
    (∃ (s : State) (stack : Nat), stack < 8 ∧ s.fixed.form ≠ .d ∧
      s.cycle / 2 ^ 24 ≤ vget (s.die (stack / 4)).scrubbed (stack % 4)) :=
  ⟨⟨on worker, 31, by decide, by decide⟩,
    ⟨(on worker).modDie 0 fun d => { d with links := vset d.links 3 2 }, 3, by decide, by decide⟩,
    ⟨{ ((on worker).modPP 3 fun p => { p with podCfg := 1 }) with cycle := 1024, slewAt := some 0 }, rfl, ⟨3, by decide, by decide, rfl⟩,
      fun c h => by cases h; decide⟩,
    ⟨{ on worker with bootMode := 1 }, rfl, rfl⟩,
    ⟨{ on worker with bootMode := 1, sealedImage := some image }, image, rfl, rfl, rfl, rfl, rfl, by decide⟩, ⟨on worker, rfl⟩,
    ⟨{ on worker with sag := true }, rfl⟩, ⟨{ on worker with cycle := 16 }, rfl, rfl⟩,
    ⟨{ on worker with cycle := 16, throttled := true }, rfl, rfl⟩,
    ⟨{ on worker with cycle := 2 ^ 24 }, 0, 0x20000, _, by decide, by decide, by decide, rfl, by decide⟩,
    ⟨on worker, 0, by decide, by decide, by decide⟩⟩

theorem meets_BootRows :
    (∃ (s : State), 1 ≤ s.stage ∧ s.stage < 7 ∧ s.powerAt + Config.startLimit ≤ s.cycle) ∧
    (∃ (s : State) (d x y : Nat), s.stage = 3 ∧ d < s.diesOf ∧ x < 32 ∧ y < 32 ∧ nget s.found (d * 1024 + y * 32 + x) = none ∧
      x = 0 ∧ y = 0 ∧ s.env.deadRouters.contains (d * 1024 + y * 32 + x) = false) ∧
    (∃ (s : State) (d x y : Nat), s.stage = 3 ∧ d < s.diesOf ∧ x < 32 ∧ y < 32 ∧ nget s.found (d * 1024 + y * 32 + x) = none ∧
      0 < x ∧ nget s.found (d * 1024 + y * 32 + (x - 1)) ≠ none ∧
      s.env.deadRouters.contains (d * 1024 + y * 32 + x) = false) ∧
    (∃ (s : State) (d x y : Nat), s.stage = 3 ∧ d < s.diesOf ∧ x < 32 ∧ y < 32 ∧ nget s.found (d * 1024 + y * 32 + x) = none ∧
      0 < y ∧ nget s.found (d * 1024 + (y - 1) * 32 + x) ≠ none ∧
      s.env.deadRouters.contains (d * 1024 + y * 32 + x) = false) ∧
    (∃ (s : State), s.stage = 3 ∧ s.found.length < 1024 * s.diesOf ∧ Config.discoveryNc ≤ Config.ncPerCc * (s.cycle - s.powerAt)) ∧
    (∃ (s : State), s.bootMode = 1) ∧ (∃ (s : State), s.bootMode = 2) :=
  ⟨⟨{ State.reset with stage := 6, cycle := Config.startLimit }, by decide, by decide, by decide⟩,
    ⟨{ State.reset with stage := 3 }, 0, 0, 0, rfl, by decide, by decide, by decide, rfl, rfl, rfl, rfl⟩,
    ⟨{ State.reset with stage := 3, found := [(30, true)] }, 0, 31, 0, rfl, by decide, by decide, by decide, rfl, by decide, by decide, rfl⟩,
    ⟨{ State.reset with stage := 3, found := [(960, true)] }, 0, 0, 31, rfl, by decide, by decide, by decide, rfl, by decide, by decide, rfl⟩,
    ⟨{ State.reset with stage := 3, cycle := Config.discoveryNc }, rfl, by decide, by decide⟩, ⟨{ State.reset with bootMode := 1 }, rfl⟩,
    ⟨{ State.reset with bootMode := 2 }, rfl⟩⟩

/-- The machine configured and running, with no thread. -/
def running : State := { State.reset with bootMode := 1 }

theorem meets_ConfigRows :
    (∃ s : State, s.bootMode = 0) ∧ (∃ (s : State) (die : Nat), s.diesOf ≤ die) ∧
    (∃ (s : State) (die part : Nat) (v : Word), part < 4 ∧ die < s.diesOf ∧ s.bootMode ≠ 0 ∧ (s.die die).cfgBusy = false ∧ s.cfgCheck die part v ≠ 0) ∧
    (∃ (s : State) (die part : Nat) (v : Word), part < 4 ∧ die < s.diesOf ∧ s.bootMode ≠ 0 ∧ (s.die die).cfgBusy = false ∧ s.cfgCheck die part v = 0 ∧
      v.extractLsb' 0 8 ≠ 0#8) ∧
    (∃ (s : State) (die part : Nat) (v : Word), part < 4 ∧ die < s.diesOf ∧ s.bootMode ≠ 0 ∧ (s.die die).cfgBusy = false ∧ s.cfgCheck die part v = 0 ∧
      v.extractLsb' 0 8 = 0#8) ∧
    (∃ (s : State) (core : Nat), (s.core core).outOfSvc = true) ∧
    (∃ (s : State) (core : Nat), (s.core core).outOfSvc = false ∧ (∀ k, k < 8 → s.thread? (core * 8 + k) = none)) ∧
    (∃ p : Nat, p < 16) ∧ (∃ (s : State) (part op page : Nat), s.invDrained part (invWord op page) = true) ∧
    (∃ (s : State) (die : Nat), die < s.diesOf ∧ s.bootMode = 1) :=
  ⟨⟨State.reset, rfl⟩, ⟨State.reset, 2, by decide⟩, ⟨running, 1, 3, 0x80000000, by decide, by decide, by decide, rfl, by decide⟩,
    ⟨running, 1, 3, 3, by decide, by decide, by decide, rfl, by decide, by decide⟩,
    ⟨running, 1, 3, 0, by decide, by decide, by decide, rfl, by decide, by decide⟩,
    ⟨running.modCore 5 fun c => { c with outOfSvc := true }, 5, rfl⟩, ⟨running, 5, rfl, fun _ _ => rfl⟩, ⟨15, by decide⟩,
    ⟨running, 0, 2, 5, rfl⟩, ⟨running, 0, by decide, rfl⟩⟩

/-! #### Frames, the machine as a whole, encoding -/

theorem meets_Frames :
    (∃ (i : Instr) (s t : State), Rules.registerOnly i = true ∧ exec i s = .next t) ∧
    (∃ (i : Instr) (s t u : State) (th : Thread) (r : Rules.AccessRule) (p : Place), Issues i s th ∧ Rules.access th i = some r ∧
      Local s th r.q r.va p t ∧ Rules.Completes s th r p t ∧ exec i s = .next u) :=
  ⟨⟨.add 0 1 2 3, on worker, _, rfl, rfl⟩,
    ⟨.stl 0 5 6 .w64 .sys, on (workerWith 6 0x1000), _, _, _, _, _, issues rfl, rfl, stays rfl, completes rfl, rfl⟩⟩

/-- A worker with a word mapped at 0x2000, or none there. -/
def runnable (pc : Word) : State :=
  { base 37 with threads := [(1, { worker with pc := pc })], mem := (base 37).mem ++ [(localPa 0 0x2003, 0xFC)] }

/-- Whether nothing from outside and no move of the machine's own comes first, and the worker, alone, may act. -/
def ready (s : State) : Bool :=
  s.nextInput.isNone && s.auto.isNone && nwf s.threads &&
    (match s.threads with | [x] => decide (x.1 = 1) && s.mayAct x | _ => false)

/-- The worker of a state that is ready. -/
def single (s : State) : Thread := match s.threads with | x :: _ => x.2 | [] => worker

theorem ready_alone {s : State} (h : ready s = true) :
    s.nextInput = none ∧ s.auto = none ∧ s.threads = [] ++ (1, single s) :: [] ∧ (∀ y ∈ ([] : List (Nat × Thread)), s.turnOf y = none) ∧
      s.mayAct (1, single s) = true ∧ nwf s.threads = true := by
  unfold ready at h
  simp only [Bool.and_eq_true, Option.isNone_iff_eq_none] at h
  obtain ⟨⟨⟨h1, h2⟩, h3⟩, h4⟩ := h
  refine ⟨h1, h2, ?_, fun y hy => (List.not_mem_nil hy).elim, ?_, h3⟩
  all_goals
    revert h4
    unfold single
    generalize s.threads = l
    rcases l with _ | ⟨⟨k, th⟩, _ | ⟨y, l⟩⟩
    · exact fun h => Bool.noConfusion h
    · intro h4
      simp only [Bool.and_eq_true, decide_eq_true_eq] at h4
      obtain ⟨rfl, h5⟩ := h4
      first | rfl | exact h5
    · exact fun h => Bool.noConfusion h

/-- The word that a fetch gives. -/
def fetched (x : State × Except XFail InstrWord) : InstrWord := match x.2 with | .ok w => w | .error _ => 0

/-- How a fetch or a check fails. -/
def failed {α : Type} (x : State × Except XFail α) : XFail := match x.2 with | .ok _ => ⟨.memPa, 0, 0, 0⟩ | .error f => f

theorem fetches {x : State × Except XFail InstrWord} (h : (match x.2 with | .ok _ => true | .error _ => false) = true) :
    x = (x.1, .ok (fetched x)) := by
  obtain ⟨s, r⟩ := x
  cases r with
  | ok w => rfl
  | error f => cases h

theorem fails {α : Type} {x : State × Except XFail α} (h : (match x.2 with | .ok _ => false | .error _ => true) = true) :
    x = (x.1, .error (failed x)) := by
  obtain ⟨s, r⟩ := x
  cases r with
  | ok w => cases h
  | error f => rfl

/-- A move that is made, from its test. -/
theorem made {x : Option State} (h : x.isSome = true) : x = some (x.getD State.reset) := by
  cases x with
  | some t => rfl
  | none => cases h

/-- A word to go on with. -/
def held : Again := ⟨.nop 0, 0, 1, [], 0, false⟩

theorem meets_StepRuns :
    (∃ (s t : State) (i : Instr), s.nextInput = some (i, t)) ∧
    (∃ (s t : State), s.nextInput = none ∧ s.auto = some t) ∧
    (∃ (s t : State) (k : Nat) (th : Thread) (l₁ l₂ : List (Nat × Thread)),
      (s.nextInput = none ∧ s.auto = none ∧ s.threads = l₁ ++ (k, th) :: l₂ ∧ (∀ y ∈ l₁, s.turnOf y = none) ∧
        s.mayAct (k, th) = true ∧ nwf s.threads = true) ∧
      s.firmWake k = none ∧ s.takePending k = some t) ∧
    (∃ (s t : State) (k : Nat) (th : Thread) (l₁ l₂ : List (Nat × Thread)),
      (s.nextInput = none ∧ s.auto = none ∧ s.threads = l₁ ++ (k, th) :: l₂ ∧ (∀ y ∈ l₁, s.turnOf y = none) ∧
        s.mayAct (k, th) = true ∧ nwf s.threads = true) ∧
      s.firmWake k = none ∧ s.takePending k = none ∧ s.parkWake k = some t) ∧
    (∃ (s : State) (a : Again) (k : Nat) (th : Thread) (l₁ l₂ : List (Nat × Thread)),
      (s.nextInput = none ∧ s.auto = none ∧ s.threads = l₁ ++ (k, th) :: l₂ ∧ (∀ y ∈ l₁, s.turnOf y = none) ∧
        s.mayAct (k, th) = true ∧ nwf s.threads = true) ∧
      s.takePending k = none ∧ th.park = none ∧ th.sched = [] ∧ th.again = some a) ∧
    (∃ (s t : State) (w : InstrWord) (i : Instr) (k : Nat) (th : Thread) (l₁ l₂ : List (Nat × Thread)),
      (s.nextInput = none ∧ s.auto = none ∧ s.threads = l₁ ++ (k, th) :: l₂ ∧ (∀ y ∈ l₁, s.turnOf y = none) ∧
        s.mayAct (k, th) = true ∧ nwf s.threads = true) ∧
      s.takePending k = none ∧ th.park = none ∧ th.sched = [] ∧ th.again = none ∧ s.fetch k th = (t, .ok w) ∧ decode w = .ok i) ∧
    (∃ (s t : State) (w : InstrWord) (r : IllReason) (k : Nat) (th : Thread) (l₁ l₂ : List (Nat × Thread)),
      (s.nextInput = none ∧ s.auto = none ∧ s.threads = l₁ ++ (k, th) :: l₂ ∧ (∀ y ∈ l₁, s.turnOf y = none) ∧
        s.mayAct (k, th) = true ∧ nwf s.threads = true) ∧
      s.takePending k = none ∧ th.park = none ∧ th.sched = [] ∧ th.again = none ∧ s.fetch k th = (t, .ok w) ∧ decode w = .error r) ∧
    (∃ (s t : State) (f : XFail) (k : Nat) (th : Thread) (l₁ l₂ : List (Nat × Thread)),
      (s.nextInput = none ∧ s.auto = none ∧ s.threads = l₁ ++ (k, th) :: l₂ ∧ (∀ y ∈ l₁, s.turnOf y = none) ∧
        s.mayAct (k, th) = true ∧ nwf s.threads = true) ∧
      s.takePending k = none ∧ th.park = none ∧ th.sched = [] ∧ th.again = none ∧ s.fetch k th = (t, .error f)) ∧
    (∃ (s : State) (a : Again) (k : Nat) (th : Thread) (l₁ l₂ : List (Nat × Thread)),
      (s.nextInput = none ∧ s.auto = none ∧ s.threads = l₁ ++ (k, th) :: l₂ ∧ (∀ y ∈ l₁, s.turnOf y = none) ∧
        s.mayAct (k, th) = true ∧ nwf s.threads = true) ∧
      s.takePending k = none ∧ th.park = none ∧ s.isTimed k th = true ∧ th.sched ≠ [] ∧ th.again = some a) ∧
    (∃ (s u : State) (k : Nat) (th : Thread) (p : Place), s.check (whoIs k th) { kind := 3, size := 4 } th.pc = (u, .ok p) ∧
      u.away p.leaf = false ∧ u.isPoisoned p.pa 4 = false ∧ nget (u.pcore (coreOf k) th.part).icache (p.pa / 4) = none) ∧
    (∃ (s x : State) (y th : Thread) (t : State) (f : XFail), s = x ∧ s.thread? s.cur = some y ∧ (y.settle s.rot).strayed = none ∧
      th = (y.settle s.rot).landed ∧ s.check (whoIs s.cur th) { kind := 3, size := 4 } th.pc = (t, .error f)) ∧
    (∃ (s : State), s.nextInput = none ∧ s.auto = none ∧ s.turn = none) :=
  ⟨⟨{ on worker with inputs := [.bootOk] }, _, _, rfl⟩,
    ⟨meeter 0 [(meeting, ⟨0, [1]⟩)], _, rfl, made rfl⟩,
    ⟨on { worker with pendSet := [notice] }, _, 1, _, [], [], ready_alone rfl, rfl, made rfl⟩,
    ⟨on (parkedAt (.fence 0 .pkg) (.scopeClosed .pkg) 63 0), _, 1, _, [], [], ready_alone rfl, rfl, rfl, made rfl⟩,
    ⟨on { worker with again := some held }, _, 1, _, [], [], ready_alone rfl, rfl, rfl, rfl, rfl⟩,
    ⟨runnable 0x2000, _, _, _, 1, _, [], [], ready_alone rfl, rfl, rfl, rfl, rfl, fetches rfl, rfl⟩,
    ⟨runnable 0x2004, _, _, _, 1, _, [], [], ready_alone rfl, rfl, rfl, rfl, rfl, fetches rfl, rfl⟩,
    ⟨runnable 0x100000, _, _, 1, _, [], [], ready_alone rfl, rfl, rfl, rfl, rfl, fails rfl⟩,
    ⟨timed { worker with again := some held, sched := [{ late with due := 9 }] } group 9, _, 1, _, [], [], ready_alone rfl, rfl, rfl, rfl,
      by decide, rfl⟩,
    ⟨runnable 0x2000, _, 1, { worker with pc := 0x2000 }, _, passed rfl, rfl, rfl, rfl⟩,
    ⟨runnable 0x100000, _, _, _, _, _, rfl, rfl, rfl, rfl, fails rfl⟩, ⟨State.reset, rfl, rfl, rfl⟩⟩

theorem meets_InvKept : ∃ s t : State, Inv s ∧ step s = .next t := ⟨State.reset, _, rfl, rfl⟩

theorem meets_RoundTrip : ∃ i : Instr, i.isWord = true ∧ i.wf = true := ⟨.add 7 63 62 61, rfl, rfl⟩

end Sys2Proof.Tests
end

section
/-! 03 R80: the hint words that change no architectural state. Each issues like any word, with the retirement of the thread as its
word finds it for its whole effect. -/

namespace Sys2Proof.Machine

theorem exec_nop (st : Stall) (s : State) : exec (.nop st) s = issue (.nop st) s .done := rfl

theorem exec_schedTrip (st : Stall) (n : BitVec 16) (s : State) : exec (.schedTrip st n) s = issue (.schedTrip st n) s .done := rfl

theorem exec_schedBias (st : Stall) (b : Bool) (s : State) : exec (.schedBias st b) s = issue (.schedBias st b) s .done := rfl

theorem exec_reservedHint (st : Stall) (k : BitVec 4) (p : BitVec 18) (s : State) :
    exec (.reservedHint st k p) s = issue (.reservedHint st k p) s .done := rfl

/-- A word without an effect of its own, once every check has let it pass, retires and leaves the rest as it stands (02 R45). -/
theorem issue_done_of_issues {i : Instr} {s : State} {th : Thread} (h : Issues i s th) :
    issue i s .done = .next (retired i s th s) := by
  rw [issue_of_issues h, conclude_done]

/-- Settles O5: each of the four kinds of hint is a word without an effect of its own. -/
theorem hintsDoNothing : Obligations.HintsDoNothing := by
  unfold Obligations.HintsDoNothing
  rintro i s th h (⟨st, rfl⟩ | ⟨st, n, rfl⟩ | ⟨st, b, rfl⟩ | ⟨st, k, p, rfl⟩)
  · rw [exec_nop, issue_done_of_issues h]
  · rw [exec_schedTrip, issue_done_of_issues h]
  · rw [exec_schedBias, issue_done_of_issues h]
  · rw [exec_reservedHint, issue_done_of_issues h]

end Sys2Proof.Machine
end

section
/-! 14 R326 to R328: the words that take, give up and zero accumulator banks. First the finite maps and masks they work on, then the
run of free banks that acqa looks for, then what it means for the thread that no command is under way, then the three words. -/

namespace Sys2Proof.Machine

/-! ### Banks of a core: reading after writing -/

/-- A map with the entries of some keys dropped: the other keys read as before. -/
theorem nget_filter_key {α : Type} (m : NMap α) (p : Nat → Bool) (k : Nat) :
    nget (m.filter fun c => p c.1) k = if p k then nget m k else none := by
  induction m with
  | nil => simp
  | cons c m ih =>
    obtain ⟨j, x⟩ := c
    by_cases hj : j = k
    · subst hj
      cases hp : p j <;> simp [hp, ih, nget]
    · cases hp : p j <;> simp [hp, ih, nget, hj]

@[simp] theorem State.core_modCore (s : State) (c : Nat) (f : Core → Core) : (s.modCore c f).core c = f (s.core c) := by
  rw [State.modCore, State.core_setCore]

theorem bankOf_dropBanks (c : Core) (m : Word) (j : Nat) :
    bankOf (dropBanks c m) j = if m.getLsbD j then BankVal.zero else bankOf c j := by
  unfold bankOf dropBanks
  rw [nget_filter_key c.banks (fun k => !m.getLsbD k)]
  cases m.getLsbD j <;> rfl

theorem bankOf_setBank (c : Core) (b : Nat) (x : BankVal) (j : Nat) :
    bankOf (c.setBank b x) j = if j = b then x else bankOf c j := by
  unfold bankOf Core.setBank
  by_cases hx : x = BankVal.zero <;> by_cases hj : j = b
  · subst hx hj; simp
  · simp [hx, hj, nget_ndel_ne]
  · subst hj; simp [hx]
  · simp [hx, hj, nget_nset_ne]

@[simp] theorem bankOf_dropDue (c : Core) (slot rot : Nat) (m : Word) (j : Nat) : bankOf (dropDue c slot rot m) j = bankOf c j := rfl

/-! ### Masks of banks -/

theorem mem_numsFrom {lo n j : Nat} : j ∈ numsFrom lo n ↔ lo ≤ j ∧ j < lo + n := by
  rw [numsFrom_eq, List.mem_map]
  constructor
  · rintro ⟨e, he, rfl⟩
    have := List.mem_range.1 he
    omega
  · rintro ⟨h₁, h₂⟩
    exact ⟨j - lo, List.mem_range.2 (by omega), by omega⟩

theorem pairwise_numsFrom (lo n : Nat) : (numsFrom lo n).Pairwise (· < ·) := by
  rw [numsFrom_eq, List.pairwise_map]
  exact List.pairwise_lt_range.imp (Nat.add_lt_add_left · lo)

theorem sumOver_eq_sum_map {α : Type} (l : List α) (f : α → Nat) : sumOver l f = (l.map f).sum := by
  rw [← sumOver_eq, sumOver, sumOver, List.foldl_map]; rfl

/-- The bits of a sum of distinct powers of two are their exponents. -/
theorem testBit_sumOver_two_pow {l : List Nat} (h : l.Pairwise (· < ·)) (j : Nat) :
    (sumOver l fun i => 2 ^ i).testBit j = true ↔ j ∈ l := by
  rw [sumOver_eq_sum_map, ← Nat.mem_bitIndices, Nat.bitIndices_sum_map_two_pow h.sortedLT]

theorem getLsbD_maskOf (b k j : Nat) : (maskOf b k).getLsbD j = true ↔ b ≤ j ∧ j < b + k ∧ j < 64 := by
  have hs := (pairwise_numsFrom b k).filter (· < 64)
  rw [maskOf, BitVec.getLsbD_ofNat, Bool.and_eq_true, decide_eq_true_eq, testBit_sumOver_two_pow hs, List.mem_filter, mem_numsFrom,
    decide_eq_true_eq]
  omega

/-! ### The lowest run of free banks (14 R326) -/

/-- The banks of a pool stand in rising order. -/
theorem pairwise_bankPool (p : PDie) : (bankPool p).Pairwise (· < ·) := by
  rw [bankPool, List.pairwise_flatMap]
  refine ⟨fun k _ => pairwise_numsFrom (8 * k) 8, ?_⟩
  refine ((pairwise_numsFrom 0 8).filter fun k => p.smask.getLsbD k).imp fun {k l} hkl i hi j hj => ?_
  have := mem_numsFrom.1 hi
  have := mem_numsFrom.1 hj
  omega

/-- The test of acqa at a bank is the spec's condition on the run from there. -/
theorem runTest_iff_freeAt (s : State) (th : Thread) (n b : Nat) :
    ((numsFrom b n).all fun i => (bankPool (s.pdie (dieOf (coreOf s.cur)) th.part)).contains i && !(s.heldBanks (coreOf s.cur)).getLsbD i)
      = true ↔ Rules.freeAt s th n b := by
  simp only [List.all_eq_true, Bool.and_eq_true, List.contains_iff_mem, Bool.not_eq_true']
  constructor
  · intro h i hi
    exact h (b + i) (mem_numsFrom.2 (by omega))
  · intro h i hi
    obtain ⟨hb, hn⟩ := mem_numsFrom.1 hi
    have := h (i - b) (by omega)
    rwa [Nat.add_sub_cancel' hb] at this

theorem freeRun_eq_none {s : State} {th : Thread} {n : Nat}
    (h : ∀ b ∈ bankPool (s.pdie (dieOf (coreOf s.cur)) th.part), ¬ Rules.freeAt s th n b) :
    freeRun (bankPool (s.pdie (dieOf (coreOf s.cur)) th.part)) (s.heldBanks (coreOf s.cur)) n = none :=
  List.find?_eq_none.2 fun b hb ht => h b hb ((runTest_iff_freeAt s th n b).1 ht)

/-- What `freeRun` finds is the least bank from which a run is free: the pool is in rising order. -/
theorem freeRun_eq_some {s : State} {th : Thread} {n b : Nat} (hn : 0 < n) (hb : Rules.freeAt s th n b)
    (hmin : ∀ d, d < b → ¬ Rules.freeAt s th n d) :
    freeRun (bankPool (s.pdie (dieOf (coreOf s.cur)) th.part)) (s.heldBanks (coreOf s.cur)) n = some b := by
  obtain ⟨l₁, l₂, hl⟩ := List.append_of_mem (hb 0 hn).1
  rw [Nat.add_zero] at hl
  refine List.find?_eq_some_iff_append.2 ⟨(runTest_iff_freeAt s th n b).2 hb, l₁, l₂, hl, fun d hd => ?_⟩
  have hlt : d < b := by
    have hp := pairwise_bankPool (s.pdie (dieOf (coreOf s.cur)) th.part)
    rw [hl, List.pairwise_append] at hp
    exact hp.2.2 d hd b (List.mem_cons_self ..)
  rw [Bool.not_eq_true', ← Bool.not_eq_true]
  exact fun ht => hmin d hlt ((runTest_iff_freeAt s th n d).1 ht)

/-! ### A thread with no command under way -/

theorem busy_of_no_cmds {s : State} {tid : Nat} (h : s.cmds tid = []) (mask : Word) (tiles : BitVec 8) :
    s.busy tid mask tiles = false := by
  simp [State.busy, h]

theorem issuedBusy_of_no_cmds {s : State} {tid : Nat} (h : s.cmds tid = []) (m : Word) : s.issuedBusy tid m = false := by
  simp [State.issuedBusy, h]

/-- Follow-ons in the queue are commands of the thread. -/
theorem followOns_of_no_cmds {s : State} {tid : Nat} (h : s.cmds tid = []) (m : Word) :
    followOns (s.core (coreOf tid)) (slotOf tid) m = [] := by
  refine List.filter_eq_nil_iff.2 fun x hx ht => ?_
  simp only [Bool.and_eq_true, decide_eq_true_eq] at ht
  obtain ⟨⟨hslot, -⟩, -⟩ := ht
  have hmem : x ∈ s.cmds tid := List.mem_filter.2 ⟨List.mem_append_right _ hx, decide_eq_true hslot⟩
  simp [h] at hmem

/-- The check of a held bank whose kind does not count lets the word pass. -/
theorem bankFail_of_held {th : Thread} {n : Bank} (h : th.abown.getLsbD n.toNat = true) (i : Instr) (s : State) (core k : Nat) :
    bankFail i th s core n.toNat [k] true = none := by
  have hn : n.toNat < 64 := n.isLt
  simp [bankFail, notHeld, numsFrom, h, hn]

/-! ### acqa (14 R326) -/

theorem exec_acqa (st : Stall) (x : SReg) (s : State) : exec (.acqa st x) s = execAcqa st x s := rfl

section
variable {st : Stall} {x : SReg} {s : State} {th : Thread} (h : Issues (.acqa st x) s th)
include h

theorem execAcqa_badCount (hn : (th.sv x).toNat % 32 = 0 ∨ 16 < (th.sv x).toNat % 32) :
    execAcqa st x s = .next (retired (.acqa st x) s (th.putS x 0xFFFFFFFFFFFFFFFD#64 (th.sl x ||| th.ctxl)) s) := by
  rw [execAcqa, issue_of_issues h]
  simp only [if_pos hn, conclude_done]

theorem execAcqa_overAllowance (hn : ¬ ((th.sv x).toNat % 32 = 0 ∨ 16 < (th.sv x).toNat % 32))
    (ha : 8 * th.slotsM < popcNat th.abown.toNat 64 + (th.sv x).toNat % 32) :
    execAcqa st x s = .next (retired (.acqa st x) s (th.putS x 0xFFFFFFFFFFFFFFFE#64 (th.sl x ||| th.ctxl)) s) := by
  rw [execAcqa, issue_of_issues h]
  simp only [if_neg hn, if_pos ha, conclude_done]

theorem execAcqa_noRun (hn : ¬ ((th.sv x).toNat % 32 = 0 ∨ 16 < (th.sv x).toNat % 32))
    (ha : ¬ 8 * th.slotsM < popcNat th.abown.toNat 64 + (th.sv x).toNat % 32)
    (hr : freeRun (bankPool (s.pdie (dieOf (coreOf s.cur)) th.part)) (s.heldBanks (coreOf s.cur)) ((th.sv x).toNat % 32) = none) :
    execAcqa st x s = .next (retired (.acqa st x) s (th.putS x 0xFFFFFFFFFFFFFFFF#64 (th.sl x ||| th.ctxl)) s) := by
  rw [execAcqa, issue_of_issues h]
  simp only [if_neg hn, if_neg ha, hr, conclude_done]

theorem execAcqa_grant {b : Nat} (hn : ¬ ((th.sv x).toNat % 32 = 0 ∨ 16 < (th.sv x).toNat % 32))
    (ha : ¬ 8 * th.slotsM < popcNat th.abown.toNat 64 + (th.sv x).toNat % 32)
    (hr : freeRun (bankPool (s.pdie (dieOf (coreOf s.cur)) th.part)) (s.heldBanks (coreOf s.cur)) ((th.sv x).toNat % 32) = some b) :
    execAcqa st x s = .next (retired (.acqa st x) s
      ({ th with abown := th.abown ||| maskOf b ((th.sv x).toNat % 32) }.putS x (BitVec.ofNat 64 b) (th.sl x ||| th.ctxl))
      (s.modCore (coreOf s.cur) fun c => dropBanks c (maskOf b ((th.sv x).toNat % 32)))) := by
  rw [execAcqa, issue_of_issues h]
  simp only [if_neg hn, if_neg ha, hr, conclude_done]

end

/-! ### rela (14 R327) -/

theorem exec_rela (st : Stall) (x : SReg) (s : State) : exec (.rela st x) s = execRela st x s := rfl

section
variable {st : Stall} {x : SReg} {s : State} {th : Thread} (h : Issues (.rela st x) s th)
include h

theorem execRela_notHeld (hm : th.sv x &&& ~~~th.abown ≠ 0) : execRela st x s =
    .next (trapped s (th.widen (th.sl x)) .accBank (wordOf (.rela st x)) (th.sv x &&& ~~~th.abown) 0 s) := by
  have hm' : th.sv x &&& ~~~(th.widen (th.sl x)).abown ≠ 0 := hm
  rw [execRela, issue_of_issues h]
  simp only [if_pos hm', accBank, conclude_trap]
  rfl

theorem execRela_release (hm : th.sv x &&& ~~~th.abown = 0) (hc : s.cmds s.cur = []) : execRela st x s =
    .next (retired (.rela st x) s { th with ctxl := th.ctxl ||| th.sl x, abown := th.abown &&& ~~~th.sv x }
      (s.modCore (coreOf s.cur) fun c => dropBanks c (th.sv x))) := by
  have hm' : ¬ th.sv x &&& ~~~(th.widen (th.sl x)).abown ≠ 0 := not_not.2 hm
  rw [execRela, issue_of_issues h]
  simp only [if_neg hm', issuedBusy_of_no_cmds hc, followOns_of_no_cmds hc, Bool.false_eq_true, if_false, List.any_nil,
    Bool.not_false, List.filter_true, conclude_done]
  rfl

end

/-! ### azero (14 R328) -/

theorem exec_azero (st : Stall) (n : Bank) (s : State) : exec (.azero st n) s = execAzero st n s := rfl

theorem execAzero_held {st : Stall} {n : Bank} {s : State} {th : Thread} (h : Issues (.azero st n) s th)
    (hb : th.abown.getLsbD n.toNat = true) (hc : s.cmds s.cur = []) :
    execAzero st n s = .next (retired (.azero st n) s th (s.modCore (coreOf s.cur) fun c =>
      (dropDue c (slotOf s.cur) s.rot (maskOf n.toNat 1)).setBank n.toNat ⟨0, 0, th.ctxl, false⟩)) := by
  rw [execAzero, issue_of_issues h]
  simp only [bankFail_of_held hb, busy_of_no_cmds hc, Bool.false_eq_true, if_false, conclude_done]

/-- Settles O36, word by word: acqa by the first of its tests that fails, rela by whether the thread holds every bank named, and
azero, whose checks pass. -/
theorem bankWords : Obligations.BankWords := by
  unfold Obligations.BankWords
  refine ⟨fun st x s th n h hn => ?_, fun st x s th h => ⟨fun hm => ?_, fun hm hc => ?_⟩, fun st n s th h hb hc => ?_⟩
  · subst hn
    rw [exec_acqa]
    refine ⟨fun h₁ => ?_, fun h₀ h₁ ha => ?_, fun h₀ h₁ ha hr => ?_, fun b h₀ h₁ ha hr hmin => ?_⟩
    · exact execAcqa_badCount h h₁
    · exact execAcqa_overAllowance h (by omega) ha
    · exact execAcqa_noRun h (by omega) (by omega) (freeRun_eq_none hr)
    · refine ⟨_, _, getLsbD_maskOf b _, fun j => ?_, State.modCore_threads .., State.modCore_mem ..,
        execAcqa_grant h (by omega) (by omega) (freeRun_eq_some h₀ hr hmin)⟩
      simp only [State.core_modCore, bankOf_dropBanks, getLsbD_maskOf]
  · rw [exec_rela]
    exact execRela_notHeld h hm
  · refine ⟨_, fun j => ?_, State.modCore_threads .., State.modCore_mem .., execRela_release h hm hc⟩
    rw [State.core_modCore, bankOf_dropBanks]
  · refine ⟨_, fun j => ?_, State.modCore_threads .., State.modCore_mem .., execAzero_held h hb hc⟩
    rw [State.core_modCore, bankOf_setBank, bankOf_dropDue]

end Sys2Proof.Machine
end
